-- ==== Sys2Proof/Word.lean ====
section
/-!
DEFINITION. The word types of the WP-3140: bytes of the link and of the staging pages, levels, lane numbers.
-/

namespace Sys2Proof

/-- A byte of the link, of drive data or of a staging page (00, Conventions). -/
abbrev Byte := BitVec 8

/-- A grey level, 0 (black) to 15 (white) (00, Levels and pixel data; R2). -/
abbrev Level := BitVec 4

/-- A lane number, 0 to 15 (R99). -/
abbrev LaneId := Fin 16

end Sys2Proof
end

