-- ==== Sys2Proof/Syntax.lean ====
section
/-!
DEFINITION. The commands of the WP-3140: one constructor for each row of spec/opcode_table.json, host commands and
events alike. A row that ends a transaction of the link carries what the host clocked in during it.
-/

namespace Sys2Proof

/-- What a transaction brought in on MOSI (R158): its complete bytes in order, and how many bits of an unfinished
last byte were sampled (0 when the transaction ended on a byte boundary). As SPI clocks both directions together,
the number of complete bytes is also the number of bytes of the outgoing frame sent in full. -/
structure Transfer where
  mosi : List Byte
  tailBits : Fin 8
  deriving DecidableEq, Repr

/-- Who may wait for the frame memory beside refresh (R151): the seven clients, the retirement client's operations
told apart by their lane (R152). -/
inductive Requester where
  | scanner
  | retirement (lane : LaneId)
  | admission
  | initialisation
  | inflow
  | copier
  | library
  deriving DecidableEq, Repr

/-- The steps of the part, a row of the table each. `ready` lists the clients that have come to have a transfer
ready since the step before (R151); `units` is what the burst moved (log 6). -/
inductive Instr where
  | powerOn
  | resetPin
  | transactionStart
  | poll (t : Transfer)
  | linkFailure (t : Transfer)
  | ident (t : Transfer)
  | status (t : Transfer)
  | countersRead (t : Transfer)
  | countersReadAndClear (t : Transfer)
  | configure (t : Transfer)
  | restart (t : Transfer)
  | noticeSet (t : Transfer)
  | noticeTake (t : Transfer)
  | readLog (t : Transfer)
  | libBegin (t : Transfer)
  | libData (t : Transfer)
  | libCommit (t : Transfer)
  | libAbandon (t : Transfer)
  | temp (t : Transfer)
  | railsOff (t : Transfer)
  | railsClearFault (t : Transfer)
  | postUpdate (t : Transfer)
  | pixels (t : Transfer)
  | cancel (t : Transfer)
  | clearDiscard (t : Transfer)
  | postCopy (t : Transfer)
  | overlayPush (t : Transfer)
  | overlayPop (t : Transfer)
  | overlaySwap (t : Transfer)
  | freeze (t : Transfer)
  | thaw (t : Transfer)
  | assume (t : Transfer)
  | initialisationWalkEnd
  | assumeWalkEnd
  | libChunkWriteEnd
  | commitWalkEnd
  | inflowChunkWriteEnd
  | admissionWalkEnd
  | frameStart
  | frameCompletion
  | retirementWalkEnd (lane : LaneId)
  | copierJobEnd
  | powerGoodSample (high : Bool)
  | riseTimeout
  | idleTimerExpiry
  | fallTimeEnd
  | intervalTimerExpiry
  | refreshRequest (ready : List Requester)
  | refreshEnd (ready : List Requester)
  | burstEnd (units : Nat) (ready : List Requester)
  | calibrationEnd
  | resetRelease
  deriving DecidableEq, Repr

end Sys2Proof
end

