-- ==== Sys2Proof/Decode.lean ====
section
/-!
DEFINITION. The command a word of the opcode table's bits spells. The WP-3140 has no instruction words: no row of
spec/opcode_table.json gives any bits, so no word spells a command. What a host command's bytes spell is `arrivalOf`
(Sys2Proof/Machine/Frames.lean).
-/

namespace Sys2Proof

/-- No row of the table has bits (log 23). -/
def decodeTableWord (_nbits _w : Nat) : Option Instr := none

end Sys2Proof
end

