-- ==== Sys2Proof/Config.lean ====
section
/-!
DEFINITION. What the part fixes (its capacities, 00 Capacities) and the one free value of the manual.
-/

namespace Sys2Proof.Config

/-- Lanes (R99). -/
abbrev laneCount : Nat := 16

/-- Records of the request table (R37). -/
abbrev requestRecords : Nat := 24

/-- Entries of the admission queue (R41). -/
abbrev queueEntries : Nat := 32

/-- Parts a request may use (R41). -/
abbrev partsPerRequest : Nat := 8

/-- Staging pages (R60). -/
abbrev stagingPages : Nat := 3584

/-- Bytes of a staging page (R60). -/
abbrev pageBytes : Nat := 4096

/-- Capacity of the inflow buffer in bytes of row data (R67). -/
abbrev inflowBytes : Nat := 65536

/-- Copier jobs (R119). -/
abbrev copierJobs : Nat := 8

/-- Overlay entries (R128). -/
abbrev overlayEntries : Nat := 4

/-- Completion records the log holds (R176). -/
abbrev logRecords : Nat := 32

/-- The most bytes one burst transfers (R151). -/
abbrev burstBytes : Nat := 64

/-- The most pixel records one burst transfers: a record's fields need 4 + 5 + 4 + 8 + 1 = 22 bits (R1), and a burst
has 64 bytes (R151, log 6). -/
abbrev burstRecords : Nat := burstBytes * 8 / 22

/-- The largest refresh debt (R154). -/
abbrev maxDebt : Nat := 8

/-- The time between two refresh requests in ns (R154). -/
abbrev refreshPeriodNs : Nat := 3900

/-- The fall time in ms (R139). -/
abbrev fallTimeMs : Nat := 20

/-- The largest payload of a frame (R158). -/
abbrev maxPayload : Nat := 4104

/-- The largest value of a counter, at which it saturates (R168). -/
abbrev counterMax : Nat := 4294967295

/-- FREE VALUE (log 8). What the byte at an address of the Staging Pool partition reads as in a power epoch
in which nothing has written it: "The content of the frame memory after power-on or the RESET pin is not defined"
(R150). It has no body: no proof can see its value. -/
opaque undefinedByte : (epoch : Nat) → (address : Nat) → Byte

end Sys2Proof.Config
end

