-- ==== Sys2Proof/Machine/Frames.lean ====
section
/-!
DEFINITION. The bytes of the link: little-endian fields, CRC-16, the kinds and result codes, the command frame, and the
classification and checks of what a transaction brought in (R158 to R161).
-/

namespace Sys2Proof.Machine

/-! ### Little-endian fields (00, Byte order) -/

/-- The n bytes of v, least significant first; v is taken modulo 256^n. -/
def leBytes : (n : Nat) → (v : Nat) → List Byte
  | 0, _ => []
  | n + 1, v => BitVec.ofNat 8 v :: leBytes n (v / 256)

/-- The number that bytes spell, least significant first. -/
def leNat : List Byte → Nat
  | [] => 0
  | b :: bs => b.toNat + 256 * leNat bs

/-- The field of `size` bytes at offset `off` of a payload. -/
def field (p : List Byte) (off size : Nat) : Nat := leNat ((p.drop off).take size)

/-- A 16-bit field read as a signed value (00, Temperature). -/
def fieldSigned (p : List Byte) (off : Nat) : Int := (BitVec.ofNat 16 (field p off 2)).toInt

/-- A signed value as a 16-bit field. -/
def leSigned (v : Int) : List Byte := leBytes 2 (BitVec.ofInt 16 v).toNat

/-! ### CRC-16 (00, Conventions) -/

/-- One shift of the remainder towards its least significant end. -/
def crcShift (c : BitVec 16) : BitVec 16 :=
  if c.getLsbD 0 then (c >>> 1) ^^^ 0x8408#16 else c >>> 1

/-- One byte taken into the remainder: combined into the low eight bits, then eight shifts. -/
def crcByte (c : BitVec 16) (b : Byte) : BitVec 16 :=
  crcShift (crcShift (crcShift (crcShift (crcShift (crcShift (crcShift (crcShift (c ^^^ b.setWidth 16))))))))

/-- The remainder carried on over further bytes (the running CRC of R29). -/
def crcFold (c : BitVec 16) (bs : List Byte) : BitVec 16 := bs.foldl crcByte c

/-- The value the remainder starts from. -/
def crcStart : BitVec 16 := 0xFFFF#16

/-- The checksum of a sequence of bytes. -/
def crc16 (bs : List Byte) : BitVec 16 := crcFold crcStart bs

/-! ### Result codes (R161) and kinds (R158) -/

/-- The part's verdict on a command (R161). -/
inductive Result where
  | ok | badCrc | badLength | unknownKind | badField | notConfigured | busy | tagInUse | noTag | tableFull
  | stagingFull | inflowFull | rowOrder | outOfPanel | tooLate | empty | sequence | notLoading
  deriving DecidableEq, Repr

/-- The codes of R161 (code 10 is not used). -/
def Result.code : Result → Nat
  | .ok => 0 | .badCrc => 1 | .badLength => 2 | .unknownKind => 3 | .badField => 4 | .notConfigured => 5
  | .busy => 6 | .tagInUse => 7 | .noTag => 8 | .tableFull => 9 | .stagingFull => 11 | .inflowFull => 12
  | .rowOrder => 13 | .outOfPanel => 14 | .tooLate => 15 | .empty => 16 | .sequence => 17 | .notLoading => 18

/-- The command kinds of the link (the kind table under R158). -/
inductive Kind where
  | ident | status | counters | configure | restart | noticeSet | noticeTake | readLog
  | libBegin | libData | libCommit | libAbandon | temp | rails
  | postUpdate | pixels | cancel | clearDiscard | postCopy | overlayPush | overlayPop | overlaySwap
  | freeze | thaw | assume
  deriving DecidableEq, Repr

/-- The kind byte of a command (the kind table under R158). -/
def Kind.code : Kind → Byte
  | .ident => 0x01 | .status => 0x02 | .counters => 0x03 | .configure => 0x04 | .restart => 0x05
  | .noticeSet => 0x10 | .noticeTake => 0x11 | .readLog => 0x12
  | .libBegin => 0x20 | .libData => 0x21 | .libCommit => 0x22 | .libAbandon => 0x23
  | .temp => 0x28 | .rails => 0x29
  | .postUpdate => 0x30 | .pixels => 0x31 | .cancel => 0x32 | .clearDiscard => 0x33
  | .postCopy => 0x38 | .overlayPush => 0x39 | .overlayPop => 0x3A | .overlaySwap => 0x3B
  | .freeze => 0x40 | .thaw => 0x41 | .assume => 0x48

/-- Every kind, in the order of the kind table. -/
def Kind.all : List Kind :=
  [.ident, .status, .counters, .configure, .restart, .noticeSet, .noticeTake, .readLog,
   .libBegin, .libData, .libCommit, .libAbandon, .temp, .rails,
   .postUpdate, .pixels, .cancel, .clearDiscard, .postCopy, .overlayPush, .overlayPop, .overlaySwap,
   .freeze, .thaw, .assume]

/-- The kind a byte names; none for a byte that is not one of the kinds (R160, UNKNOWN_KIND). -/
def Kind.ofCode (b : Byte) : Option Kind := Kind.all.find? fun k => k.code == b

/-! ### Command frames (R158) -/

/-- The start byte of a command frame. -/
def commandStart : Byte := 0xA5

/-- The bytes the CRC of a command frame covers: offsets 1 to 4 + L. -/
def commandBody (kind seq : Byte) (payload : List Byte) : List Byte :=
  kind :: seq :: (leBytes 2 payload.length ++ payload)

/-- The command frame of a kind, a sequence number and a payload: 7 + L bytes. -/
def commandFrame (kind seq : Byte) (payload : List Byte) : List Byte :=
  commandStart :: (commandBody kind seq payload ++ leBytes 2 (crc16 (commandBody kind seq payload)).toNat)

/-! ### What a transaction brought in (R159, R160) -/

/-- The verdict of the Link Port on a transaction's MOSI bytes. -/
inductive Arrival where
  /-- No command frame (R159). -/
  | poll
  /-- A link failure: its result code and sequence echo (R160). -/
  | failure (r : Result) (seq : Byte)
  /-- A frame that passes every check, dispatched to the owner of its kind (R160). -/
  | command (k : Kind) (seq : Byte) (payload : List Byte)
  deriving DecidableEq, Repr

/-- Check 1 of R160. The bytes after the frame's end count as received unless every one of them is 0xFF (R159);
so with filler excluded the count is 7 + L exactly when the frame is whole and what follows it is all 0xFF. -/
def badFrameLength (bytes : List Byte) (tailBits : Nat) : Bool :=
  let total := field bytes 3 2 + 7
  decide (bytes.length < 5) || decide (Config.maxPayload < field bytes 3 2) || decide (tailBits ≠ 0)
    || decide (bytes.length < total) || (bytes.drop total).any fun b => b != 0xFF#8

/-- The classification of R159 and the checks of R160, in their order. -/
def arrivalOf (t : Transfer) : Arrival :=
  match t.mosi with
  | [] => .poll
  | start :: rest =>
    if start ≠ commandStart then .poll
    else
      let seq := rest.getD 1 0
      if badFrameLength t.mosi t.tailBits.val then .failure .badLength seq
      else
        let len := field t.mosi 3 2
        let body := rest.take (4 + len)
        if (crc16 body).toNat ≠ field t.mosi (5 + len) 2 then .failure .badCrc seq
        else
          match Kind.ofCode (rest.getD 0 0) with
          | none => .failure .unknownKind seq
          | some k => .command k seq (body.drop 4)

end Sys2Proof.Machine
end

