-- ==== Sys2Proof/Machine/State.lean ====
section
/-!
DEFINITION. The state of the WP-3140: everything the spec gives the part, as plain data, and the state right after
power-on.
-/

namespace Sys2Proof.Machine

/-! ### Names of the manual -/

/-- The five modes (R18). -/
inductive Mode where
  | blank | clear | settle | quick | stroke
  deriving DecidableEq, Repr

/-- Collision granularity (R12). -/
inductive Granularity where
  | pixel | tile
  deriving DecidableEq, Repr

/-- Ghost policy of a request (R38). -/
inductive GhostPolicy where
  | upgrade | refuse | force
  deriving DecidableEq, Repr

/-- Collision policy of a request (R38). -/
inductive CollisionPolicy where
  | wait | split
  deriving DecidableEq, Repr

/-- Outcomes of parts and of requests (R43, R55). -/
inductive ReqOutcome where
  | done | noChange | cancelled | aborted | starved | railLost | ghostRefused | unsupported | flushed
  deriving DecidableEq, Repr

/-- Upgrade reason other than NONE (R44); NONE is the absent value. -/
inductive UpgradeReason where
  | residue | balance | indeterminate
  deriving DecidableEq, Repr

/-- Why an ACTIVE lane was aborted (R99). -/
inductive AbortReason where
  | cancelled | starved | railLost | restarted
  deriving DecidableEq, Repr

/-- A rectangle: column, row, width, height (00, Coordinates and rectangles). -/
structure Rect where
  col : Nat
  row : Nat
  width : Nat
  height : Nat
  deriving DecidableEq, Repr

/-- The configured panel width and height (R6). -/
structure Geometry where
  width : Nat
  height : Nat
  deriving DecidableEq, Repr

/-! ### Settings (CONFIGURE, R164) -/

/-- The settings of the CONFIGURE field table other than the geometry. -/
structure Settings where
  granularity : Granularity
  framePeriod : Nat
  residueLimit : Nat
  balanceLimit : Nat
  earlyThreshold : Nat
  highWatermark : Nat
  lowWatermark : Nat
  autoClear : Bool
  flushOnFault : Bool
  holdTime : Nat
  riseTimeout : Nat
  tempInterval : Nat
  deriving DecidableEq, Repr

/-! ### Pixel Store (chapter 01) -/

/-- One pixel record (R1 to R5). -/
structure PixelRecord where
  shown : Level
  owner : Option LaneId
  residue : Nat
  balance : Int
  indeterminate : Bool
  deriving DecidableEq, Repr

/-- The record the initialisation walk writes (R9). -/
def PixelRecord.initial : PixelRecord :=
  { shown := 15, owner := none, residue := 0, balance := 0, indeterminate := true }

/-- A walk of the Pixel Store in flight, with the number of positions it has written (R9, R14). -/
inductive PixelWalk where
  | initialise (done : Nat)
  | assume (rect : Rect) (level : Level) (done : Nat)
  deriving DecidableEq, Repr

/-- The Pixel Store. `pixels` lists the records that differ from the record of a fresh table, by record number
(R1), rising; `tiles` holds a pair (tile number, lane) for each lane in each tile entry (R11). -/
structure PixelStore where
  geometry : Option Geometry
  pixels : List (Nat × PixelRecord)
  tiles : List (Nat × LaneId)
  walk : Option PixelWalk
  deriving DecidableEq, Repr

/-! ### Waveform Library (chapter 02) -/

/-- Library state (R24). -/
inductive LibState where
  | empty | loading | valid | invalid
  deriving DecidableEq, Repr

/-- Failure reason (R24). -/
inductive LibReason where
  | none | size | crc | badCode | unbalanced
  deriving DecidableEq, Repr

/-- The commit of a load: none asked for, requested while a chunk write is in flight, or its walk in flight
(R31). -/
inductive CommitPhase where
  | none | requested | walking
  deriving DecidableEq, Repr

/-- A LIB_DATA chunk whose write is in flight (R30). -/
structure LibChunk where
  offset : Nat
  bytes : List Byte
  deriving DecidableEq, Repr

/-- A set of the directory: frame count and lead count (R20). -/
structure WaveSet where
  frames : Nat
  leads : Nat
  deriving DecidableEq, Repr

/-- The Waveform Library (R24). `data` holds the drive data stored so far, in order; `imbalances` the computed
imbalances, a list for each set in directory order, by entry number (R23); `moved` the bytes that the bursts of the chunk
write or commit walk in flight have transferred (R30, R32, R151), 0 without one. -/
structure Library where
  state : LibState
  reason : LibReason
  generation : Nat
  bounds : List Int
  directory : List WaveSet
  data : List Byte
  imbalances : List (List Int)
  expected : Nat
  received : Nat
  crc : BitVec 16
  hostCrc : BitVec 16
  write : Option LibChunk
  commit : CommitPhase
  moved : Nat
  deriving DecidableEq, Repr

/-! ### Request Manager (chapter 03) -/

/-- Where a request's targets come from (R38); the fill level is present only with FILL. -/
inductive Source where
  | inflow | fill (level : Level) | copy | overlay
  deriving DecidableEq, Repr

/-- State of a request (R39). -/
inductive ReqState where
  | openState | running | reporting
  deriving DecidableEq, Repr

/-- Cancel pending (R52). -/
inductive CancelPending where
  | none | plain | forced
  deriving DecidableEq, Repr

/-- The inflow tally of an INFLOW request (R64). -/
structure Tally where
  rowsAccepted : Nat
  closed : Bool
  deriving DecidableEq, Repr

/-- A request record (R38). `age` is the posting order number; it also tells records apart where the manual refers
to "the request record itself" (R66). `cancelled` notes a CANCEL that found no part driving or retiring: its release walks
end with CANCELLED (R50, log 31). -/
structure Request where
  age : Nat
  tag : Nat
  source : Source
  rect : Rect
  requestedMode : Mode
  ghost : GhostPolicy
  collision : CollisionPolicy
  early : Bool
  pages : Option (List Nat)
  rowsWritten : Nat
  state : ReqState
  withdrawn : Bool
  cancelPending : CancelPending
  cancelled : Bool
  withdrawalPending : Option ReqOutcome
  partsUsed : Nat
  partsFinished : Nat
  outcome : Option ReqOutcome
  modeUsed : Option Mode
  bandUsed : Option Nat
  upgradeReason : Option UpgradeReason
  pixelsDriven : Nat
  largestFrames : Nat
  tally : Option Tally
  deriving DecidableEq, Repr

/-- A queue entry (R41); `age` names its request. -/
structure QueueEntry where
  age : Nat
  part : Nat
  upgradePending : Bool
  admitting : Bool
  deriving DecidableEq, Repr

/-- A completion record (R176). -/
structure CompletionRecord where
  tag : Nat
  outcome : ReqOutcome
  requestedMode : Mode
  modeUsed : Mode
  upgradeReason : Option UpgradeReason
  band : Option Nat
  partsUsed : Nat
  pixelsDriven : Nat
  largestFrames : Nat
  deriving DecidableEq, Repr

/-- A place in the line of REPORTING requests, with the record composed at its entry (R56). -/
structure Reporting where
  age : Nat
  record : CompletionRecord
  deriving DecidableEq, Repr

/-- The Request Manager: request table in order of creation, admission queue oldest first, line of REPORTING
requests, and the next number of the order shared by requests and copier jobs (R119). -/
structure Requests where
  table : List Request
  queue : List QueueEntry
  line : List Reporting
  nextAge : Nat
  deriving DecidableEq, Repr

/-! ### Inflow Unit and Staging Pool (chapter 04) -/

/-- A chunk of the inflow buffer (R66); `age` names its request. -/
structure Chunk where
  age : Nat
  firstRow : Nat
  rowCount : Nat
  data : List Byte
  deriving DecidableEq, Repr

/-- The Inflow Unit: buffer oldest first; the number of bytes of the oldest chunk already written while its write
is in flight; discard flag; refill latch (R67, R68, R71, R73). -/
structure Inflow where
  buffer : List Chunk
  writing : Option Nat
  discard : Bool
  latch : Bool
  deriving DecidableEq, Repr

/-- The Staging Pool: the free page list, rising, and the bytes of the pages, cells of (page × 4096 + offset,
byte), rising; a byte not listed has not been written since the power epoch began (R60, R61, log 8). -/
structure StagingPool where
  free : List Nat
  bytes : List Host.Cell
  deriving DecidableEq, Repr

/-! ### Admission Unit (chapter 05) -/

/-- What an admission walk found of a pixel's ownership (R85): free, owned by a lane of this request, or owned by
a lane of another. -/
inductive Ownership where
  | free | sibling | foreign
  deriving DecidableEq, Repr

/-- What an admission walk read at one pixel (R84 to R90): the record's fields, the ownership, the pixel's tile and
whether its entry held a foreign lane, and the target where the mode consults one (log 30). -/
structure Reading where
  shown : Level
  residue : Nat
  balance : Int
  indeterminate : Bool
  ownership : Ownership
  tile : Nat
  tileForeign : Bool
  target : Option Level
  deriving DecidableEq, Repr

/-- An admission walk in flight (R84): the entry it examines, what it fixed at its start, and the readings it has
made, in row-major order (log 30). `pages` is the place of the request's targets at the start. -/
structure AdmissionWalk where
  age : Nat
  band : Nat
  mode : Mode
  dataReady : Bool
  pages : Option (List Nat)
  readings : List Reading
  deriving DecidableEq, Repr

/-- The Admission Unit's own state (R79, R80, R83). -/
structure Admission where
  passRunning : Bool
  passWanted : Bool
  passCut : Bool
  holdReported : Bool
  walk : Option AdmissionWalk
  deriving DecidableEq, Repr

/-! ### Lane Controller and Frame Scanner (chapter 06) -/

/-- The kind of a retirement walk, with the abort reason or the release outcome (R99). -/
inductive WalkKind where
  | complete | release (outcome : ReqOutcome) | abort (reason : AbortReason)
  deriving DecidableEq, Repr

/-- State of a lane that is not FREE; a RETIRING lane has its kind and the positions its walk has visited
(R100, R110). -/
inductive LaneState where
  | armed | active | retiring (kind : WalkKind) (done : Nat)
  deriving DecidableEq, Repr

/-- A lane record that is not FREE (R99). -/
structure Lane where
  tag : Nat
  part : Nat
  rect : Rect
  mode : Mode
  band : Nat
  frames : Nat
  leads : Nat
  early : Bool
  owned : Nat
  index : Nat
  state : LaneState
  deriving DecidableEq, Repr

/-- Mark of a frame (R103). -/
inductive FrameMark where
  | driven | frozen
  deriving DecidableEq, Repr

/-- A frame in flight: its mark and the next row to be output (R103). -/
structure Frame where
  mark : FrameMark
  nextRow : Nat
  deriving DecidableEq, Repr

/-- Drive codes (R21). -/
inductive DriveCode where
  | none | darken | lighten
  deriving DecidableEq, Repr

/-- The Frame Scanner: the frame timer (its load while it runs), freeze state, frame in flight, the codes on the
panel output port for the row begun last ([] is NONE on every pixel), and the codes of every row put out in the frame
in flight, or in the last one until the next begins (R102, R104, R108, log 20). -/
structure Scan where
  timer : Option Nat
  freeze : Bool
  frame : Option Frame
  port : List DriveCode
  output : List (List DriveCode)
  deriving DecidableEq, Repr

/-! ### Copier and Overlay Unit (chapter 07) -/

/-- Purpose and destination of a job (R119): the COPY request of that age, or the overlay entry that the job of this
age fills. -/
inductive JobPurpose where
  | copy (request : Nat) | push | swap
  deriving DecidableEq, Repr

/-- State of a job; a RUNNING one has the number of pixels read and the level read last when its byte is not yet
whole (R119, R121). -/
inductive JobState where
  | pending | running (done : Nat) (half : Option Level)
  deriving DecidableEq, Repr

/-- A copier job (R119). -/
structure Job where
  age : Nat
  purpose : JobPurpose
  rect : Rect
  pages : List Nat
  state : JobState
  rounding : Bool
  deriving DecidableEq, Repr

/-- An overlay entry (R128): CAPTURING with the age of its job, or HELD. -/
structure Overlay where
  rect : Rect
  pages : List Nat
  capturing : Option Nat
  deriving DecidableEq, Repr

/-- Job list oldest first; overlay stack, bottom entry first. -/
structure Copier where
  jobs : List Job
  overlays : List Overlay
  deriving DecidableEq, Repr

/-! ### Rail Controller and Temperature Monitor (chapter 08) -/

/-- Rail state (R135). -/
inductive RailState where
  | off | rising | on | falling | fault
  deriving DecidableEq, Repr

/-- The Rail Controller: state, RAIL_EN, the timers (load in ms while running) and the power-good filter (R135,
R136). -/
structure Rails where
  state : RailState
  enable : Bool
  riseTimer : Option Nat
  idleTimer : Option Nat
  fallTime : Option Nat
  accepted : Bool
  lastSample : Bool
  deriving DecidableEq, Repr

/-- Temperature state (R145). -/
inductive TempState where
  | none | valid | outOfRange | stale
  deriving DecidableEq, Repr

/-- The Temperature Monitor; `timer` is what the interval timer was loaded with, in s (R145). -/
structure Temperature where
  reading : Option Int
  staleness : Nat
  band : Option Nat
  state : TempState
  timer : Nat
  deriving DecidableEq, Repr

/-! ### Notice Unit, Completion Log, counters, Link Port (chapters 10, 11) -/

/-- Notice sources (R171). -/
inductive NoticeSource where
  | completion | starved | railFault | tempHold | tempStale | refill | inflowDiscard | overlayLost | libraryDone
  | ghost | queueRoom | linkError
  deriving DecidableEq, Repr

/-- The Notice Unit and the Completion Log: pending flags (bit n is source n; bit 0 is not used, R172), masks (bit g
is 1 while Gg is masked), priorities of G0 to G5, the ATTN pin (true: driven low), and the log, oldest first. -/
structure Notices where
  flags : BitVec 12
  masks : BitVec 6
  priorities : Vector Nat 6
  attn : Bool
  log : List CompletionRecord
  deriving DecidableEq, Repr

/-- The eight counters (R168). -/
structure Counters where
  framesScanned : Nat
  lanesArmed : Nat
  upgrades : Nat
  ghostRefusals : Nat
  starvations : Nat
  aborts : Nat
  frameErrors : Nat
  inflowRefusals : Nat
  deriving DecidableEq, Repr

/-- The trailer of a reply (R158, R162). -/
structure Trailer where
  inflowFree : Nat
  pending : BitVec 12
  attn : Bool
  replyLost : Bool
  discard : Bool
  frozen : Bool
  freeRecords : Nat
  freeEntries : Nat
  freePages : Nat
  deriving DecidableEq, Repr

/-- A reply frame (R158, R161). -/
structure Reply where
  kind : Byte
  seq : Byte
  result : Result
  payload : List Byte
  trailer : Trailer
  deriving DecidableEq, Repr

/-- A transaction in flight: one whose falling edge came while RESET was held or before its release is ignored
(R170); any other has its outgoing frame fixed, from the reply slot or an IDLE frame (R158). -/
inductive Transaction where
  | ignored | live (outgoing : Reply) (fromSlot : Bool)
  deriving DecidableEq, Repr

/-- The Link Port: reply slot, transaction in flight, and whether RESET is held asserted (R158, R163, R170). -/
structure LinkPort where
  slot : Option Reply
  transaction : Option Transaction
  resetHeld : Bool
  deriving DecidableEq, Repr

/-! ### Frame Memory Controller (chapter 09) -/

/-- What the frame memory is doing: a refresh operation, or a burst of a client. The burst of an operation that has
been abandoned completes for nobody (R153): `live` is false. -/
inductive Grant where
  | refresh | burst (who : Requester) (live : Bool)
  deriving DecidableEq, Repr

/-- The Frame Memory Controller (R157), and the power epoch that tells which undefined contents it holds (log 8);
`refreshTimer` is what the refresh timer was loaded with, in ns (R154). -/
structure FrameMemory where
  calibrating : Bool
  granted : Option Grant
  waiting : List Requester
  debt : Nat
  refreshTimer : Nat
  lastLane : LaneId
  epoch : Nat
  deriving DecidableEq, Repr

/-! ### The whole part -/

/-- The state of the WP-3140, and the queue of commands waiting, first in first out. -/
structure State where
  settings : Settings
  px : PixelStore
  lib : Library
  req : Requests
  inflow : Inflow
  pool : StagingPool
  adm : Admission
  lanes : Vector (Option Lane) 16
  scan : Scan
  copier : Copier
  rails : Rails
  temp : Temperature
  notices : Notices
  counters : Counters
  link : LinkPort
  mem : FrameMemory
  pending : List Instr
  deriving DecidableEq, Repr

/-- Why a step stops. Every one is safe: the hardware has no such step there, so the model says nothing of it. -/
inductive Fault where
  /-- Raised by a row that ends a transaction when its bytes do not spell that row (log 4). Safe. -/
  | transferNotOfRow
  /-- Raised by TRANSACTION_START while a transaction is in flight: CS is low already (R158, log 3). Safe. -/
  | transactionInFlight
  /-- Raised by RESET_RELEASE while RESET is not held (R170, log 3). Safe. -/
  | resetNotHeld
  /-- Raised by INITIALISATION_WALK_END with no initialisation walk in flight (R9, log 3). Safe. -/
  | noInitialisationWalk
  /-- Raised by ASSUME_WALK_END with no assume walk in flight (R14, log 3). Safe. -/
  | noAssumeWalk
  /-- Raised by LIB_CHUNK_WRITE_END with no library chunk write in flight (R30, log 3). Safe. -/
  | noLibraryWrite
  /-- Raised by COMMIT_WALK_END with no commit walk in flight (R31, log 3). Safe. -/
  | noCommitWalk
  /-- Raised by INFLOW_CHUNK_WRITE_END with no chunk write in flight (R68, log 3). Safe. -/
  | noChunkWrite
  /-- Raised by ADMISSION_WALK_END with no admission walk in flight (R84, log 3). Safe. -/
  | noAdmissionWalk
  /-- Raised by FRAME_START while the frame timer is stopped (R102, log 3). Safe. -/
  | frameTimerStopped
  /-- Raised by FRAME_START while a frame is in flight, which R102 rules out (log 3). Safe. -/
  | frameInFlight
  /-- Raised by FRAME_COMPLETION with no frame in flight (R105, log 3). Safe. -/
  | noFrame
  /-- Raised by RETIREMENT_WALK_END of a lane that is not RETIRING (R110, log 3). Safe. -/
  | laneNotRetiring
  /-- Raised by COPIER_JOB_END with no job RUNNING (R119, log 3). Safe. -/
  | noRunningJob
  /-- Raised by RISE_TIMEOUT while the rise timer is stopped (R137, log 3). Safe. -/
  | riseTimerStopped
  /-- Raised by IDLE_TIMER_EXPIRY while the idle timer is stopped (R138, log 3). Safe. -/
  | idleTimerStopped
  /-- Raised by FALL_TIME_END while no fall time runs (R139, log 3). Safe. -/
  | noFallTime
  /-- Raised by REFRESH_END with no refresh operation in progress (R154, log 3). Safe. -/
  | noRefresh
  /-- Raised by BURST_END with no burst in progress (R151, log 3). Safe. -/
  | noBurst
  /-- Raised by CALIBRATION_END with no start-up calibration in progress (R155, log 3). Safe. -/
  | noCalibration
  deriving DecidableEq, Repr

/-- Why a command has no meaning. -/
inductive Refusal where
  /-- Raised by exec's arm for a row that has no meaning yet. Safe. -/
  | notModelled (mnemonic : String)
  deriving DecidableEq, Repr

/-- What a meaning answers. -/
abbrev Out := Host.Outcome State Fault Refusal

/-! ### Power-on (R16, R24, R58, R77, R98, R118, R134, R144, R145, R149, R157, R170, R178) -/

/-- The defaults of the CONFIGURE field table (R164). -/
def Settings.default : Settings :=
  { granularity := .pixel, framePeriod := 1200, residueLimit := 8, balanceLimit := 64, earlyThreshold := 0,
    highWatermark := 49152, lowWatermark := 16384, autoClear := false, flushOnFault := false,
    holdTime := 2000, riseTimeout := 100, tempInterval := 10 }

/-- The Pixel Store's initial state (R16). -/
def PixelStore.initial : PixelStore :=
  { geometry := none, pixels := [], tiles := [], walk := none }

/-- The library's initial state (R24); the running CRC starts at 0xFFFF (R27). -/
def Library.initial : Library :=
  { state := .empty, reason := .none, generation := 0, bounds := [], directory := [], data := [],
    imbalances := [], expected := 0, received := 0, crc := crcStart, hostCrc := 0, write := none, commit := .none
    moved := 0 }

/-- The Request Manager's initial state (R58). -/
def Requests.initial : Requests :=
  { table := [], queue := [], line := [], nextAge := 0 }

/-- The Inflow Unit's initial state (R77). -/
def Inflow.initial : Inflow :=
  { buffer := [], writing := none, discard := false, latch := false }

/-- All pages free, no byte of them defined (R60, R150). -/
def StagingPool.initial : StagingPool :=
  { free := List.range Config.stagingPages, bytes := [] }

/-- The Admission Unit's initial state (R98). -/
def Admission.initial : Admission :=
  { passRunning := false, passWanted := false, passCut := false, holdReported := false, walk := none }

/-- The Frame Scanner's initial state (R118). -/
def Scan.initial : Scan :=
  { timer := none, freeze := false, frame := none, port := [], output := [] }

/-- The Copier and Overlay Unit's initial state (R134). -/
def Copier.initial : Copier :=
  { jobs := [], overlays := [] }

/-- The Rail Controller's initial state (R135, R136). -/
def Rails.initial : Rails :=
  { state := .off, enable := false, riseTimer := none, idleTimer := none, fallTime := none,
    accepted := false, lastSample := false }

/-- The Temperature Monitor's initial state (R145). -/
def Temperature.initial : Temperature :=
  { reading := none, staleness := 0, band := none, state := .none, timer := Settings.default.tempInterval }

/-- The Notice Unit and the log initially (R174, R178): every group masked, priorities 5, 7, 4, 2, 3, 1. -/
def Notices.initial : Notices :=
  { flags := 0, masks := 0x3F, priorities := #v[5, 7, 4, 2, 3, 1], attn := false, log := [] }

/-- The counters at 0 (R168). -/
def Counters.zero : Counters :=
  { framesScanned := 0, lanesArmed := 0, upgrades := 0, ghostRefusals := 0, starvations := 0, aborts := 0,
    frameErrors := 0, inflowRefusals := 0 }

/-- The Frame Memory Controller at power-on: the start-up calibration has begun (R155, R157). -/
def FrameMemory.initial (epoch : Nat) : FrameMemory :=
  { calibrating := true, granted := none, waiting := [], debt := 0,
    refreshTimer := Config.refreshPeriodNs, lastLane := 15, epoch := epoch }

/-- Every block in its initial state, with a link, a power epoch and a queue given. -/
def State.initial (link : LinkPort) (epoch : Nat) (pending : List Instr) : State :=
  { settings := Settings.default, px := PixelStore.initial, lib := Library.initial, req := Requests.initial,
    inflow := Inflow.initial, pool := StagingPool.initial, adm := Admission.initial,
    lanes := Vector.replicate 16 none, scan := Scan.initial, copier := Copier.initial, rails := Rails.initial,
    temp := Temperature.initial, notices := Notices.initial, counters := Counters.zero, link := link,
    mem := FrameMemory.initial epoch, pending := pending }

/-- The part right after power-on, with nothing commanded (R170). -/
def State.reset : State :=
  State.initial { slot := none, transaction := none, resetHeld := false } 0 []

end Sys2Proof.Machine
end

