-- ==== Sys2Proof/Machine/Flags.lean ====
section
/-!
DEFINITION. The status the part shows: notice flags and ATTN, counters, codes of the status bytes, and the trailer of a
reply (chapters 10 and 11).
-/

namespace Sys2Proof.Machine

/-! ### Codes (R18, R45, R55, R141, R146, R167, R176) -/

/-- Mode code: place in the set directory (R18). -/
def Mode.code : Mode → Nat
  | .blank => 0 | .clear => 1 | .settle => 2 | .quick => 3 | .stroke => 4

/-- Mode selector of the payloads (R45). -/
def Mode.selector : Mode → Nat
  | .blank => 1 | .clear => 2 | .settle => 3 | .quick => 4 | .stroke => 5

/-- The mode a selector names (R45). -/
def Mode.ofSelector : Nat → Option Mode
  | 1 => some .blank | 2 => some .clear | 3 => some .settle | 4 => some .quick | 5 => some .stroke | _ => none

/-- BLANK and CLEAR are the clearing modes (R18). -/
def Mode.clearing : Mode → Bool
  | .blank | .clear => true
  | .settle | .quick | .stroke => false

/-- Residue weight of a non-clearing mode (R4, R18, R90). -/
def Mode.weight : Mode → Nat
  | .blank | .clear => 0
  | .settle => 1 | .quick => 2 | .stroke => 1

/-- Entries of a set (R18, R21). -/
def Mode.entries : Mode → Nat
  | .blank => 16
  | .clear | .settle | .quick | .stroke => 256

/-- Rank of an outcome, 1 the worst (R55). -/
def ReqOutcome.rank : ReqOutcome → Nat
  | .railLost => 1 | .starved => 2 | .aborted => 3 | .cancelled => 4 | .flushed => 5 | .ghostRefused => 6
  | .unsupported => 7 | .done => 8 | .noChange => 9

/-- Code of an outcome in a completion record (R176). -/
def ReqOutcome.code : ReqOutcome → Nat
  | .done => 0 | .noChange => 1 | .cancelled => 2 | .aborted => 3 | .starved => 4 | .railLost => 5
  | .ghostRefused => 6 | .unsupported => 7 | .flushed => 8

/-- An outcome brought into the outcome so far (R55): it replaces an absent or a better one. -/
def bringIn (soFar : Option ReqOutcome) (o : ReqOutcome) : ReqOutcome :=
  match soFar with
  | none => o
  | some old => if o.rank < old.rank then o else old

/-- Part outcome of an abort walk's end (R43). -/
def AbortReason.outcome : AbortReason → ReqOutcome
  | .cancelled => .aborted | .starved => .starved | .railLost => .railLost | .restarted => .aborted

/-- What a lane hands back at the end of its walk (R43, R99, R112). -/
def WalkKind.outcome : WalkKind → ReqOutcome
  | .complete => .done | .release o => o | .abort r => r.outcome

/-- Code of an upgrade reason, 0 for NONE (R176). -/
def upgradeCode : Option UpgradeReason → Nat
  | none => 0 | some .residue => 1 | some .balance => 2 | some .indeterminate => 3

/-- Code of a band, 0xFF for none (R146, R167, R176). -/
def bandCode : Option Nat → Nat
  | none => 0xFF | some b => b

/-- Code of a rail state (R141). -/
def RailState.code : RailState → Nat
  | .off => 0 | .rising => 1 | .on => 2 | .falling => 3 | .fault => 4

/-- Code of a temperature state (R146). -/
def TempState.code : TempState → Nat
  | .none => 0 | .valid => 1 | .outOfRange => 2 | .stale => 3

/-- Code of a library state (R167). -/
def LibState.code : LibState → Nat
  | .empty => 0 | .loading => 1 | .valid => 2 | .invalid => 3

/-- Code of a failure reason (R167). -/
def LibReason.code : LibReason → Nat
  | .none => 0 | .size => 1 | .crc => 2 | .badCode => 3 | .unbalanced => 4

/-- A flag as a byte or bit: 1 for set. -/
def bit (b : Bool) : Nat := if b then 1 else 0

/-! ### Notices (R171 to R173, R175) -/

/-- Number of a source (R171). -/
def NoticeSource.number : NoticeSource → Nat
  | .completion => 0 | .starved => 1 | .railFault => 2 | .tempHold => 3 | .tempStale => 4 | .refill => 5
  | .inflowDiscard => 6 | .overlayLost => 7 | .libraryDone => 8 | .ghost => 9 | .queueRoom => 10 | .linkError => 11

/-- Mask group of a source (R171). -/
def NoticeSource.group : NoticeSource → Fin 6
  | .completion => 0
  | .starved | .railFault => 1
  | .tempHold | .tempStale => 2
  | .refill | .inflowDiscard => 3
  | .overlayLost | .libraryDone | .ghost => 4
  | .queueRoom | .linkError => 5

/-- The twelve sources, by number. -/
def NoticeSource.all : List NoticeSource :=
  [.completion, .starved, .railFault, .tempHold, .tempStale, .refill, .inflowDiscard, .overlayLost, .libraryDone,
   .ghost, .queueRoom, .linkError]

/-- The flag word of one source. -/
def NoticeSource.mask (n : NoticeSource) : BitVec 12 := 1#12 <<< n.number

/-- Whether a source is pending: COMPLETION while the log holds a record, any other by its flag (R172). -/
def Notices.isPending (n : Notices) (src : NoticeSource) : Bool :=
  match src with
  | .completion => !n.log.isEmpty
  | other => n.flags.getLsbD other.number

/-- Whether the group of a source is unmasked (R173). -/
def Notices.unmasked (n : Notices) (src : NoticeSource) : Bool := !n.masks.getLsbD src.group.val

/-- The twelve pending states as the trailer carries them (R172). -/
def Notices.pendingWord (n : Notices) : BitVec 12 :=
  NoticeSource.all.foldl (fun w src => if n.isPending src then w ||| src.mask else w) 0

/-- The level R173 gives ATTN: asserted exactly when a pending source lies in an unmasked group. -/
def Notices.attnLevel (n : Notices) : Bool :=
  NoticeSource.all.any fun src => n.isPending src && n.unmasked src

/-- Of two candidates for NOTICE_TAKE, the one R175 takes: the higher priority of the groups, else the lower source
number, which is the one met first. -/
def Notices.better (n : Notices) (best : Option NoticeSource) (src : NoticeSource) : Option NoticeSource :=
  if n.isPending src && n.unmasked src then
    match best with
    | none => some src
    | some b => if n.priorities.get b.group < n.priorities.get src.group then some src else some b
  else best

/-- The source NOTICE_TAKE returns (R175). -/
def Notices.choice (n : Notices) : Option NoticeSource := NoticeSource.all.foldl n.better none

/-- A source is raised: its flag is set, whatever the mask (R172). COMPLETION has no flag and is not raised. -/
def raise (src : NoticeSource) (s : State) : State :=
  { s with notices := { s.notices with flags := s.notices.flags ||| src.mask } }

/-- ATTN takes the level of R173. -/
def syncAttn (s : State) : State :=
  { s with notices := { s.notices with attn := s.notices.attnLevel } }

/-! ### Counters (R168) -/

/-- One more, saturating at the largest 32-bit value. -/
def bump (n : Nat) : Nat := if n < Config.counterMax then n + 1 else n

/-- The eight counters in the order of R168, as the COUNTERS reply carries them. -/
def Counters.bytes (c : Counters) : List Byte :=
  [c.framesScanned, c.lanesArmed, c.upgrades, c.ghostRefusals, c.starvations, c.aborts, c.frameErrors,
   c.inflowRefusals].flatMap (leBytes 4)

/-! ### Trailer and reply frames (R158, R162) -/

/-- Fill level of the inflow buffer: the sum of its chunks' data lengths (R67). -/
def fillLevel (s : State) : Nat := (s.inflow.buffer.map fun c => c.data.length).sum

/-- Free space of the inflow buffer (R67). -/
def freeSpace (s : State) : Nat := Config.inflowBytes - fillLevel s

/-- The trailer that shows the part's condition now (R162). -/
def trailerOf (s : State) (replyLost : Bool) : Trailer :=
  { inflowFree := freeSpace s, pending := s.notices.pendingWord, attn := s.notices.attn, replyLost := replyLost,
    discard := s.inflow.discard, frozen := s.scan.freeze,
    freeRecords := Config.requestRecords - s.req.table.length,
    freeEntries := Config.queueEntries - s.req.queue.length,
    freePages := s.pool.free.length }

/-- The twelve bytes of a trailer (R158). -/
def Trailer.bytes (t : Trailer) : List Byte :=
  leBytes 4 t.inflowFree ++ leBytes 2 t.pending.toNat
    ++ leBytes 1 (bit t.attn + 2 * bit t.replyLost + 4 * bit t.discard + 8 * bit t.frozen)
    ++ leBytes 1 t.freeRecords ++ leBytes 1 t.freeEntries ++ leBytes 2 t.freePages ++ leBytes 1 0

/-- The start byte of a reply frame (R158). -/
def replyStart : Byte := 0x5A

/-- The bytes the CRC of a reply frame covers: offsets 1 to 17 + P (R158). -/
def Reply.body (r : Reply) : List Byte :=
  r.kind :: r.seq :: BitVec.ofNat 8 r.result.code :: (leBytes 2 r.payload.length ++ r.payload ++ r.trailer.bytes)

/-- The bytes of a reply frame (R158). -/
def Reply.frame (r : Reply) : List Byte :=
  replyStart :: (r.body ++ leBytes 2 (crc16 r.body).toNat)

/-- The length of a reply frame, 20 + P (R158). -/
def Reply.length (r : Reply) : Nat := 20 + r.payload.length

/-- The IDLE frame composed now (R162). -/
def idleFrame (s : State) : Reply :=
  { kind := 0, seq := 0, result := .ok, payload := [], trailer := trailerOf s false }

/-- Byte i of a transaction on MISO: byte i of the outgoing frame, 0xFF once it has been sent (R158); none while
MISO is high-impedance, that is with no transaction or one that is ignored (R158, R170), to the end of that
transaction (log 21). -/
def misoByte (s : State) (i : Nat) : Option Byte :=
  match s.link.transaction with
  | some (.live outgoing _) => some (outgoing.frame.getD i 0xFF)
  | some .ignored => none
  | none => none

end Sys2Proof.Machine
end

