-- ==== Sys2Proof/Machine/Ops.lean ====
section
/-!
DEFINITION. The operations the meanings share: sparse stores, staging bytes, pixel records, tiles, rectangles, pages,
lanes, request records, and who waits for the frame memory.
-/

namespace Sys2Proof.Machine

/-! ### Sparse stores: pairs (key, value) with keys strictly rising -/

/-- The value listed under a key. -/
def storeGet {α : Type} : List (Nat × α) → Nat → Option α
  | [], _ => none
  | (k, v) :: rest, key => if k = key then some v else storeGet rest key

/-- The store with a value listed under a key, in its place. -/
def storePut {α : Type} : List (Nat × α) → Nat → α → List (Nat × α)
  | [], key, v => [(key, v)]
  | (k, w) :: rest, key, v =>
    if key < k then (key, v) :: (k, w) :: rest
    else if key = k then (key, v) :: rest
    else (k, w) :: storePut rest key v

/-- The store with nothing listed under a key. -/
def storeErase {α : Type} : List (Nat × α) → Nat → List (Nat × α)
  | [], _ => []
  | (k, w) :: rest, key => if k = key then rest else (k, w) :: storeErase rest key

/-- The canonical form of a store: keys strictly rising. -/
def storeWf {α : Type} : List (Nat × α) → Bool
  | [] => true
  | [_] => true
  | (k, _) :: (k', w) :: rest => decide (k < k') && storeWf ((k', w) :: rest)

/-! ### Staging bytes (R61) -/

/-- The canonical form of the staging memory. An unlisted byte has not been written, which no listed one equals, so
rising addresses are the whole of it. -/
abbrev Memory.wf (m : List Host.Cell) : Bool := storeWf m

/-- The byte at an address of the Staging Pool partition; what nothing has written is a free value (log 8). -/
def stagingByte (s : State) (address : Nat) : Byte :=
  (storeGet s.pool.bytes address).getD (Config.undefinedByte s.mem.epoch address)

/-- The byte at an address becomes b. -/
def writeStaging (address : Nat) (b : Byte) (s : State) : State :=
  { s with pool := { s.pool with bytes := storePut s.pool.bytes address b } }

/-- Where byte `b` of the image of a page list lies (R61): page number at position ⌊b / 4096⌋, offset b mod 4096;
none beyond the list. -/
def imageAddress (pages : List Nat) (b : Nat) : Option Nat :=
  (pages[b / Config.pageBytes]?).map fun page => page * Config.pageBytes + b % Config.pageBytes

/-- Image byte of the pixel at column c and row r of a rectangle of width w (R61). -/
def imageByteOf (w c r : Nat) : Nat := r * (w / 2) + c / 2

/-- The level of the pixel in column c that a packed byte holds: low four bits for even c, high for odd (R61). -/
def unpackLevel (b : Byte) (c : Nat) : Level :=
  if c % 2 = 0 then b.extractLsb' 0 4 else b.extractLsb' 4 4

/-- Two levels packed in a byte, the left pixel in the low four bits (00, Levels and pixel data). -/
def packLevels (left right : Level) : Byte := left.setWidth 8 ||| (right.setWidth 8 <<< 4)

/-- The level QUICK gives a level: 0 for 0 to 7, 15 for 8 to 15 (R47, R68, R121). -/
def quickLevel (l : Level) : Level := if l < 8#4 then 0#4 else 15#4

/-- A packed byte with both levels rounded for QUICK (R68). -/
def quickByte (b : Byte) : Byte := packLevels (quickLevel (unpackLevel b 0)) (quickLevel (unpackLevel b 1))

/-- The level at column c and row r of an image of width w held in a page list (R61). -/
def imageLevel (s : State) (pages : List Nat) (w c r : Nat) : Level :=
  let b := imageByteOf w c r
  match imageAddress pages b with
  | some a => unpackLevel (stagingByte s a) c
  | none => unpackLevel (Config.undefinedByte s.mem.epoch (Config.stagingPages * Config.pageBytes + b)) c

/-- One byte of an image written at its place; bytes beyond the page list go nowhere. -/
def writeImage (pages : List Nat) (b : Nat) (v : Byte) (s : State) : State :=
  match imageAddress pages b with
  | some a => writeStaging a v s
  | none => s

/-- Consecutive bytes of an image, the first at image byte b. -/
def writeImageBytes (pages : List Nat) : (b : Nat) → List Byte → State → State
  | _, [], s => s
  | b, v :: vs, s => writeImageBytes pages (b + 1) vs (writeImage pages b v s)

/-! ### Rectangles (R7, R11, R82) -/

/-- Pixels of a rectangle. -/
def Rect.area (r : Rect) : Nat := r.width * r.height

/-- Whether a pixel lies in a rectangle. -/
def Rect.contains (r : Rect) (x y : Nat) : Bool :=
  decide (r.col ≤ x) && decide (x < r.col + r.width) && decide (r.row ≤ y) && decide (y < r.row + r.height)

/-- Whether two rectangles share a pixel position (R82). -/
def Rect.intersects (a b : Rect) : Bool :=
  decide (a.col < b.col + b.width) && decide (b.col < a.col + a.width)
    && decide (a.row < b.row + b.height) && decide (b.row < a.row + a.height)
    && decide (0 < a.area) && decide (0 < b.area)

/-- Column and row of the panel at position i of a rectangle, in row-major order (R14, R110, R121). -/
def Rect.position (r : Rect) (i : Nat) : Nat × Nat := (r.col + i % r.width, r.row + i / r.width)

/-- The check of R7, its three steps in order. -/
def rectCheck (g : Option Geometry) (r : Rect) : Option Result :=
  match g with
  | none => some .notConfigured
  | some g =>
    if r.col % 2 = 1 ∨ r.width % 2 = 1 ∨ r.width < 2 ∨ r.height < 1 then some .badField
    else if g.width < r.col + r.width ∨ g.height < r.row + r.height then some .outOfPanel
    else none

/-- A refusal if a condition holds; checks are put in order with `Option.or`, the first that fails deciding. -/
def failIf (c : Bool) (r : Result) : Option Result := if c then some r else none

/-! ### Pixel table and tile map (R1, R11) -/

/-- The width of the panel; 0 while the geometry is unset. -/
def panelWidth (s : State) : Nat := match s.px.geometry with | some g => g.width | none => 0

/-- The height of the panel; 0 while the geometry is unset. -/
def panelHeight (s : State) : Nat := match s.px.geometry with | some g => g.height | none => 0

/-- Records of the configured panel (R1). -/
def panelRecords (s : State) : Nat := panelWidth s * panelHeight s

/-- The record at column x and row y, record number y × width + x (R1); one not listed is as a fresh table has it
(R9). -/
def pixelAt (s : State) (x y : Nat) : PixelRecord :=
  (storeGet s.px.pixels (y * panelWidth s + x)).getD PixelRecord.initial

/-- A record in canonical form: the record of a fresh table is not listed. -/
def putPixel (pixels : List (Nat × PixelRecord)) (key : Nat) (r : PixelRecord) : List (Nat × PixelRecord) :=
  if r = PixelRecord.initial then storeErase pixels key else storePut pixels key r

/-- The canonical form of the pixel table: rising record numbers, no fresh record listed. -/
def pixelsWf (pixels : List (Nat × PixelRecord)) : Bool :=
  storeWf pixels && pixels.all fun e => decide (e.2 ≠ PixelRecord.initial)

/-- The record at column x and row y becomes f of itself. -/
def updatePixel (x y : Nat) (f : PixelRecord → PixelRecord) (s : State) : State :=
  { s with px := { s.px with pixels := putPixel s.px.pixels (y * panelWidth s + x) (f (pixelAt s x y)) } }

/-- The table with f applied to every listed record, given its record number. -/
def mapPixels (f : Nat → PixelRecord → PixelRecord) (pixels : List (Nat × PixelRecord)) : List (Nat × PixelRecord) :=
  (pixels.map fun e => (e.1, f e.1 e.2)).filter fun e => decide (e.2 ≠ PixelRecord.initial)

/-- Whether some pixel of a rectangle has an owner (R13, R120). A fresh record has none, so the listed records
decide; the tile map prefilter of the rules cannot change the answer (R11). -/
def anyOwned (s : State) (r : Rect) : Bool :=
  s.px.pixels.any fun e =>
    e.2.owner.isSome && r.contains (e.1 % panelWidth s) (e.1 / panelWidth s)

/-- Tile columns of the panel (R11). -/
def tileColumns (s : State) : Nat := (panelWidth s + 31) / 32

/-- Number of the tile in which a pixel lies (R11). -/
def tileOf (s : State) (x y : Nat) : Nat := (y / 32) * tileColumns s + x / 32

/-- The tiles a rectangle touches (R11). -/
def touchedTiles (s : State) (r : Rect) : List Nat :=
  (List.range ((r.row + r.height - 1) / 32 - r.row / 32 + 1)).flatMap fun j =>
    (List.range ((r.col + r.width - 1) / 32 - r.col / 32 + 1)).map fun i =>
      (r.row / 32 + j) * tileColumns s + (r.col / 32 + i)

/-- The lanes in a tile entry (R11). -/
def tileLanes (s : State) (tile : Nat) : List LaneId :=
  (s.px.tiles.filter fun e => e.1 == tile).map fun e => e.2

/-- A lane is added to every tile entry its rectangle touches (R11). -/
def addToTiles (l : LaneId) (r : Rect) (s : State) : State :=
  { s with px := { s.px with tiles := s.px.tiles ++ (touchedTiles s r).map fun t => (t, l) } }

/-- A lane is removed from every tile entry (R11). -/
def removeFromTiles (l : LaneId) (s : State) : State :=
  { s with px := { s.px with tiles := s.px.tiles.filter fun e => e.2 ≠ l } }

/-- The pixel table is initialising while a walk of the Pixel Store is in flight (R9, R14). -/
def initialising (s : State) : Bool := s.px.walk.isSome

/-! ### Waiting for the frame memory (R151, R153) -/

/-- A client begins to wait. Who is granted is decided at the end of the event. -/
def beginWait (r : Requester) (s : State) : State :=
  if s.mem.waiting.contains r then s
  else { s with mem := { s.mem with waiting := s.mem.waiting ++ [r] } }

/-- A client's operation has come to its end: it stops waiting, and a burst of it in progress has ended with it. -/
def clientDone (r : Requester) (s : State) : State :=
  { s with mem := { s.mem with
      waiting := s.mem.waiting.filter fun q => q ≠ r
      granted := if s.mem.granted = some (.burst r true) then none else s.mem.granted } }

/-- A client's operation is abandoned: it stops waiting, and a burst of it in progress completes for nobody (R153). -/
def clientAbandon (r : Requester) (s : State) : State :=
  { s with mem := { s.mem with
      waiting := s.mem.waiting.filter fun q => q ≠ r
      granted := if s.mem.granted = some (.burst r true) then some (.burst r false) else s.mem.granted } }

/-! ### Lanes (R99, R100) -/

/-- The sixteen lane numbers in order. -/
def allLanes : List LaneId := List.finRange 16

/-- A lane's record; none while it is FREE. -/
def laneAt (s : State) (l : LaneId) : Option Lane := s.lanes.get l

/-- A lane's record becomes v. -/
def setLane (l : LaneId) (v : Option Lane) (s : State) : State :=
  { s with lanes := s.lanes.set l.val v l.isLt }

/-- ARMED or ACTIVE: the states that make demand (R135). -/
def LaneState.driving : LaneState → Bool
  | .armed | .active => true
  | .retiring _ _ => false

/-- ACTIVE or RETIRING: the states that put a CANCEL past recall (R50, R51). -/
def LaneState.begun : LaneState → Bool
  | .active | .retiring _ _ => true
  | .armed => false

/-- Demand: some lane is ARMED or ACTIVE (R135). -/
def demand (s : State) : Bool :=
  allLanes.any fun l => match laneAt s l with | some ln => ln.state.driving | none => false

/-- Every lane is FREE. -/
def allFree (s : State) : Bool := allLanes.all fun l => (laneAt s l).isNone

/-- The lowest-numbered FREE lane (R94). -/
def freeLane (s : State) : Option LaneId := allLanes.find? fun l => (laneAt s l).isNone

/-- Whether the lane carries a tag and satisfies a condition on its state. -/
def laneOf (s : State) (tag : Nat) (p : LaneState → Bool) (l : LaneId) : Bool :=
  match laneAt s l with
  | some ln => (ln.tag == tag) && p ln.state
  | none => false

/-- Some lane of the tag is in such a state. -/
def anyLane (s : State) (tag : Nat) (p : LaneState → Bool) : Bool := allLanes.any (laneOf s tag p)

/-- A lane becomes RETIRING with a kind, and its walk begins (R109). -/
def beginRetire (l : LaneId) (kind : WalkKind) (s : State) : State :=
  match laneAt s l with
  | some ln => beginWait (.retirement l) (setLane l (some { ln with state := .retiring kind 0 }) s)
  | none => s

/-- An order to release: an ARMED lane becomes RETIRING with kind RELEASE; any other lane is left as it is
(R109). -/
def releaseLane (outcome : ReqOutcome) (s : State) (l : LaneId) : State :=
  match laneAt s l with
  | some ln => if ln.state = .armed then beginRetire l (.release outcome) s else s
  | none => s

/-- An abort: an ACTIVE lane becomes RETIRING with kind ABORT and the aborts counter counts it; any other lane is
left as it is (R107, R109). -/
def abortLane (reason : AbortReason) (s : State) (l : LaneId) : State :=
  match laneAt s l with
  | some ln =>
    if ln.state = .active then
      beginRetire l (.abort reason) { s with counters := { s.counters with aborts := bump s.counters.aborts } }
    else s
  | none => s

/-- Every ARMED lane of a tag is released with an outcome (R114). -/
def releaseArmed (tag : Nat) (outcome : ReqOutcome) (s : State) : State :=
  (allLanes.filter (laneOf s tag fun st => decide (st = .armed))).foldl (releaseLane outcome) s

/-- Every ACTIVE lane of a tag is aborted with a reason (R114). -/
def abortActive (tag : Nat) (reason : AbortReason) (s : State) : State :=
  (allLanes.filter (laneOf s tag fun st => decide (st = .active))).foldl (abortLane reason) s

/-- RETIRING in an abort walk that a RESTART started (R116). -/
def LaneState.restarted : LaneState → Bool
  | .retiring (.abort .restarted) _ => true
  | .retiring _ _ | .armed | .active => false

/-- The restart condition of R78: an abort walk that a RESTART started is running. -/
def restartWalks (s : State) : Bool :=
  allLanes.any fun l => match laneAt s l with | some ln => ln.state.restarted | none => false

/-! ### Requests and queue entries (R37, R41) -/

/-- The live request with a tag (R37). -/
def findTag (s : State) (tag : Nat) : Option Request := s.req.table.find? fun r => r.tag == tag

/-- The live request of an age. -/
def findAge (s : State) (age : Nat) : Option Request := s.req.table.find? fun r => r.age == age

/-- The queue entry of a request. -/
def entryOf (s : State) (age : Nat) : Option QueueEntry := s.req.queue.find? fun e => e.age == age

/-- Whether the request's entry is ADMITTING (R52). -/
def isAdmitting (s : State) (age : Nat) : Bool :=
  match entryOf s age with | some e => e.admitting | none => false

/-- The record of an age becomes f of itself. -/
def updateRequest (age : Nat) (f : Request → Request) (s : State) : State :=
  { s with req := { s.req with table := s.req.table.map fun r => if r.age = age then f r else r } }

/-- The entry of an age becomes f of itself, in its place. -/
def updateEntry (age : Nat) (f : QueueEntry → QueueEntry) (s : State) : State :=
  { s with req := { s.req with queue := s.req.queue.map fun e => if e.age = age then f e else e } }

/-- The entry of an age leaves the queue. -/
def removeEntry (age : Nat) (s : State) : State :=
  { s with req := { s.req with queue := s.req.queue.filter fun e => e.age ≠ age } }

/-- An outcome is brought into a request's outcome so far (R55). -/
def bringOutcome (age : Nat) (o : ReqOutcome) (s : State) : State :=
  updateRequest age (fun r => { r with outcome := some (bringIn r.outcome o) }) s

/-- A record with one part more finished, with an outcome (R43). -/
def Request.withPartFinished (o : ReqOutcome) (r : Request) : Request :=
  { r with partsFinished := r.partsFinished + 1, outcome := some (bringIn r.outcome o) }

/-- A part of a request finishes with an outcome (R43). -/
def finishPart (age : Nat) (o : ReqOutcome) (s : State) : State := updateRequest age (Request.withPartFinished o) s

/-- A request's queue entry, if it has one, is removed and its part finishes with an outcome (R42). -/
def dropEntry (age : Nat) (o : ReqOutcome) (s : State) : State :=
  match entryOf s age with
  | some _ => finishPart age o (removeEntry age s)
  | none => s

/-- A trigger of R80 is given. -/
def wantPass (s : State) : State := { s with adm := { s.adm with passWanted := true } }

/-- As `dropEntry`, with the trigger "a queue entry removed without a walk" (R80). -/
def dropEntryTriggering (age : Nat) (o : ReqOutcome) (s : State) : State :=
  match entryOf s age with
  | some _ => wantPass (dropEntry age o s)
  | none => s

/-- A request's inflow tally is closed (R64). -/
def closeTally (age : Nat) (s : State) : State :=
  updateRequest age (fun r => { r with tally := r.tally.map fun t => { t with closed := true } }) s

/-- The request's data is ready (R40). -/
def Request.dataReady (r : Request) : Bool := r.rowsWritten == r.rect.height

/-- The mode from which a walk of the request starts (R44, R84). -/
def Request.startingMode (r : Request) : Mode := r.modeUsed.getD r.requestedMode

/-! ### Pages (R60 to R62) -/

/-- Pages a rectangle needs: ⌈h × w / 2 / 4096⌉ (R61). -/
def pagesNeeded (r : Rect) : Nat := (r.height * r.width / 2 + (Config.pageBytes - 1)) / Config.pageBytes

/-- A page put back in its place in the free page list, which holds no duplicates and is kept in rising order (R60,
log 33). -/
def insertPage : List Nat → Nat → List Nat
  | [], p => [p]
  | q :: rest, p => if p < q then p :: q :: rest else if p = q then q :: rest else q :: insertPage rest p

/-- Pages return to the free page list (R62). -/
def returnPages (pages : List Nat) (s : State) : State :=
  { s with pool := { s.pool with free := pages.foldl insertPage s.pool.free } }

/-- The lowest-numbered free pages, as many as a rectangle needs (R61). -/
def allocation (r : Rect) (s : State) : List Nat := s.pool.free.take (pagesNeeded r)

/-- Those pages leave the free page list (R61). -/
def takePages (r : Rect) (s : State) : State :=
  { s with pool := { s.pool with free := s.pool.free.drop (pagesNeeded r) } }

/-- Too few pages are free for a rectangle (R61). -/
def tooFewPages (r : Rect) (s : State) : Bool := decide ((s.pool.free.take (pagesNeeded r)).length < pagesNeeded r)

/-- The pages of a request's list return and the list becomes absent (R62). -/
def freeRequestPages (age : Nat) (s : State) : State :=
  match findAge s age with
  | some r => updateRequest age (fun r => { r with pages := none }) (returnPages (r.pages.getD []) s)
  | none => s

/-- Whether a chunk write of the request is in flight (R62, R69). -/
def writingFor (s : State) (age : Nat) : Bool :=
  s.inflow.writing.isSome && match s.inflow.buffer with | c :: _ => c.age == age | [] => false

/-! ### The target of a pixel (R104, R111) -/

/-- The target level of a panel pixel in a request: its fill level, or the level its staging pages hold (R104). -/
def targetLevel (s : State) (source : Source) (pages : List Nat) (r : Rect) (x y : Nat) : Level :=
  match source with
  | .fill level => level
  | .inflow | .copy | .overlay => imageLevel s pages r.width (x - r.col) (y - r.row)

end Sys2Proof.Machine
end

