-- ==== Sys2Proof/Machine/Requests.lean ====
section
/-!
DEFINITION. The Request Manager's shared operations (chapter 03): creating a request, withdrawing, cancelling, REPORTING
and the Completion Log's acceptances; and the copier's judging of its jobs, which requests' ends touch (chapter 07).
-/

namespace Sys2Proof.Machine

/-! ### Copier jobs (R119, R120, R124) -/

/-- A RUNNING job. -/
def Job.running (j : Job) : Bool := match j.state with | .running _ _ => true | .pending => false

/-- The RUNNING job with its position (R119). -/
def currentJob (s : State) : Option (Job × Nat × Option Level) :=
  s.copier.jobs.findSome? fun j =>
    match j.state with
    | .running done half => some (j, done, half)
    | .pending => none

/-- A PENDING job may start (R120); that no job is RUNNING is asked in `judgeJobs`. -/
def startable (s : State) (j : Job) : Bool :=
  !j.running && !anyOwned s j.rect && !initialising s
    && !s.req.queue.any fun e =>
      decide (e.age < j.age) && match findAge s e.age with | some r => r.rect.intersects j.rect | none => false

/-- The unit judges its PENDING jobs: with none RUNNING, the oldest that may start is started (R120). -/
def judgeJobs (s : State) : State :=
  if s.copier.jobs.any Job.running then s
  else
    match s.copier.jobs.find? (startable s) with
    | none => s
    | some j =>
      beginWait .copier
        { s with copier := { s.copier with
            jobs := s.copier.jobs.map fun k => if k.age = j.age then { k with state := .running 0 none } else k } }

/-- The jobs a condition names leave the list without handing anything on; a RUNNING one is abandoned (R124). -/
def dropJobs (p : Job → Bool) (s : State) : State :=
  let s' := { s with copier := { s.copier with jobs := s.copier.jobs.filter fun j => !p j } }
  if s.copier.jobs.any fun j => p j && j.running then clientAbandon .copier s' else s'

/-- The COPY job of a request. -/
def Job.isCopyOf (age : Nat) (j : Job) : Bool := decide (j.purpose = .copy age)

/-- After an event that may have taken a queue entry or a job away, the unit judges its PENDING jobs if it did
(R120). -/
def judgeAfter (before after : State) : State :=
  if after.req.queue.length < before.req.queue.length ∨ after.copier.jobs.length < before.copier.jobs.length then
    judgeJobs after
  else after

/-! ### Leaving the table and the Completion Log (R57, R59, R176) -/

/-- A record leaves the request table; QUEUE_ROOM is raised if the table was full (R57). -/
def leaveTable (age : Nat) (s : State) : State :=
  let s' := { s with req := { s.req with table := s.req.table.filter fun r => r.age ≠ age } }
  if Config.requestRecords ≤ s.req.table.length ∧ s'.req.table.length < Config.requestRecords then raise .queueRoom s'
  else s'

/-- A place in the line of REPORTING requests may offer its record once its pages have gone back (R62). -/
def readyToOffer (s : State) (h : Reporting) : Bool :=
  match findAge s h.age with | some r => r.pages.isNone | none => true

/-- The log appends the record of the head of the line, and its request leaves the table (R176). -/
def acceptRecord (h : Reporting) (s : State) : State :=
  leaveTable h.age
    { s with
      req := { s.req with line := s.req.line.filter fun e => e.age ≠ h.age }
      notices := { s.notices with log := s.notices.log ++ [h.record] } }

/-- The offers of the line, in order, one for each place, until the log is full or the head is not ready (R176). -/
def offerFrom : List Reporting → State → State
  | [], s => s
  | h :: rest, s =>
    if s.notices.log.length < Config.logRecords ∧ readyToOffer s h = true then offerFrom rest (acceptRecord h s) else s

/-- The line of REPORTING requests offers its records (R57, R176). -/
def offerRecords (s : State) : State := offerFrom s.req.line s

/-- The completion record composed from a request's record (R56). -/
def composeRecord (r : Request) : CompletionRecord :=
  { tag := r.tag, outcome := r.outcome.getD .noChange, requestedMode := r.requestedMode,
    modeUsed := r.modeUsed.getD r.requestedMode, upgradeReason := r.upgradeReason, band := r.bandUsed,
    partsUsed := r.partsUsed, pixelsDriven := r.pixelsDriven, largestFrames := r.largestFrames }

/-- A request enters REPORTING (R56): tally closed (R64), its COPY job cancelled or abandoned (R124), its pages
returned unless a chunk write of it is in flight (R62), its place in the line taken with its record, and the line
offers. -/
def enterReporting (r : Request) (s : State) : State :=
  let s := closeTally r.age (updateRequest r.age (fun q => { q with state := .reporting }) s)
  let s := dropJobs (Job.isCopyOf r.age) s
  let s := if writingFor s r.age then s else freeRequestPages r.age s
  offerRecords
    { s with req := { s.req with line := s.req.line ++ [{ age := r.age, record := composeRecord r }] } }

/-- A withdrawn request leaves the table when it has no ADMITTING entry and no lane; pages it still holds go back
(R59). -/
def leaveIfDone (r : Request) (s : State) : State :=
  if isAdmitting s r.age || anyLane s r.tag (fun _ => true) then s
  else leaveTable r.age (freeRequestPages r.age s)

/-- The request is judged for REPORTING (R56), or, when withdrawn, for leaving (R59). -/
def judgeFinish (age : Nat) (s : State) : State :=
  match findAge s age with
  | none => s
  | some r =>
    if r.withdrawn then leaveIfDone r s
    else if r.partsFinished = r.partsUsed ∧ r.cancelPending = .none ∧ r.withdrawalPending = none
        ∧ r.state ≠ .reporting then
      enterReporting r s
    else s

/-- Every live request is judged, in the order of the table (log 13). -/
def judgeAll (s : State) : State := (s.req.table.map fun r => r.age).foldl (fun t age => judgeFinish age t) s

/-! ### Withdrawal and cancel (R50 to R54) -/

/-- The rest of a request is withdrawn with an outcome (R54): recorded while its entry is ADMITTING, the worse one
kept; else its entry is removed and its ARMED lanes released. -/
def withdrawRest (r : Request) (o : ReqOutcome) (s : State) : State :=
  if isAdmitting s r.age then
    updateRequest r.age (fun q => { q with withdrawalPending := some (bringIn q.withdrawalPending o) }) s
  else releaseArmed r.tag o (dropEntryTriggering r.age o s)

/-- The report of an abort of a lane of this tag: the request's tally is closed and the rest of it withdrawn with
the part outcome of the abort (R54, R64). -/
def reportAbort (tag : Nat) (reason : AbortReason) (s : State) : State :=
  match findTag s tag with
  | some r => withdrawRest r reason.outcome (closeTally r.age s)
  | none => s

/-- Queued and ARMED parts end with CANCELLED: the entry is removed, the ARMED lanes are released with a release outcome
(R50, R52, R114). -/
def cancelQueued (release : ReqOutcome) (r : Request) (s : State) : State :=
  bringOutcome r.age .cancelled (releaseArmed r.tag release (dropEntryTriggering r.age .cancelled s))

/-- The effects of a plain cancel that was pending (R52). -/
def plainCancel (r : Request) (s : State) : State := cancelQueued .cancelled r s

/-- The effects of a cancel that finds no part driving or retiring. With or without FORCE its parts end with CANCELLED: the
entry's now, each ARMED lane's at the end of its release walk (R50), for which the record notes the cancel. The release
outcome in the lanes' records is CANCELLED for a plain one and ABORTED for a forced one (R99, R114, log 31). -/
def cleanCancel (force : Bool) (r : Request) (s : State) : State :=
  updateRequest r.age (fun q => { q with cancelled := true })
    (cancelQueued (if force then .aborted else .cancelled) r s)

/-- The effects of a forced cancel (R51): ACTIVE lanes aborted, entry removed and ARMED lanes released with
ABORTED, RETIRING lanes left. -/
def forcedCancel (r : Request) (s : State) : State :=
  bringOutcome r.age .aborted
    (releaseArmed r.tag .aborted (dropEntryTriggering r.age .aborted (abortActive r.tag .cancelled s)))

/-- A withdrawal recorded during a walk is applied to the state the walk left (R54). -/
def takePendingWithdrawal (age : Nat) (s : State) : State :=
  match findAge s age with
  | some r =>
    match r.withdrawalPending with
    | some o =>
      updateRequest age (fun q => { q with withdrawalPending := none })
        (releaseArmed r.tag o (dropEntryTriggering age o s))
    | none => s
  | none => s

/-- A cancel recorded during a walk is applied to the state the walk left (R52). -/
def takePendingCancel (age : Nat) (s : State) : State :=
  match findAge s age with
  | some r =>
    match r.cancelPending with
    | .none => s
    | .plain => updateRequest age (fun q => { q with cancelPending := .none }) (plainCancel r s)
    | .forced => updateRequest age (fun q => { q with cancelPending := .none }) (forcedCancel r s)
  | none => s

/-- What a walk's end does after its result (R42): a request that RESTART withdrew loses the remaining entry and has
the lane released with ABORTED (R59, R116, log 14); any other has its pending withdrawal and then its pending cancel
taken. -/
def afterWalk (age : Nat) (s : State) : State :=
  match findAge s age with
  | some r =>
    if r.withdrawn then releaseArmed r.tag .aborted (dropEntry age .aborted s)
    else takePendingCancel age (takePendingWithdrawal age s)
  | none => s

/-! ### Posting (R38, R40, R47, R48) -/

/-- The collision policy as stored: a clearing mode is never split (R47). -/
def storedPolicy (m : Mode) (p : CollisionPolicy) : CollisionPolicy := if m.clearing then .wait else p

/-- A new record with the starting values of R38 and R40. -/
def newRequest (age tag : Nat) (source : Source) (rect : Rect) (mode : Mode) (ghost : GhostPolicy)
    (collision : CollisionPolicy) (early : Bool) (pages : Option (List Nat)) : Request :=
  { age := age, tag := tag, source := source, rect := rect, requestedMode := mode, ghost := ghost,
    collision := storedPolicy mode collision, early := early, pages := pages,
    rowsWritten := match source with | .inflow | .copy => 0 | .fill _ | .overlay => rect.height
    state := .openState, withdrawn := false, cancelPending := .none, cancelled := false
    withdrawalPending := none,
    partsUsed := 1, partsFinished := 0, outcome := none, modeUsed := none, bandUsed := none, upgradeReason := none,
    pixelsDriven := 0, largestFrames := 0,
    tally := match source with
      | .inflow => some { rowsAccepted := 0, closed := false }
      | .fill _ | .copy | .overlay => none }

/-- TEMP_HOLD is raised, once, when a temperature hold meets a queued or posted request (R79). -/
def reportHold (s : State) : State :=
  if s.adm.holdReported = false ∧ s.temp.state ≠ .valid ∧ s.req.queue ≠ [] then
    raise .tempHold { s with adm := { s.adm with holdReported := true } }
  else s

/-- A request is created: its record, its queue entry at the tail, the trigger (R48), and TEMP_HOLD where the
posting meets a temperature hold (R79). The record's age is the next of the shared order. -/
def createRequest (mk : Nat → Request) (s : State) : State :=
  let age := s.req.nextAge
  reportHold (wantPass
    { s with req := { s.req with
        table := s.req.table ++ [mk age]
        queue := s.req.queue ++ [{ age := age, part := 1, upgradePending := false, admitting := false }]
        nextAge := age + 1 } })

/-- A job joins the tail of the job list, PENDING, with the next age of the shared order (R119). -/
def createJob (mk : Nat → Job) (s : State) : State :=
  { s with
    copier := { s.copier with jobs := s.copier.jobs ++ [mk s.req.nextAge] }
    req := { s.req with nextAge := s.req.nextAge + 1 } }

end Sys2Proof.Machine
end

