-- ==== Sys2Proof/Machine/Waveforms.lean ====
section
/-!
DEFINITION. Reading the waveform library: bands, sets, entries, drive codes, imbalances, the checks of the commit walk, and
what the library's operations transfer (R19 to R23, R28 to R30, R32).
-/

namespace Sys2Proof.Machine

/-- Number of bands B: one less than the bounds (R19). -/
def Library.bandCount (lib : Library) : Nat := lib.bounds.length - 1

/-- The band of a reading among bounds, the first one given the number k (R19): band k when bound k ≤ t < bound
k + 1. -/
def bandAmong : (k : Nat) → List Int → Int → Option Nat
  | k, lo :: hi :: rest, t => if lo ≤ t ∧ t < hi then some k else bandAmong (k + 1) (hi :: rest) t
  | _, _, _ => none

/-- The band lookup, answered only while the library is VALID (R19, R25). -/
def Library.lookupBand (lib : Library) (t : Int) : Option Nat :=
  if lib.state = .valid then bandAmong 0 lib.bounds t else none

/-- Set number of a mode and a band: m × B + k (R20). -/
def Library.setNumber (lib : Library) (m : Mode) (band : Nat) : Nat := m.code * lib.bandCount + band

/-- The set of a mode and a band; one beyond the directory reads as absent (R20). -/
def Library.setOf (lib : Library) (m : Mode) (band : Nat) : WaveSet :=
  lib.directory.getD (lib.setNumber m band) { frames := 0, leads := 0 }

/-- Bytes an entry takes: ⌈N / 4⌉ (R20). -/
def WaveSet.entryBytes (w : WaveSet) : Nat := (w.frames + 3) / 4

/-- The mode of a set number with B bands: the directory is mode-major (R20). -/
def modeOfSet (bandCount s : Nat) : Mode :=
  match s / bandCount with
  | 0 => .blank | 1 => .clear | 2 => .settle | 3 => .quick | _ => .stroke

/-- Bytes of each set in directory order, from a set number on (R28). -/
def setSizes (bandCount : Nat) : (s : Nat) → List WaveSet → List Nat
  | _, [] => []
  | s, w :: rest => (modeOfSet bandCount s).entries * w.entryBytes :: setSizes bandCount (s + 1) rest

/-- Expected size of a load (R28). -/
def expectedSize (bandCount : Nat) (directory : List WaveSet) : Nat := (setSizes bandCount 0 directory).sum

/-- Where a set's data starts in the drive data (R28). -/
def Library.setStart (lib : Library) (s : Nat) : Nat := ((setSizes lib.bandCount 0 lib.directory).take s).sum

/-- The stored code of position i of an entry, whose bytes are given: two bits, earliest frame lowest (R28). -/
def codeIn (entry : List Byte) (i : Nat) : BitVec 2 := (entry.getD (i / 4) 0).extractLsb' (2 * (i % 4)) 2

/-- The bytes of an entry of a set (R28). -/
def Library.entryData (lib : Library) (s : Nat) (w : WaveSet) (e : Nat) : List Byte :=
  (lib.data.drop (lib.setStart s + e * w.entryBytes)).take w.entryBytes

/-- Entry number of a transition: the target in BLANK, from × 16 + to otherwise (R21). -/
def entryNumber (m : Mode) (fromLevel toLevel : Level) : Nat :=
  match m with
  | .blank => toLevel.toNat
  | .clear | .settle | .quick | .stroke => fromLevel.toNat * 16 + toLevel.toNat

/-- The lead entry: entry 0 in BLANK, from × 16 + from otherwise (R22). -/
def leadEntry (m : Mode) (fromLevel : Level) : Nat :=
  match m with
  | .blank => 0
  | .clear | .settle | .quick | .stroke => fromLevel.toNat * 16 + fromLevel.toNat

/-- The lead entry that goes with an entry number. -/
def leadOfEntry (m : Mode) (e : Nat) : Nat :=
  match m with
  | .blank => 0
  | .clear | .settle | .quick | .stroke => e / 16 * 16 + e / 16

/-- A code value as a drive code; 3 is invalid and in no library in force (R21, R32). -/
def driveCodeOf (c : BitVec 2) : DriveCode :=
  if c = 1#2 then .darken else if c = 2#2 then .lighten else .none

/-- The drive-code lookup of R22 for frame index i. -/
def Library.driveCode (lib : Library) (m : Mode) (band : Nat) (fromLevel toLevel : Level) (i : Nat) : DriveCode :=
  let s := lib.setNumber m band
  let w := lib.setOf m band
  let e := if i < w.leads then leadEntry m fromLevel else entryNumber m fromLevel toLevel
  driveCodeOf (codeIn (lib.entryData s w e) i)

/-- Net drive of a code: DARKEN counts one, LIGHTEN minus one (R23). -/
def netDrive : DriveCode → Int
  | .none => 0 | .darken => 1 | .lighten => -1

/-- Imbalance of an entry as driven: codes below the lead count from the lead entry, the rest from the entry
(R23). -/
def entryImbalance (w : WaveSet) (lead entry : List Byte) : Int :=
  ((List.range w.frames).map fun i => netDrive (driveCodeOf (codeIn (if i < w.leads then lead else entry) i))).sum

/-- The computed imbalances of a set, by entry number (R23). -/
def Library.setImbalances (lib : Library) (s : Nat) (w : WaveSet) : List Int :=
  let m := modeOfSet lib.bandCount s
  if w.frames = 0 then []
  else (List.range m.entries).map fun e =>
    entryImbalance w (lib.entryData s w (leadOfEntry m e)) (lib.entryData s w e)

/-- The computed imbalances of every set (R23). -/
def Library.allImbalances (lib : Library) : List (List Int) :=
  lib.directory.zipIdx.map fun p => lib.setImbalances p.2 p.1

/-- The imbalance read of R23, answered from what the commit walk stored. -/
def Library.imbalance (lib : Library) (m : Mode) (band : Nat) (fromLevel toLevel : Level) : Int :=
  (lib.imbalances.getD (lib.setNumber m band) []).getD (entryNumber m fromLevel toLevel) 0

/-- The reading order of a set's entries (R32): in BLANK by number; else for each from level its lead entry first. -/
def readingOrder (m : Mode) : List Nat :=
  match m with
  | .blank => List.range 16
  | .clear | .settle | .quick | .stroke =>
    (List.range 16).flatMap fun f =>
      (f * 16 + f) :: ((List.range 16).filter fun t => decide (t ≠ f)).map fun t => f * 16 + t

/-- Checks 3 and 4 of R32 for one entry. -/
def Library.entryFault (lib : Library) (s : Nat) (w : WaveSet) (e : Nat) : Option LibReason :=
  let m := modeOfSet lib.bandCount s
  let entry := lib.entryData s w e
  if (List.range w.frames).any fun i => codeIn entry i == 3#2 then some .badCode
  else if m.clearing && decide (entryImbalance w (lib.entryData s w (leadOfEntry m e)) entry ≠ 0) then some .unbalanced
  else none

/-- The entries of the present sets as the commit walk comes to them, each with its set and the set's number (R32): the
sets in directory order, the entries of each in its reading order. -/
def Library.walkEntries (lib : Library) : List (Nat × WaveSet × Nat) :=
  lib.directory.zipIdx.flatMap fun p =>
    if p.1.frames = 0 then [] else (readingOrder (modeOfSet lib.bandCount p.2)).map fun e => (p.2, p.1, e)

/-- What the commit walk finds (R32): none when every check passes, else the failure reason. -/
def Library.commitFault (lib : Library) : Option LibReason :=
  if lib.received ≠ lib.expected then some .size
  else if lib.crc ≠ lib.hostCrc then some .crc
  else lib.walkEntries.findSome? fun (s, w, e) => lib.entryFault s w e

/-- Bytes of the entries among these that the walk reads: it ends at the first that fails, which it has read (R32). -/
def Library.bytesRead (lib : Library) : List (Nat × WaveSet × Nat) → Nat
  | [] => 0
  | (s, w, e) :: rest =>
    w.entryBytes + match lib.entryFault s w e with | some _ => 0 | none => lib.bytesRead rest

/-- Bytes of drive data the commit walk reads (R32): none where it fails on size or CRC. -/
def Library.commitReads (lib : Library) : Nat :=
  if lib.received ≠ lib.expected ∨ lib.crc ≠ lib.hostCrc then 0 else lib.bytesRead lib.walkEntries

/-- The bytes of a chunk that its write stores: those that lie below the expected size (R29). -/
def Library.storedBytes (lib : Library) (c : LibChunk) : List Byte := c.bytes.take (lib.expected - c.offset)

/-- Bytes the library's operation in flight transfers in all: those its chunk write stores (R29, R30), or those its commit
walk reads (R32). -/
def Library.transferSize (lib : Library) : Nat :=
  match lib.write, lib.commit with
  | some c, _ => (lib.storedBytes c).length
  | none, .walking => lib.commitReads
  | none, .requested => 0
  | none, .none => 0

/-- Bytes it has yet to transfer (R151). -/
def Library.toTransfer (lib : Library) : Nat := lib.transferSize - lib.moved

/-- Its next n bytes are transferred, or those that are left: a chunk write stores them behind the data it has stored, in the
order of the chunk; a commit walk reads them, and its result is found at its end (R30, R32, log 19). -/
def Library.advance (n : Nat) (lib : Library) : Library :=
  { lib with
    data := match lib.write with
      | some c => lib.data ++ ((lib.storedBytes c).drop lib.moved).take n
      | none => lib.data
    moved := lib.moved + min n lib.toTransfer }

end Sys2Proof.Machine
end

