-- ==== Sys2Proof/Machine/FrameMemory.lean ====
section
/-!
DEFINITION. The arbiter of the frame memory (R151 to R154): who may wait, who is granted, and what a burst moves.
-/

namespace Sys2Proof.Machine

/-- The sixteen lane numbers in the order of turns after the lane served last (R152). -/
def turnsAfter (last : LaneId) : List LaneId :=
  (List.range 16).map fun i => ⟨(last.val + 1 + i) % 16, Nat.mod_lt _ (by decide)⟩

/-- The clients in the order of precedence of R151, the retirement client's walks by their turns (R152). -/
def precedence (last : LaneId) : List Requester :=
  .scanner :: (turnsAfter last).map .retirement ++ [.admission, .initialisation, .inflow, .copier, .library]

/-- A burst is granted to a client: it no longer waits, and a retirement walk is the one served last (R151,
R152). -/
def grantBurst (r : Requester) (m : FrameMemory) : FrameMemory :=
  { m with
    granted := some (.burst r true)
    waiting := m.waiting.filter fun q => q ≠ r
    lastLane := match r with
      | .retirement l => l
      | .scanner | .admission | .initialisation | .inflow | .copier | .library => m.lastLane }

/-- The grant decision (R151, R154): nothing while the calibration or a burst or refresh is in progress; refresh
while debt is owed; else the waiting client that stands first. -/
def decideGrant (m : FrameMemory) : FrameMemory :=
  if m.calibrating || m.granted.isSome then m
  else if 0 < m.debt then { m with granted := some .refresh, debt := m.debt - 1 }
  else
    match (precedence m.lastLane).find? fun r => m.waiting.contains r with
    | some r => grantBurst r m
    | none => m

/-- The decision at the end of an event. -/
def arbitrate (s : State) : State := { s with mem := decideGrant s.mem }

/-! ### What an operation has yet to move (R151, log 7) -/

/-- The most units of a client one burst moves: rows, pixel records, bytes, or pixels of a snapshot (R151, log 6). A
snapshot's pixels are read and written in one burst (log 38). -/
def burstUnits : Requester → Nat
  | .scanner => 1
  | .retirement _ | .admission | .initialisation => Config.burstRecords
  | .inflow | .library => Config.burstBytes
  | .copier => 2 * Config.burstBytes

/-- The units a client's operation has yet to move; none without an operation in flight. A walk's units are the records it
visits: what it reads or writes beside them, the owners and tile entries of an admission (R95) among it, takes no burst of
its own (log 38). -/
def restOf (s : State) (who : Requester) : Nat :=
  match who with
  | .scanner => match s.scan.frame with | some f => panelHeight s - f.nextRow | none => 0
  | .retirement l =>
    match laneAt s l with
    | some ln => match ln.state with | .retiring _ done => ln.rect.area - done | .armed | .active => 0
    | none => 0
  | .admission =>
    match s.adm.walk with
    | some w => match findAge s w.age with | some r => r.rect.area - w.readings.length | none => 0
    | none => 0
  | .initialisation =>
    match s.px.walk with
    | some (.initialise done) => panelRecords s - done
    | some (.assume r _ done) => r.area - done
    | none => 0
  | .inflow =>
    match s.inflow.writing, s.inflow.buffer with | some done, c :: _ => c.data.length - done | _, _ => 0
  | .copier => match currentJob s with | some (j, done, _) => j.rect.area - done | none => 0
  | .library => s.lib.toTransfer

/-- The clients named have come, one after the other in this order, to have a transfer ready; one without a unit left to
move is passed over. Each begins to wait at an event of its own, so with the frame memory idle the first is granted
(R151, log 6). -/
def becomeReady (ready : List Requester) (s : State) : State :=
  ready.foldl (fun t r => if 0 < restOf t r then arbitrate (beginWait r t) else t) s

/-! ### The last bursts of an operation (R151, log 7) -/

/-- What is in progress comes to its end and the next grant is decided, n times or until the client holds the
grant. -/
def passGrants (who : Requester) : Nat → FrameMemory → FrameMemory
  | 0, m => m
  | n + 1, m =>
    if m.granted = some (.burst who true) then m else passGrants who n (decideGrant { m with granted := none })

/-- A client waits, if it does not hold the grant, until it is granted: refresh owed and the clients that stand before
it are served first (R151, R152, R154). -/
def reachGrant (who : Requester) (m : FrameMemory) : FrameMemory :=
  if m.granted = some (.burst who true) then m
  else
    let waiting := if m.waiting.contains who then m.waiting else m.waiting ++ [who]
    passGrants who (m.debt + waiting.length) { m with waiting := waiting }

/-- The frame memory comes to the last burst of a client's operation: nothing where no unit is left; a burst of the
client's own where one has room for the rest; else its next burst, after which it waits anew. The bursts behind that one
follow at once, since nobody else has come to wait (R151, log 7). -/
def lastBursts (who : Requester) (s : State) : State :=
  if restOf s who = 0 ∨ s.mem.calibrating = true then s
  else if restOf s who ≤ burstUnits who then { s with mem := reachGrant who s.mem }
  else { s with mem := reachGrant who { reachGrant who s.mem with granted := none } }

end Sys2Proof.Machine
end

