-- ==== Sys2Proof/Machine/Power.lean ====
section
/-!
DEFINITION. Rails, frame timer and temperature as the rules tie them to lanes, library and queue: demand (R135), rise, idle
hold and fall (R137 to R139), rail faults (R140), the frame timer (R102), and the recomputation of band and state (R145).
-/

namespace Sys2Proof.Machine

/-! ### Rails and the frame timer -/

/-- The state becomes RISING: enable line asserted, rise timer loaded (R137). -/
def riseRails (s : State) : State :=
  { s with rails := { s.rails with state := .rising, enable := true, riseTimer := some s.settings.riseTimeout } }

/-- The state becomes FALLING: enable line released, rise and idle timers stopped, the fall time begins (R139). -/
def fallRails (s : State) : State :=
  { s with rails := { s.rails with
      state := .falling, enable := false, riseTimer := none, idleTimer := none,
      fallTime := some Config.fallTimeMs } }

/-- From OFF to RISING at any event that finds the state OFF with demand present (R137). -/
def syncRise (s : State) : State := if s.rails.state = .off ∧ demand s = true then riseRails s else s

/-- The idle timer runs in ON without demand: loaded with the hold time when it starts, expiring at that event with
a hold time of 0, stopped otherwise (R138). -/
def syncIdle (s : State) : State :=
  if s.rails.state = .on ∧ demand s = false then
    if s.rails.idleTimer.isSome then s
    else if s.settings.holdTime = 0 then fallRails s
    else { s with rails := { s.rails with idleTimer := some s.settings.holdTime } }
  else { s with rails := { s.rails with idleTimer := none } }

/-- The frame timer runs in ON with demand: loaded with the frame period when it begins, stopped otherwise
(R102). -/
def syncFrameTimer (s : State) : State :=
  if s.rails.state = .on ∧ demand s = true then
    if s.scan.timer.isSome then s else { s with scan := { s.scan with timer := some s.settings.framePeriod } }
  else { s with scan := { s.scan with timer := none } }

/-- What the Rail Controller and the Frame Scanner do with the lanes and the rail state as they now stand. -/
def syncPower (s : State) : State := syncFrameTimer (syncIdle (syncRise s))

/-! ### Rail faults (R75, R115, R140) -/

/-- The state becomes FAULT: enable line released, timers stopped (R140). -/
def faultRails (s : State) : State :=
  { s with rails := { s.rails with state := .fault, enable := false, riseTimer := none, idleTimer := none } }

/-- One lane at the fault: aborted with RAIL_LOST if it is ACTIVE, and the abort reported (R54, R115). -/
def loseLane (s : State) (l : LaneId) : State :=
  match laneAt s l with
  | some ln => if ln.state = .active then reportAbort ln.tag .railLost (abortLane .railLost s l) else s
  | none => s

/-- A live INFLOW request the flush takes: not withdrawn, tally open, rows written below its height (R75). -/
def Request.flushable (r : Request) : Bool :=
  decide (r.source = .inflow) && !r.withdrawn && decide (r.rowsWritten < r.rect.height)
    && match r.tally with | some t => !t.closed | none => false

/-- A request is flushed: tally closed, the rest withdrawn with FLUSHED (R54, R75). -/
def flushRequest (s : State) (age : Nat) : State :=
  match findAge s age with
  | some r => if r.flushable then withdrawRest r .flushed (closeTally age s) else s
  | none => s

/-- Flush-on-fault (R75), in the order of the table. -/
def flushAll (s : State) : State :=
  if s.settings.flushOnFault then (s.req.table.map fun r => r.age).foldl flushRequest s else s

/-- A rail fault (R140): the rails fail, the lanes that drove are lost and their requests withdrawn, incomplete
INFLOW requests are flushed if that is set, and RAIL_FAULT is raised. -/
def railFault (s : State) : State :=
  judgeAfter s (raise .railFault (judgeAll (flushAll (allLanes.foldl loseLane (faultRails s)))))

/-! ### Temperature (R79, R145, R148) -/

/-- The temperature state the other items give (R145). -/
def tempStateOf (reading : Option Int) (staleness : Nat) (band : Option Nat) : TempState :=
  match reading with
  | none => .none
  | some _ => if staleness = 3 then .stale else if band.isSome then .valid else .outOfRange

/-- What the Admission Unit does at a change of the temperature state (R79, R145): a change to VALID clears the
temperature hold reported flag; a change away from VALID may raise TEMP_HOLD. -/
def reportTempChange (old : TempState) (s : State) : State :=
  if s.temp.state = old then s
  else if s.temp.state = .valid then { s with adm := { s.adm with holdReported := false } }
  else if old = .valid then reportHold s
  else s

/-- Band and state are recomputed (R145, R148). -/
def recomputeTemp (s : State) : State :=
  let band := s.temp.reading.bind s.lib.lookupBand
  reportTempChange s.temp.state
    { s with temp := { s.temp with band := band, state := tempStateOf s.temp.reading s.temp.staleness band } }

end Sys2Proof.Machine
end

