-- ==== Sys2Proof/Machine/Admission.lean ====
section
/-!
DEFINITION. The Admission Unit (chapter 05): holds, passes, the admission walk's readings, its judgement, and what its result
does at the walk's end.
-/

namespace Sys2Proof.Machine

/-! ### Holds (R78) -/

/-- Admission is held while any condition of R78 is in force. -/
def held (s : State) : Bool :=
  decide (s.lib.state ≠ .valid) || decide (s.temp.state ≠ .valid) || decide (s.rails.state = .fault)
    || initialising s || restartWalks s

/-! ### Readings (R84 to R86) -/

/-- The owner a walk reads: read only where the tile entry holds a lane (R85). -/
def ownerRead (s : State) (x y : Nat) : Option LaneId :=
  if (tileLanes s (tileOf s x y)).isEmpty then none else (pixelAt s x y).owner

/-- Whether a lane carries a tag other than the request's (R12, R86). -/
def foreignLane (s : State) (tag : Nat) (l : LaneId) : Bool :=
  match laneAt s l with | some ln => decide (ln.tag ≠ tag) | none => false

/-- How the request finds a pixel owned (R85). -/
def ownershipRead (s : State) (tag x y : Nat) : Ownership :=
  match ownerRead s x y with
  | none => .free
  | some l => if foreignLane s tag l then .foreign else .sibling

/-- What a walk reads at position i of the request's rectangle; targets are not consulted for a clearing mode
(R85). The tile entry is read with each pixel (log 30); targets are read from the pages of the walk's start
(log 36). -/
def readPixel (s : State) (w : AdmissionWalk) (r : Request) (i : Nat) : Reading :=
  let p := r.rect.position i
  let px := pixelAt s p.1 p.2
  { shown := px.shown, residue := px.residue, balance := px.balance, indeterminate := px.indeterminate,
    ownership := ownershipRead s r.tag p.1 p.2,
    tile := tileOf s p.1 p.2, tileForeign := (tileLanes s (tileOf s p.1 p.2)).any (foreignLane s r.tag),
    target := if w.mode.clearing then none
      else some (targetLevel s r.source (w.pages.getD []) r.rect p.1 p.2) }

/-- The walk goes forward by n positions in row-major order (log 30), or to the end of its rectangle. -/
def advanceWalk (s : State) (r : Request) (n : Nat) (w : AdmissionWalk) : AdmissionWalk :=
  let done := w.readings.length
  { w with readings := w.readings ++
      (List.range' done (min n (r.rect.area - done))).map (readPixel s w r) }

/-! ### The judgement (R85 to R93) -/

/-- Whether the mode would drive the pixel (R85): siblings' pixels never, foreign lanes' and indeterminate pixels
always, others by comparing target and shown level. -/
def Reading.natural (m : Mode) (x : Reading) : Bool :=
  match x.ownership with
  | .sibling => false
  | .foreign => true
  | .free =>
    match m with
    | .blank | .clear => true
    | .settle | .quick => x.indeterminate || decide (x.target ≠ some x.shown)
    | .stroke => x.indeterminate || match x.target with | some t => decide (t < x.shown) | none => false

/-- The tiles of the rectangle found blocked: those whose entry held a foreign lane at any of their readings (R86,
log 30). -/
def blockedTiles (xs : List Reading) : List Nat := (xs.filter fun x => x.tileForeign).map fun x => x.tile

/-- Whether a pixel of the natural drive set collides: under PIXEL by its owner, under TILE with its tile, which is
blocked as a whole (R12, R86). -/
def Reading.collides (g : Granularity) (blocked : List Nat) (x : Reading) : Bool :=
  match g with
  | .pixel => decide (x.ownership = .foreign)
  | .tile => blocked.contains x.tile

/-- Whether the readings hold a collision (R86): under PIXEL over the natural drive set, under TILE over the tiles
the rectangle touches. -/
def collision (g : Granularity) (m : Mode) (xs : List Reading) : Bool :=
  match g with
  | .pixel => xs.any fun x => x.natural m && decide (x.ownership = .foreign)
  | .tile => !(blockedTiles xs).isEmpty

/-- Whether any pixel was read owned, or under TILE any tile blocked: what keeps an upgraded part waiting. The test is
made on the walk's one set of readings (R92, log 30). -/
def rectBlocked (g : Granularity) (xs : List Reading) : Bool :=
  xs.any fun x => decide (x.ownership ≠ .free) || match g with | .tile => x.tileForeign | .pixel => false

/-- The residue comparison fails (R90). -/
def Reading.residueFails (limit weight : Nat) (x : Reading) : Bool := decide (limit < x.residue + weight)

/-- The balance comparison fails (R90). -/
def Reading.balanceFails (limit : Nat) (x : Reading) : Bool := decide (limit ≤ x.balance.natAbs)

/-- The ghost check's verdict on a drive set (R89, R90): the reason of its failure and the mode an upgrade turns
to, or none. -/
def ghostFailure (residueLimit balanceLimit : Nat) (m : Mode) (xs : List Reading) : Option (UpgradeReason × Mode) :=
  if decide (m ≠ .blank) && xs.any fun x => x.indeterminate then some (.indeterminate, .blank)
  else if m.clearing then none
  else if xs.any (Reading.residueFails residueLimit m.weight) then some (.residue, .clear)
  else if xs.any (Reading.balanceFails balanceLimit) then some (.balance, .clear)
  else none

/-- What the ghost policy makes of a failure (R89, R90): upgrade, refuse, or go on. -/
inductive GhostVerdict where
  | passes | upgrades (reason : UpgradeReason) (mode : Mode) | refuses (reason : UpgradeReason)
  deriving DecidableEq, Repr

/-- The ghost policy applied: FORCE lets residue and balance pass, but not an indeterminate pixel (R89, R90). -/
def ghostVerdict (p : GhostPolicy) (failure : Option (UpgradeReason × Mode)) : GhostVerdict :=
  match failure with
  | none => .passes
  | some (reason, mode) =>
    match p with
    | .upgrade => .upgrades reason mode
    | .refuse => .refuses reason
    | .force => if reason = .indeterminate then .upgrades reason mode else .passes

/-- The result of a walk (R42): what it reports to the Request Manager. -/
inductive WalkResult where
  /-- Stays waiting. -/
  | stays
  /-- Waits with upgrade-pending: the new mode and the reason. -/
  | staysUpgraded (reason : UpgradeReason) (mode : Mode)
  /-- Admitted: mode, upgrade reason if the walk upgraded, drive set as positions, and whether with a remainder. -/
  | admits (mode : Mode) (reason : Option UpgradeReason) (drive : List Nat) (remainder : Bool)
  /-- Resolved without a lane: part outcome, and the reason of a refusal. -/
  | resolves (outcome : ReqOutcome) (reason : Option UpgradeReason)
  deriving DecidableEq, Repr

/-- The early-data test (R93): with data not ready, the set in force has leads above 0 and below its frames. -/
def earlyDataPasses (lib : Library) (band : Nat) (dataReady : Bool) (m : Mode) : Bool :=
  let w := lib.setOf m band
  dataReady || (decide (0 < w.leads) && decide (w.leads < w.frames))

/-- The drive set of the collision stage as positions, and whether a remainder is needed; none where the walk stays
waiting (R86, R87, R92). -/
def collisionStage (g : Granularity) (r : Request) (e : QueueEntry) (m : Mode) (xs : List Reading) :
    Option (List (Nat × Reading) × Bool) :=
  let numbered := xs.zipIdx.map fun p => (p.2, p.1)
  if e.upgradePending && rectBlocked g xs then none
  else if collision g m xs then
    if m.clearing then none
    else
      match r.collision with
      | .wait => none
      | .split =>
        if Config.partsPerRequest ≤ r.partsUsed then none
        else some (numbered.filter (fun p => p.2.natural m && !p.2.collides g (blockedTiles xs)), true)
  else some (numbered.filter (fun p => p.2.natural m), false)

/-- The judgement of a walk whose readings are complete (R86 to R93). -/
def judgeWalk (settings : Settings) (lib : Library) (r : Request) (e : QueueEntry) (w : AdmissionWalk) : WalkResult :=
  let g := settings.granularity
  match collisionStage g r e w.mode w.readings with
  | none => .stays
  | some (drive, remainder) =>
    if drive.isEmpty then
      if remainder then .stays else .resolves .noChange none
    else
      match ghostVerdict r.ghost
          (ghostFailure settings.residueLimit settings.balanceLimit w.mode (drive.map fun p => p.2)) with
      | .refuses reason => .resolves .ghostRefused (some reason)
      | .upgrades reason mode =>
        if rectBlocked g w.readings || !earlyDataPasses lib w.band w.dataReady mode then .staysUpgraded reason mode
        else .admits mode (some reason) (List.range w.readings.length) false
      | .passes =>
        if earlyDataPasses lib w.band w.dataReady w.mode then .admits w.mode none (drive.map fun p => p.1) remainder
        else .stays

/-! ### The result applied (R42, R44, R91, R94, R95) -/

/-- A walk upgrades: the new mode and the reason in the record, the counter, the GHOST notice (R91). -/
def noteUpgrade (age : Nat) (reason : UpgradeReason) (mode : Mode) (s : State) : State :=
  raise .ghost (updateRequest age (fun r => { r with modeUsed := some mode, upgradeReason := some reason })
    { s with counters := { s.counters with upgrades := bump s.counters.upgrades } })

/-- A walk refuses: the reason in the record, the counter, the GHOST notice (R91). -/
def noteRefusal (age : Nat) (reason : UpgradeReason) (s : State) : State :=
  raise .ghost (updateRequest age (fun r => { r with upgradeReason := some reason })
    { s with counters := { s.counters with ghostRefusals := bump s.counters.ghostRefusals } })

/-- The lane record of an admission (R94). -/
def armedLane (lib : Library) (r : Request) (e : QueueEntry) (w : AdmissionWalk) (mode : Mode) (owned : Nat) : Lane :=
  let set := lib.setOf mode w.band
  { tag := r.tag, part := e.part, rect := r.rect, mode := mode, band := w.band, frames := set.frames,
    leads := set.leads, early := !w.dataReady, owned := owned, index := 0, state := .armed }

/-- Every pixel of a drive set, given by positions of a rectangle, takes a lane as its owner (R95). -/
def ownPixels (l : LaneId) (rect : Rect) (drive : List Nat) (s : State) : State :=
  drive.foldl (fun t i => updatePixel (rect.position i).1 (rect.position i).2 (fun p => { p with owner := some l }) t) s

/-- The walked entry is removed, or replaced in its place by the remainder (R42). -/
def settleEntry (r : Request) (remainder : Bool) (s : State) : State :=
  if remainder then
    wantPass (updateRequest r.age (fun q => { q with partsUsed := q.partsUsed + 1 })
      (updateEntry r.age
        (fun _ => { age := r.age, part := r.partsUsed + 1, upgradePending := false, admitting := false }) s))
  else removeEntry r.age s

/-- The admission takes effect (R94, R95): lane ARMED, owners and tile entries written, lanes armed counted, the
record's mode used, band used and state, and its entry. A withdrawn request stays in its state (R39). -/
def admitWalk (l : LaneId) (r : Request) (e : QueueEntry) (w : AdmissionWalk) (mode : Mode) (drive : List Nat)
    (remainder : Bool) (s : State) : State :=
  let s := ownPixels l r.rect drive (setLane l (some (armedLane s.lib r e w mode drive.length)) s)
  let s := addToTiles l r.rect { s with counters := { s.counters with lanesArmed := bump s.counters.lanesArmed } }
  settleEntry r remainder
    (updateRequest r.age
      (fun q => { q with modeUsed := some mode, bandUsed := some w.band,
                         state := if q.state = .openState ∧ q.withdrawn = false then .running else q.state }) s)

/-- The entry is resolved without a lane: removed, and its part finishes (R42, R43). -/
def resolveEntry (age : Nat) (o : ReqOutcome) (s : State) : State := finishPart age o (removeEntry age s)

/-- The result of a walk applied (R42, R91, R95). R94 finds a FREE lane at every admission; with none the entry
stays waiting. -/
def applyResult (r : Request) (e : QueueEntry) (w : AdmissionWalk) (result : WalkResult) (s : State) : State :=
  match result with
  | .stays => updateEntry r.age (fun q => { q with admitting := false }) s
  | .staysUpgraded reason mode =>
    noteUpgrade r.age reason mode
      (updateEntry r.age (fun q => { q with admitting := false, upgradePending := true }) s)
  | .admits mode reason drive remainder =>
    match freeLane s with
    | none => updateEntry r.age (fun q => { q with admitting := false }) s
    | some l =>
      match reason with
      | none => admitWalk l r e w mode drive remainder s
      | some why => noteUpgrade r.age why mode (admitWalk l r e w mode drive remainder s)
  | .resolves outcome reason =>
    match reason with
    | none => resolveEntry r.age outcome s
    | some why => noteRefusal r.age why (resolveEntry r.age outcome s)

/-! ### Passes (R70, R80 to R83) -/

/-- The early point of a request: ⌈h × t / 16⌉ rows (R70). -/
def earlyPoint (threshold height : Nat) : Nat := (height * threshold + 15) / 16

/-- Early-eligible, judged with the band of the moment (R70, R81). -/
def earlyEligible (s : State) (r : Request) : Bool :=
  r.requestedMode.clearing && r.early && decide (1 ≤ s.settings.earlyThreshold)
    && decide (s.settings.earlyThreshold ≤ 15)
    && decide (earlyPoint s.settings.earlyThreshold r.rect.height ≤ r.rowsWritten)
    && match s.temp.band with
      | some band => decide (0 < (s.lib.setOf r.startingMode band).leads)
      | none => false

/-- Some queue entry older than this request's has a rectangle that intersects its rectangle (R82). -/
def olderIntersects (s : State) (r : Request) : Bool :=
  s.req.queue.any fun e =>
    decide (e.age < r.age) && match findAge s e.age with | some q => q.rect.intersects r.rect | none => false

/-- The walk of an entry begins: ADMITTING, band, starting mode and data readiness fixed (R84), and the pages it reads
targets from to its end, whatever becomes of them after a RESTART (R59, R96, log 36). -/
def beginWalk (r : Request) (band : Nat) (s : State) : State :=
  beginWait .admission
    { updateEntry r.age (fun e => { e with admitting := true }) s with
      adm := { s.adm with
        walk := some { age := r.age, band := band, mode := r.startingMode, dataReady := r.dataReady,
                       pages := r.pages, readings := [] } } }

/-- The pass ends (R81, R83). -/
def endPass (s : State) : State := { s with adm := { s.adm with passRunning := false, passCut := false } }

/-- A walk that finds its set absent ends at once, UNSUPPORTED, having read nothing (R84, log 12). -/
def resolveUnsupported (age : Nat) (s : State) : State :=
  judgeJobs (judgeFinish age (resolveEntry age .unsupported s))

/-- The pass over the entries of these requests, in queue order (R81): data, order, lanes, walk. It stops where a
walk begins; it ends at the tail or where no lane is FREE. -/
def runPass : List Nat → State → State
  | [], s => endPass s
  | age :: rest, s =>
    match entryOf s age, findAge s age with
    | some _, some r =>
      if !r.dataReady && !earlyEligible s r then runPass rest s
      else if olderIntersects s r then runPass rest s
      else
        match freeLane s, s.temp.band with
        | some _, some band =>
          if (s.lib.setOf r.startingMode band).frames = 0 then runPass rest (resolveUnsupported age s)
          else beginWalk r band s
        | _, _ => endPass s
    | _, _ => runPass rest s

/-- A pass starts: pass wanted is cleared, and the queue is taken oldest first (R80, R81). -/
def startPass (s : State) : State :=
  runPass (s.req.queue.map fun e => e.age)
    { s with adm := { s.adm with passRunning := true, passWanted := false, passCut := false } }

/-- A pass starts when it is wanted, admission is not held and none is running (R80). -/
def tryPass (s : State) : State :=
  if s.adm.passWanted && !held s && !s.adm.passRunning then startPass s else s

/-- After the entry of an age has been dealt with, the pass moves to the entries behind it as the queue now stands
(R81); it ends here if a hold has begun or a RESTART has been taken during it (R83). -/
def resumePass (age : Nat) (s : State) : State :=
  if s.adm.passCut then endPass s
  else runPass ((s.req.queue.filter fun e => decide (age < e.age)).map fun e => e.age) s

/-! ### The end of every event -/

/-- Holds that began or ended at the event (R78, R83): the end of the last hold is a trigger; a hold that begins
while a pass is running cuts the pass. -/
def noteHolds (before s : State) : State :=
  if held before && !held s then wantPass s
  else if !held before && held s && s.adm.passRunning then { s with adm := { s.adm with passCut := true } }
  else s

/-- What every event ends with, beside its own effects: holds, a pass that may start (R80), rails and timers (R102,
R137, R138), the grant decision (R151) and ATTN (R173). -/
def finish (before s : State) : State := syncAttn (arbitrate (syncPower (tryPass (noteHolds before s))))

end Sys2Proof.Machine
end

