-- ==== Sys2Proof/Machine/Operands.lean ====
section
/-!
DEFINITION. The operand forms: the fields of every command's payload (R27, R45, R63, R125, R141, R146, R164, R174), and which of
them a field check refuses.
-/

namespace Sys2Proof.Machine

/-! ### Codes of policies and fields -/

/-- Ghost policy of a byte (R45). -/
def ghostOf : Nat → Option GhostPolicy
  | 0 => some .upgrade | 1 => some .refuse | 2 => some .force | _ => none

/-- Collision policy of a byte (R45). -/
def collisionOf : Nat → Option CollisionPolicy
  | 0 => some .wait | 1 => some .split | _ => none

/-- A rectangle of four two-byte fields: column, row, width, height. -/
def rectField (p : List Byte) (off : Nat) : Rect :=
  { col := field p off 2, row := field p (off + 2) 2, width := field p (off + 4) 2, height := field p (off + 6) 2 }

/-- The three request fields every posting command carries, at three offsets, each with its check. -/
structure PostChoice where
  mode : Mode
  ghost : GhostPolicy
  collision : CollisionPolicy
  deriving DecidableEq, Repr

/-- Mode selector, ghost policy and collision policy in consecutive bytes; none if any is not allowed (R45). -/
def postChoice (p : List Byte) (off : Nat) : Option PostChoice :=
  match Mode.ofSelector (field p off 1), ghostOf (field p (off + 1) 1), collisionOf (field p (off + 2) 1) with
  | some m, some g, some c => some { mode := m, ghost := g, collision := c }
  | _, _, _ => none

/-! ### POST_UPDATE (R45 to R47) -/

/-- The fields of a POST_UPDATE that its record is created from. -/
structure PostUpdate where
  tag : Nat
  rect : Rect
  choice : PostChoice
  source : Source
  early : Bool
  deriving DecidableEq, Repr

/-- The fill level as stored: rounded for QUICK (R47). -/
def storedFill (m : Mode) (level : Level) : Level :=
  match m with
  | .quick => quickLevel level
  | .blank | .clear | .settle | .stroke => level

/-- The source field and fill level as stored; the fill level is read only with FILL (R45, R47). -/
def sourceField (m : Mode) (source fill : Nat) : Option Source :=
  match source with
  | 0 => some .inflow
  | 1 => if 15 < fill then none else some (.fill (storedFill m (BitVec.ofNat 4 fill)))
  | _ => none

/-- The POST_UPDATE payload; none where check 4 of R46 refuses it. -/
def postUpdateFields (p : List Byte) : Option PostUpdate :=
  match postChoice p 10 with
  | none => none
  | some choice =>
    match sourceField choice.mode (field p 13 1) (field p 14 1) with
    | none => none
    | some source =>
      if 1 < field p 15 1 ∨ (field p 15 1 = 1 ∧ choice.mode.clearing = false) then none
      else some { tag := field p 0 2, rect := rectField p 2, choice := choice, source := source,
                  early := decide (field p 15 1 = 1) }

/-! ### POST_COPY and the overlay commands (R125) -/

/-- The source rectangle of POST_COPY. -/
def copySource (p : List Byte) : Rect := rectField p 2

/-- The destination rectangle of POST_COPY: its column and row with the source's width and height (R7). -/
def copyDestination (p : List Byte) : Rect :=
  { col := field p 10 2, row := field p 12 2, width := field p 6 2, height := field p 8 2 }

/-- The choice of OVERLAY_POP and OVERLAY_SWAP: QUICK is not accepted (R131). -/
def overlayChoice (p : List Byte) : Option PostChoice :=
  match postChoice p 2 with
  | some c => if c.mode = .quick then none else some c
  | none => none

/-! ### CONFIGURE (R164, R165) -/

/-- A byte that must be 0 or 1. -/
def boolField (p : List Byte) (off : Nat) : Option Bool :=
  match field p off 1 with | 0 => some false | 1 => some true | _ => none

/-- The geometry CONFIGURE carries. -/
def configGeometry (p : List Byte) : Geometry := { width := field p 0 2, height := field p 2 2 }

/-- The settings CONFIGURE carries; the flag bytes as read. -/
def configSettings (p : List Byte) : Settings :=
  { granularity := if field p 4 1 = 1 then .tile else .pixel
    framePeriod := field p 5 2, residueLimit := field p 7 1, balanceLimit := field p 8 1,
    earlyThreshold := field p 9 1, highWatermark := field p 10 4, lowWatermark := field p 14 4,
    autoClear := decide (field p 18 1 = 1), flushOnFault := decide (field p 19 1 = 1),
    holdTime := field p 20 2, riseTimeout := field p 22 2, tempInterval := field p 24 1 }

/-- Every field of a CONFIGURE lies within the values of the field table (R6, R12, R76, R97, R101, R144, R149,
R165). -/
def configFieldsOk (p : List Byte) : Bool :=
  let g := configGeometry p
  let c := configSettings p
  decide (256 ≤ g.width) && decide (g.width ≤ 2560) && decide (g.width % 8 = 0)
    && decide (128 ≤ g.height) && decide (g.height ≤ 1920) && decide (g.height % 8 = 0)
    && (boolField p 4).isSome && (boolField p 18).isSome && (boolField p 19).isSome
    && decide (500 ≤ c.framePeriod) && decide (c.framePeriod ≤ 4000) && decide (g.height / 2 + 100 ≤ c.framePeriod)
    && decide (1 ≤ c.residueLimit) && decide (c.residueLimit ≤ 15)
    && decide (1 ≤ c.balanceLimit) && decide (c.balanceLimit ≤ 127)
    && decide (c.earlyThreshold ≤ 15)
    && decide (2 ≤ c.highWatermark) && decide (c.highWatermark ≤ 65536)
    && decide (1 ≤ c.lowWatermark) && decide (c.lowWatermark < c.highWatermark)
    && decide (c.holdTime ≤ 10000) && decide (10 ≤ c.riseTimeout) && decide (c.riseTimeout ≤ 500)
    && decide (1 ≤ c.tempInterval) && decide (c.tempInterval ≤ 60)

/-! ### LIB_BEGIN (R27) -/

/-- Band count B of a LIB_BEGIN. -/
def libBandCount (p : List Byte) : Nat := field p 0 1

/-- Bounds 0 to B of a LIB_BEGIN. -/
def libBounds (p : List Byte) : List Int :=
  (List.range (libBandCount p + 1)).map fun k => fieldSigned p (1 + 2 * k)

/-- The set directory of a LIB_BEGIN, 5 × B sets. -/
def libDirectory (p : List Byte) : List WaveSet :=
  (List.range (5 * libBandCount p)).map fun s =>
    { frames := field p (3 + 2 * libBandCount p + 2 * s) 1, leads := field p (3 + 2 * libBandCount p + 2 * s + 1) 1 }

/-- Bounds strictly ascending (R19). -/
def ascending : List Int → Bool
  | a :: b :: rest => decide (a < b) && ascending (b :: rest)
  | _ => true

/-- Whether the mode must be present in every band (R18). -/
def Mode.required : Mode → Bool
  | .blank | .clear | .settle => true
  | .quick | .stroke => false

/-- A set the directory check refuses (R20, R27): a required mode with frame count 0, or more leads than frames. -/
def badSet (bandCount s : Nat) (w : WaveSet) : Bool :=
  ((modeOfSet bandCount s).required && decide (w.frames = 0)) || decide (w.frames < w.leads)

/-- Check 4 of R27. -/
def libFieldsBad (p : List Byte) : Bool :=
  !ascending (libBounds p) || (libDirectory p).zipIdx.any fun e => badSet (libBandCount p) e.2 e.1

/-! ### NOTICE_SET (R174) -/

/-- The priorities a NOTICE_SET carries. -/
def noticePriorities (p : List Byte) : Vector Nat 6 := Vector.ofFn fun (g : Fin 6) => field p (1 + g.val) 1

/-- A NOTICE_SET with mask bit 6 or 7 set, or a priority outside 1 to 7 (R174). -/
def noticeFieldsBad (p : List Byte) : Bool :=
  decide (64 ≤ field p 0 1) || (noticePriorities p).toList.any fun q => decide (q < 1) || decide (7 < q)

/-! ### PIXELS (R63) -/

/-- The header of a PIXELS payload and its row data. -/
structure PixelsFields where
  tag : Nat
  firstRow : Nat
  rowCount : Nat
  dataLength : Nat
  data : List Byte
  deriving DecidableEq, Repr

/-- The fields of a PIXELS payload (R63). -/
def pixelsFields (p : List Byte) : PixelsFields :=
  { tag := field p 0 2, firstRow := field p 2 2, rowCount := field p 4 2, dataLength := field p 6 2,
    data := p.drop 8 }

end Sys2Proof.Machine
end

