-- ==== Sys2Proof/Machine/LinkPort.lean ====
section
/-!
DEFINITION. The Link Port (R158 to R164, R167, R168): transactions, the reply slot, the taking of a command, and the rows
TRANSACTION_START, POLL, LINK_FAILURE, IDENT, STATUS and COUNTERS.
-/

namespace Sys2Proof.Machine

/-! ### Transactions and the reply slot -/

/-- A falling edge of CS (R158): the outgoing frame is the reply in the slot, else an IDLE frame composed at that
edge; while RESET is held the transaction is ignored (R170). -/
def startTransaction (s : State) : State :=
  { s with link := { s.link with
      transaction := some (
        if s.link.resetHeld then .ignored
        else match s.link.slot with
          | some r => .live r true
          | none => .live (idleFrame s) false) } }

/-- The transaction a row ends: the one in flight, or one whose falling edge comes with the row (log 5). -/
def openTransaction (s : State) : State := if s.link.transaction.isSome then s else startTransaction s

/-- Delivery (R158, R163): the slot becomes empty if its reply was the outgoing frame and every byte of it was sent;
the transaction is over. -/
def endTransaction (t : Transfer) (s : State) : State :=
  match s.link.transaction with
  | some (.live outgoing fromSlot) =>
    { s with link := { s.link with
        slot := if fromSlot && decide (outgoing.length ≤ t.mosi.length) then none else s.link.slot
        transaction := none } }
  | _ => { s with link := { s.link with transaction := none } }

/-- A reply composed now and placed in the slot (R161 to R163): a reply still in the slot is discarded and the new
one carries the reply-lost flag. -/
def placeReply (kind seq : Byte) (result : Result) (payload : List Byte) (s : State) : State :=
  { s with link := { s.link with
      slot := some { kind := kind, seq := seq, result := result, payload := payload,
                     trailer := trailerOf s s.link.slot.isSome } } }

/-! ### Taking a command (R160, R161) -/

/-- What a block answers to a command: the state it leaves, the result, and the reply payload, which shows the state
that the command has left (R161). -/
abbrev Effect := State × Result × (State → List Byte)

/-- No reply payload. -/
def noBody : State → List Byte := fun _ => []

/-- Accepted with OK and no payload. -/
def accepted (s : State) : Effect := (s, .ok, noBody)

/-- Refused: no effect, and no payload unless the rule gives one (R161). -/
def refused (s : State) (r : Result) : Effect := (s, r, noBody)

/-- A dispatched command taken at the end of its transaction: delivery, the owner's effect, what every event ends
with, the reply composed and placed; `after` is what a rule puts after the composing (R74, R168). A transaction that
is ignored takes no command (R170). -/
def runCommand (k : Kind) (seq : Byte) (t : Transfer) (effect : State → Effect) (after : State → State) (s : State) :
    State :=
  let opened := openTransaction s
  let taken := endTransaction t opened
  if opened.link.transaction = some .ignored then taken
  else
    let result := effect taken
    let settled := finish taken result.1
    after (placeReply k.code seq result.2.1 (result.2.2 settled) settled)

/-- A row that takes a command of a kind: its bytes must spell that command in a form the row admits (log 4). -/
def takeCommand (k : Kind) (t : Transfer) (admits : List Byte → Bool) (effect : List Byte → State → Effect)
    (after : State → State) (s : State) : Out :=
  match arrivalOf t with
  | .command k' seq p =>
    if k' = k ∧ admits p = true then .next (runCommand k seq t (effect p) after s) else .fault .transferNotOfRow
  | .poll => .fault .transferNotOfRow
  | .failure _ _ => .fault .transferNotOfRow

/-- Every payload is of the row. -/
def anyPayload : List Byte → Bool := fun _ => true

/-- A row that takes a command of a kind in all its forms. -/
def takeKind (k : Kind) (t : Transfer) (effect : List Byte → State → Effect) (s : State) : Out :=
  takeCommand k t anyPayload effect id s

/-! ### TRANSACTION_START, POLL, LINK_FAILURE -/

/-- TRANSACTION_START (R158). -/
def execTransactionStart (s : State) : Out :=
  if s.link.transaction.isSome then .fault .transactionInFlight else .next (startTransaction s)

/-- POLL (R159): the transaction only delivers. -/
def execPoll (t : Transfer) (s : State) : Out :=
  match arrivalOf t with
  | .poll => .next (endTransaction t (openTransaction s))
  | .command _ _ _ => .fault .transferNotOfRow
  | .failure _ _ => .fault .transferNotOfRow

/-- A link failure taken (R160): frame errors counted, LINK_ERROR raised, and the failure reply placed with kind
echo 0 (its trailer shows the state after both: log 11). -/
def failLink (r : Result) (seq : Byte) (t : Transfer) (s : State) : State :=
  let opened := openTransaction s
  let taken := endTransaction t opened
  if opened.link.transaction = some .ignored then taken
  else
    placeReply 0 seq r []
      (finish taken (raise .linkError
        { taken with counters := { taken.counters with frameErrors := bump taken.counters.frameErrors } }))

/-- LINK_FAILURE (R160). -/
def execLinkFailure (t : Transfer) (s : State) : Out :=
  match arrivalOf t with
  | .failure r seq => .next (failLink r seq t s)
  | .poll => .fault .transferNotOfRow
  | .command _ _ _ => .fault .transferNotOfRow

/-! ### IDENT (R164) -/

/-- The 21-byte identification payload (R164). -/
def identPayload : List Byte :=
  leBytes 2 0x4B50 ++ leBytes 2 0x3140 ++ leBytes 1 0x41 ++ leBytes 1 Config.laneCount
    ++ leBytes 1 Config.requestRecords ++ leBytes 1 Config.queueEntries ++ leBytes 1 Config.logRecords
    ++ leBytes 1 Config.overlayEntries ++ leBytes 1 Config.copierJobs ++ leBytes 2 Config.stagingPages
    ++ leBytes 4 Config.inflowBytes ++ leBytes 2 2560 ++ leBytes 2 1920

/-- IDENT's effect: none. -/
def takeIdent (p : List Byte) (s : State) : Effect :=
  match failIf (decide (p.length ≠ 0)) .badLength with
  | some r => refused s r
  | none => (s, .ok, fun _ => identPayload)

/-- IDENT (R164). -/
def execIdent (t : Transfer) (s : State) : Out := takeKind .ident t takeIdent s

/-! ### STATUS (R74, R167) -/

/-- State code of a lane in STATUS (R167). -/
def LaneState.code : LaneState → Nat
  | .armed => 1 | .active => 2 | .retiring _ _ => 3

/-- The six bytes of a lane in STATUS; a FREE lane shows 0 (R167). -/
def laneStatus : Option Lane → List Byte
  | none => leBytes 6 0
  | some ln =>
    leBytes 1 ln.state.code ++ leBytes 1 ln.mode.selector ++ leBytes 2 ln.tag ++ leBytes 1 ln.index
      ++ leBytes 1 ln.frames

/-- State byte of place i of the overlay stack, bottom first (R167). -/
def overlayStatus (s : State) (i : Nat) : Nat :=
  match s.copier.overlays[i]? with
  | none => 0xFF
  | some o => if o.capturing.isSome then 1 else 0

/-- The last reading as STATUS carries it: 0x8000 when absent (R167). -/
def readingStatus : Option Int → List Byte
  | none => leBytes 2 0x8000
  | some t => leSigned t

/-- The 121-byte STATUS payload (R167). -/
def statusPayload (s : State) : List Byte :=
  (allLanes.flatMap fun l => laneStatus (laneAt s l))
    ++ leBytes 1 s.req.queue.length ++ leBytes 1 s.req.table.length ++ leBytes 4 (fillLevel s)
    ++ leBytes 1 (bit s.inflow.discard) ++ leBytes 1 s.lib.state.code ++ leBytes 1 s.lib.reason.code
    ++ leBytes 2 s.lib.generation ++ leBytes 1 s.temp.state.code ++ readingStatus s.temp.reading
    ++ leBytes 1 (bandCode s.temp.band) ++ leBytes 1 s.temp.staleness ++ leBytes 1 s.rails.state.code
    ++ leBytes 1 (bit s.scan.freeze) ++ leBytes 1 s.copier.overlays.length
    ++ ((List.range 4).flatMap fun i => leBytes 1 (overlayStatus s i))
    ++ leBytes 1 s.copier.jobs.length ++ leBytes 1 (bit (initialising s))

/-- STATUS's effect before its reply: none. -/
def takeStatus (p : List Byte) (s : State) : Effect :=
  match failIf (decide (p.length ≠ 0)) .badLength with
  | some r => refused s r
  | none => (s, .ok, statusPayload)

/-- Auto-clear (R74): after an accepted STATUS has been composed with it, the discard flag is cleared. The reply in
the slot tells whether the STATUS was accepted. -/
def autoClear (s : State) : State :=
  if s.settings.autoClear = true ∧ (s.link.slot.map fun r => r.result) = some .ok then
    { s with inflow := { s.inflow with discard := false } }
  else s

/-- STATUS (R167). -/
def execStatus (t : Transfer) (s : State) : Out := takeCommand .status t anyPayload takeStatus autoClear s

/-! ### COUNTERS (R168) -/

/-- The checks of COUNTERS (R168). -/
def countersCheck (p : List Byte) : Option Result :=
  (failIf (decide (p.length ≠ 1)) .badLength).or (failIf (decide (1 < field p 0 1)) .badField)

/-- COUNTERS's effect before its reply: none. -/
def takeCounters (p : List Byte) (s : State) : Effect :=
  match countersCheck p with
  | some r => refused s r
  | none => (s, .ok, fun s' => s'.counters.bytes)

/-- All eight counters to 0, after the reply of an accepted COUNTERS with action 1 has been composed (R168). -/
def clearCounters (s : State) : State :=
  if (s.link.slot.map fun r => r.result) = some .ok then { s with counters := Counters.zero } else s

/-- COUNTERS_READ: COUNTERS in every form but an accepted action 1 (R168, log 4). -/
def execCountersRead (t : Transfer) (s : State) : Out :=
  takeCommand .counters t (fun p => decide (p ≠ [1])) takeCounters id s

/-- COUNTERS_READ_AND_CLEAR: COUNTERS in every form but an accepted action 0 (R168, log 4). -/
def execCountersReadAndClear (t : Transfer) (s : State) : Out :=
  takeCommand .counters t (fun p => decide (p ≠ [0])) takeCounters clearCounters s

end Sys2Proof.Machine
end

