-- ==== Sys2Proof/Machine/AdmissionUnit.lean ====
section
/-!
DEFINITION. ADMISSION_WALK_END (R42, R52, R54, R81, R84 to R96).
-/

namespace Sys2Proof.Machine

/-- The walk in flight is over: its client is done with the frame memory. -/
def dropWalk (s : State) : State := clientDone .admission { s with adm := { s.adm with walk := none } }

/-- What follows a walk's result at the same event (R42, R56, R59, R120): the pending withdrawal and cancel, the
request judged, and the jobs judged if an entry has gone. The rails and the frame timer see the lane the walk armed
before a pending withdrawal (R54), a pending cancel (R52) or a RESTART (R59, R116) releases it (R95, log 10). -/
def settleWalk (before : State) (age : Nat) (s : State) : State :=
  judgeAfter before (judgeFinish age (afterWalk age (syncPower s)))

/-- The end of the walk of an entry of a request: the remaining readings, the judgement, its result, and the pass
moves on (R81, R95). -/
def endAdmission (w : AdmissionWalk) (r : Request) (e : QueueEntry) (s : State) : State :=
  let whole := advanceWalk s r r.rect.area w
  let result := judgeWalk s.settings s.lib r e whole
  resumePass w.age (settleWalk s w.age (applyResult r e whole result (dropWalk s)))

/-- The end of the walk in flight; a walked entry stays in the queue to its walk's end (R52, R54, R59), so the
second case does not arise. -/
def endWalk (w : AdmissionWalk) (s : State) : State :=
  match findAge s w.age, entryOf s w.age with
  | some r, some e => endAdmission w r e s
  | _, _ => resumePass w.age (dropWalk s)

/-- ADMISSION_WALK_END (R95), behind the walk's last bursts (R151, log 7). -/
def execAdmissionWalkEnd (s : State) : Out :=
  match s.adm.walk with
  | some w => .next (finish s (endWalk w (lastBursts .admission s)))
  | none => .fault .noAdmissionWalk

end Sys2Proof.Machine
end

