-- ==== Sys2Proof/Machine/Posting.lean ====
section
/-!
DEFINITION. POST_UPDATE and CANCEL (R46 to R53).
-/

namespace Sys2Proof.Machine

/-- The checks every posting command ends its common part with: library, tag, table (R46, R126, R131). -/
def postingCheck (tag : Nat) (s : State) : Option Result :=
  (failIf (decide (s.lib.state = .loading)) .busy).or (tableCheck tag s)
where
  /-- Tag in use, table full (R46). -/
  tableCheck (tag : Nat) (s : State) : Option Result :=
    (failIf (findTag s tag).isSome .tagInUse).or
      (failIf (decide (Config.requestRecords ≤ s.req.table.length)) .tableFull)

/-- The checks of POST_UPDATE in their order (R46). -/
def postUpdateCheck (p : List Byte) (s : State) : Option Result :=
  (failIf (decide (p.length ≠ 16)) .badLength).or <|
  (failIf s.mem.calibrating .busy).or <|
  (rectCheck s.px.geometry (rectField p 2)).or <|
  (failIf (postUpdateFields p).isNone .badField).or <|
  (postingCheck (field p 0 2) s).or <|
  failIf (decide (field p 13 1 = 0) && tooFewPages (rectField p 2) s) .stagingFull

/-- The request of an accepted POST_UPDATE; INFLOW takes the pages allocated, FILL has no list (R48). -/
def postedRequest (f : PostUpdate) (s : State) (age : Nat) : Request :=
  newRequest age f.tag f.source f.rect f.choice.mode f.choice.ghost f.choice.collision f.early
    (if f.source = .inflow then some (allocation f.rect s) else none)

/-- An accepted POST_UPDATE (R48). -/
def postUpdate (f : PostUpdate) (s : State) : State :=
  createRequest (postedRequest f s) (if f.source = .inflow then takePages f.rect s else s)

/-- POST_UPDATE's effect (R46, R48). -/
def takePostUpdate (p : List Byte) (s : State) : Effect :=
  match postUpdateCheck p s with
  | some r => refused s r
  | none =>
    match postUpdateFields p with
    | some f => accepted (postUpdate f s)
    | none => refused s .badField

/-- POST_UPDATE (R46). -/
def execPostUpdate (t : Transfer) (s : State) : Out := takeKind .postUpdate t takePostUpdate s

/-! ### CANCEL -/

/-- Checks 1 and 2 of CANCEL (R49). -/
def cancelCheck (p : List Byte) : Option Result :=
  (failIf (decide (p.length ≠ 3)) .badLength).or (failIf (decide (1 < field p 2 1)) .badField)

/-- A CANCEL taken as pending on an ADMITTING entry (R52): FORCE makes it forced; without it a pending cancel keeps
its value. -/
def pendCancel (r : Request) (force : Bool) (s : State) : State :=
  closeTally r.age
    (updateRequest r.age
      (fun q => { q with cancelPending := if force then .forced else if q.cancelPending = .none then .plain
                                          else q.cancelPending }) s)

/-- A CANCEL that is not pending: its effects, then the request and the copier judged (R50, R51, R56, R120). -/
def cancelNow (r : Request) (cut : Request → State → State) (s : State) : State :=
  judgeAfter s (judgeFinish r.age (cut r (closeTally r.age s)))

/-- CANCEL of a live request, OPEN or RUNNING (R50 to R52). -/
def cancelRequest (r : Request) (force : Bool) (s : State) : Effect :=
  if isAdmitting s r.age then
    if r.cancelPending ≠ .none ∨ force = true ∨ anyLane s r.tag LaneState.begun = false then
      accepted (pendCancel r force s)
    else refused s .tooLate
  else if anyLane s r.tag LaneState.begun then
    if force then accepted (cancelNow r forcedCancel s) else refused s .tooLate
  else accepted (cancelNow r (cleanCancel force) s)

/-- CANCEL's effect (R49). -/
def takeCancel (p : List Byte) (s : State) : Effect :=
  match cancelCheck p with
  | some r => refused s r
  | none =>
    match findTag s (field p 0 2) with
    | none => refused s .noTag
    | some r =>
      if r.withdrawn then refused s .noTag
      else if r.state = .reporting then refused s .tooLate
      else cancelRequest r (decide (field p 2 1 = 1)) s

/-- CANCEL (R49). -/
def execCancel (t : Transfer) (s : State) : Out := takeKind .cancel t takeCancel s

end Sys2Proof.Machine
end

