-- ==== Sys2Proof/Machine/CopierUnit.lean ====
section
/-!
DEFINITION. POST_COPY, OVERLAY_PUSH, OVERLAY_POP, OVERLAY_SWAP, the snapshot of a copier job and its end (R119 to R133).
-/

namespace Sys2Proof.Machine

/-! ### POST_COPY (R126, R127) -/

/-- Too few jobs or pages for a snapshot of a rectangle (R126, R129, R132). -/
def snapshotCheck (r : Rect) (s : State) : Option Result :=
  (failIf (decide (Config.copierJobs ≤ s.copier.jobs.length)) .busy).or (failIf (tooFewPages r s) .stagingFull)

/-- The checks of POST_COPY in their order (R126). -/
def postCopyCheck (p : List Byte) (s : State) : Option Result :=
  (failIf (decide (p.length ≠ 17)) .badLength).or <|
  (failIf s.mem.calibrating .busy).or <|
  (rectCheck s.px.geometry (copySource p)).or <|
  (rectCheck s.px.geometry (copyDestination p)).or <|
  (failIf (postChoice p 14).isNone .badField).or <|
  (postingCheck (field p 0 2) s).or <|
  snapshotCheck (copySource p) s

/-- A new PENDING job (R119). -/
def newJob (purpose : JobPurpose) (rect : Rect) (pages : List Nat) (rounding : Bool) (age : Nat) : Job :=
  { age := age, purpose := purpose, rect := rect, pages := pages, state := .pending, rounding := rounding }

/-- An accepted POST_COPY (R127): pages, job, request and judging, in this order. The job is the older of the two, so
its request has the age after its own (R119). -/
def postCopy (tag : Nat) (source destination : Rect) (c : PostChoice) (s : State) : State :=
  let pages := allocation source s
  judgeJobs
    (createRequest
      (fun age => newRequest age tag .copy destination c.mode c.ghost c.collision false (some pages))
      (createJob (newJob (.copy (s.req.nextAge + 1)) source pages (decide (c.mode = .quick))) (takePages source s)))

/-- POST_COPY's effect (R126, R127). -/
def takePostCopy (p : List Byte) (s : State) : Effect :=
  match postCopyCheck p s with
  | some r => refused s r
  | none =>
    match postChoice p 14 with
    | some c => accepted (postCopy (field p 0 2) (copySource p) (copyDestination p) c s)
    | none => refused s .badField

/-- POST_COPY (R126). -/
def execPostCopy (t : Transfer) (s : State) : Out := takeKind .postCopy t takePostCopy s

/-! ### OVERLAY_PUSH (R129, R130) -/

/-- The overlay depth after the command, which an accepted overlay command's reply carries (R125). -/
def depthBody (s : State) : List Byte := leBytes 1 s.copier.overlays.length

/-- The checks of OVERLAY_PUSH in their order (R129). -/
def overlayPushCheck (p : List Byte) (s : State) : Option Result :=
  (failIf (decide (p.length ≠ 8)) .badLength).or <|
  (failIf s.mem.calibrating .busy).or <|
  (rectCheck s.px.geometry (rectField p 0)).or <|
  snapshotCheck (rectField p 0) s

/-- Whether a job of this age is RUNNING. -/
def runningJob (s : State) (age : Nat) : Bool := s.copier.jobs.any fun j => decide (j.age = age) && j.running

/-- The pages of a discarded entry return, and its PENDING job is cancelled; with its job RUNNING, both stay until
the job's end (R130). -/
def releaseOverlay (o : Overlay) (s : State) : State :=
  match o.capturing with
  | none => returnPages o.pages s
  | some age =>
    if runningJob s age then s
    else returnPages o.pages (dropJobs (fun j => decide (j.age = age)) s)

/-- A push onto a full stack discards the bottom entry and raises OVERLAY_LOST (R130). -/
def discardBottom (s : State) : State :=
  if s.copier.overlays.length < Config.overlayEntries then s
  else
    match s.copier.overlays with
    | [] => s
    | bottom :: rest =>
      raise .overlayLost
        (releaseOverlay bottom { s with copier := { s.copier with overlays := rest } })

/-- A new entry on top of the stack (R129). -/
def placeOverlay (o : Overlay) (s : State) : State :=
  { s with copier := { s.copier with overlays := s.copier.overlays ++ [o] } }

/-- An accepted OVERLAY_PUSH (R129): pages, job, discard, entry and judging, in this order. -/
def overlayPush (r : Rect) (s : State) : State :=
  let pages := allocation r s
  judgeJobs
    (placeOverlay { rect := r, pages := pages, capturing := some s.req.nextAge }
      (discardBottom (createJob (newJob .push r pages false) (takePages r s))))

/-- OVERLAY_PUSH's effect (R129). -/
def takeOverlayPush (p : List Byte) (s : State) : Effect :=
  match overlayPushCheck p s with
  | some r => refused s r
  | none => (overlayPush (rectField p 0) s, .ok, depthBody)

/-- OVERLAY_PUSH (R129). -/
def execOverlayPush (t : Transfer) (s : State) : Out := takeKind .overlayPush t takeOverlayPush s

/-! ### OVERLAY_POP and OVERLAY_SWAP (R131 to R133) -/

/-- The top entry of the stack. -/
def topOverlay (s : State) : Option Overlay := s.copier.overlays.getLast?

/-- Checks 1 to 8 of OVERLAY_POP and OVERLAY_SWAP (R131, R132). -/
def overlayPopCheck (p : List Byte) (s : State) : Option Result :=
  (failIf (decide (p.length ≠ 5)) .badLength).or <|
  (failIf s.mem.calibrating .busy).or <|
  (failIf (overlayChoice p).isNone .badField).or <|
  (failIf (decide (s.lib.state = .loading)) .busy).or <|
  match topOverlay s with
  | none => some .empty
  | some top => (failIf top.capturing.isSome .busy).or (postingCheck.tableCheck (field p 0 2) s)

/-- The request that restores an entry's image (R131). -/
def overlayRequest (tag : Nat) (c : PostChoice) (o : Overlay) (age : Nat) : Request :=
  newRequest age tag .overlay o.rect c.mode c.ghost c.collision false (some o.pages)

/-- An accepted OVERLAY_POP (R131): the top entry leaves the stack and its pages pass to the request. -/
def overlayPop (tag : Nat) (c : PostChoice) (o : Overlay) (s : State) : State :=
  createRequest (overlayRequest tag c o)
    { s with copier := { s.copier with overlays := s.copier.overlays.dropLast } }

/-- OVERLAY_POP's effect (R131). -/
def takeOverlayPop (p : List Byte) (s : State) : Effect :=
  match overlayPopCheck p s with
  | some r => refused s r
  | none =>
    match overlayChoice p, topOverlay s with
    | some c, some o => (overlayPop (field p 0 2) c o s, .ok, depthBody)
    | _, _ => refused s .empty

/-- OVERLAY_POP (R131). -/
def execOverlayPop (t : Transfer) (s : State) : Out := takeKind .overlayPop t takeOverlayPop s

/-- The two checks OVERLAY_SWAP has beyond OVERLAY_POP's (R132). -/
def overlaySwapCheck (p : List Byte) (s : State) : Option Result :=
  (overlayPopCheck p s).or <|
  match topOverlay s with
  | some o => snapshotCheck o.rect s
  | none => none

/-- An accepted OVERLAY_SWAP (R133): new pages, job, request from the old pages, the entry with the new pages, and
judging, in this order. -/
def overlaySwap (tag : Nat) (c : PostChoice) (o : Overlay) (s : State) : State :=
  let pages := allocation o.rect s
  let posted := createRequest (overlayRequest tag c o)
    (createJob (newJob .swap o.rect pages false) (takePages o.rect s))
  judgeJobs
    { posted with copier := { posted.copier with
        overlays := posted.copier.overlays.dropLast
          ++ [{ rect := o.rect, pages := pages, capturing := some s.req.nextAge }] } }

/-- OVERLAY_SWAP's effect (R132, R133). -/
def takeOverlaySwap (p : List Byte) (s : State) : Effect :=
  match overlaySwapCheck p s with
  | some r => refused s r
  | none =>
    match overlayChoice p, topOverlay s with
    | some c, some o => (overlaySwap (field p 0 2) c o s, .ok, depthBody)
    | _, _ => refused s .empty

/-- OVERLAY_SWAP (R132). -/
def execOverlaySwap (t : Transfer) (s : State) : Out := takeKind .overlaySwap t takeOverlaySwap s

/-! ### Snapshots (R121, R122) -/

/-- A level as a job copies it: rounded with rounding on (R121). -/
def copiedLevel (rounding : Bool) (l : Level) : Level := if rounding then quickLevel l else l

/-- The level a job reads at position i of its source, as it copies it (R121). -/
def snapshotLevel (s : State) (j : Job) (i : Nat) : Level :=
  copiedLevel j.rounding (pixelAt s (j.rect.position i).1 (j.rect.position i).2).shown

/-- n pixels of a snapshot from position i on: the left pixel of a byte is kept, the byte written with the right
one (R121). Widths are even, so a position's column is even where the position is. -/
def copyPixels (j : Job) : (n : Nat) → (i : Nat) → (half : Option Level) → State → Option Level × State
  | 0, _, half, s => (half, s)
  | n + 1, i, half, s =>
    let level := snapshotLevel s j i
    match half with
    | none => copyPixels j n (i + 1) (some level) s
    | some left => copyPixels j n (i + 1) none (writeImage j.pages (i / 2) (packLevels left level) s)

/-- The RUNNING job copies n pixels more, or those that are left (R121). They are read from the Pixel Store and written to the
pages together, in one burst: the model's choice (log 38). -/
def advanceCopy (n : Nat) (s : State) : State :=
  match currentJob s with
  | none => s
  | some (j, done, half) =>
    let count := min n (j.rect.area - done)
    let r := copyPixels j count done half s
    { r.2 with copier := { r.2.copier with
        jobs := r.2.copier.jobs.map fun k =>
          if k.age = j.age then { k with state := .running (done + count) r.1 } else k } }

/-- A finished job hands its result to the holder of its destination (R122). -/
def handSnapshot (j : Job) (s : State) : State :=
  match j.purpose with
  | .copy age => wantPass (updateRequest age (fun r => { r with rowsWritten := r.rect.height }) s)
  | .push | .swap =>
    if s.copier.overlays.any fun o => decide (o.capturing = some j.age) then
      { s with copier := { s.copier with
          overlays := s.copier.overlays.map fun o =>
            if o.capturing = some j.age then { o with capturing := none } else o } }
    else returnPages j.pages s

/-- The end of a snapshot (R122): its remaining pixels, the job's departure, its result, and the jobs judged. -/
def endSnapshot (j : Job) (s : State) : State :=
  let copied := advanceCopy j.rect.area s
  let left := { copied with copier := { copied.copier with
    jobs := copied.copier.jobs.filter fun k => k.age ≠ j.age } }
  judgeJobs (handSnapshot j (clientDone .copier left))

/-- COPIER_JOB_END (R122), behind the job's last bursts (R151, log 7). -/
def execCopierJobEnd (s : State) : Out :=
  match currentJob s with
  | some (j, _, _) => .next (finish s (endSnapshot j (lastBursts .copier s)))
  | none => .fault .noRunningJob

end Sys2Proof.Machine
end

