-- ==== Sys2Proof/Machine/InflowUnit.lean ====
section
/-!
DEFINITION. PIXELS, CLEAR_DISCARD, the inflow writer and the end of its chunk writes (R63 to R73).
-/

namespace Sys2Proof.Machine

/-! ### The writer (R68, R69, R72, R73) -/

/-- REFILL is raised and the latch disarmed where an armed latch meets a fill level below the low watermark (R72). -/
def checkRefill (s : State) : State :=
  if s.inflow.latch = true ∧ fillLevel s < s.settings.lowWatermark then
    raise .refill { s with inflow := { s.inflow with latch := false } }
  else s

/-- The oldest chunk leaves the buffer. -/
def popChunk (s : State) : State := { s with inflow := { s.inflow with buffer := s.inflow.buffer.tail } }

/-- Whether the writer drops a chunk: its request has left the table, or its tally is closed (R68). -/
def chunkUnwanted (s : State) (c : Chunk) : Bool :=
  match findAge s c.age with
  | none => true
  | some r => match r.tally with | some t => t.closed | none => true

/-- A chunk is dropped (R68, R72, R73): discard flag set, INFLOW_DISCARD raised, REFILL judged. -/
def dropChunk (s : State) : State :=
  checkRefill (raise .inflowDiscard
    { popChunk s with inflow := { (popChunk s).inflow with discard := true } })

/-- The writer takes the oldest chunks in turn: drops what is not wanted, and begins the write of the first that is
(R68). -/
def takeChunks : List Chunk → State → State
  | [], s => s
  | c :: rest, s =>
    if chunkUnwanted s c then takeChunks rest (dropChunk s)
    else beginWait .inflow { s with inflow := { s.inflow with writing := some 0 } }

/-- The writer takes the next chunk when the buffer holds one and no write is in flight (R68). -/
def takeNextChunk (s : State) : State :=
  if s.inflow.writing.isSome then s else takeChunks s.inflow.buffer s

/-- A chunk's bytes as they are written: rounded for a request of requested mode QUICK (R68). -/
def writtenBytes (r : Request) (c : Chunk) : List Byte :=
  match r.requestedMode with
  | .quick => c.data.map quickByte
  | .blank | .clear | .settle | .stroke => c.data

/-- The chunk write in flight goes forward by n bytes, or to its end (R61, R68). That the bytes go in the order of the
chunk, from its first row on, is the model's choice (log 37). -/
def advanceChunk (n : Nat) (s : State) : State :=
  match s.inflow.writing, s.inflow.buffer with
  | some done, c :: _ =>
    let written := { s with inflow := { s.inflow with writing := some (min c.data.length (done + n)) } }
    match findAge s c.age with
    | none => written
    | some r =>
      writeImageBytes (r.pages.getD []) (c.firstRow * (r.rect.width / 2) + done)
        (((writtenBytes r c).drop done).take n) written
  | _, _ => s

/-- Rows written rises with a chunk whose request's tally is still open, and the trigger of R70 is given where it
reaches the height or the early point (R69, R70). -/
def countRows (c : Chunk) (s : State) : State :=
  match findAge s c.age with
  | none => s
  | some r =>
    if chunkUnwanted s c then s
    else
      let rows := r.rowsWritten + c.rowCount
      let counted := updateRequest c.age (fun q => { q with rowsWritten := rows }) s
      let t := s.settings.earlyThreshold
      let point := earlyPoint t r.rect.height
      if rows = r.rect.height ∨
          (r.early = true ∧ r.requestedMode.clearing = true ∧ 1 ≤ t ∧ t ≤ 15 ∧ r.rowsWritten < point ∧ point ≤ rows) then
        wantPass counted
      else counted

/-- Pages held back for the write return if the request entered REPORTING during it, and the line may offer
(R62, R69). -/
def returnHeldPages (age : Nat) (s : State) : State :=
  match findAge s age with
  | some r => if r.state = .reporting then offerRecords (freeRequestPages age s) else s
  | none => s

/-- The end of a chunk write, in the order of R69. -/
def endChunkWrite (c : Chunk) (s : State) : State :=
  let whole := advanceChunk c.data.length s
  let left := clientDone .inflow { popChunk whole with inflow := { (popChunk whole).inflow with writing := none } }
  takeNextChunk (returnHeldPages c.age (countRows c (checkRefill left)))

/-- INFLOW_CHUNK_WRITE_END (R69), behind the write's last bursts (R151, log 7). -/
def execInflowChunkWriteEnd (s : State) : Out :=
  match s.inflow.writing, s.inflow.buffer with
  | some _, c :: _ => .next (finish s (endChunkWrite c (lastBursts .inflow s)))
  | _, _ => .fault .noChunkWrite

/-! ### PIXELS (R63 to R66) -/

/-- Checks 1 and 2 of PIXELS (R65). -/
def pixelsLinkCheck (f : PixelsFields) (p : List Byte) (s : State) : Option Result :=
  (failIf (decide (p.length < 8) || decide (f.dataLength ≠ f.data.length)) .badLength).or
    (failIf s.mem.calibrating .busy)

/-- Checks 4 to 10 of PIXELS for a live request (R65). -/
def pixelsRequestCheck (f : PixelsFields) (r : Request) (s : State) : Option Result :=
  match r.tally with
  | none => some .badField
  | some tally =>
    (failIf (decide (r.source ≠ .inflow)) .badField).or <|
    (failIf tally.closed .tooLate).or <|
    (failIf (decide (tally.rowsAccepted = r.rect.height) || decide (f.rowCount = 0)) .badField).or <|
    (failIf (decide (f.firstRow ≠ tally.rowsAccepted)) .rowOrder).or <|
    (failIf (decide (r.rect.height < f.firstRow + f.rowCount)) .outOfPanel).or <|
    (failIf (decide (f.dataLength ≠ f.rowCount * (r.rect.width / 2))) .badLength).or <|
    failIf (decide (freeSpace s < f.dataLength)) .inflowFull

/-- Every check of PIXELS in its order (R65). -/
def pixelsCheck (f : PixelsFields) (p : List Byte) (s : State) : Option Result :=
  (pixelsLinkCheck f p s).or <|
    match findTag s f.tag with
    | none => some .noTag
    | some r => if r.withdrawn then some .noTag else pixelsRequestCheck f r s

/-- Rows accepted of the live request of a tag, as OK and ROW_ORDER carry it (R63, R65). -/
def nextRow (tag : Nat) (s : State) : List Byte :=
  match findTag s tag with
  | some r => leBytes 2 (match r.tally with | some t => t.rowsAccepted | none => 0)
  | none => leBytes 2 0

/-- The latch is armed where an acceptance leaves the fill level at or above the high watermark (R72). -/
def armLatch (s : State) : State :=
  if s.settings.highWatermark ≤ fillLevel s then { s with inflow := { s.inflow with latch := true } } else s

/-- An accepted PIXELS (R66): chunk at the tail, rows accepted, latch; the writer takes it if it is idle (R68). -/
def acceptPixels (f : PixelsFields) (r : Request) (s : State) : State :=
  takeNextChunk (armLatch
    (updateRequest r.age
      (fun q => { q with tally := q.tally.map fun t => { t with rowsAccepted := t.rowsAccepted + f.rowCount } })
      { s with inflow := { s.inflow with
          buffer := s.inflow.buffer ++ [{ age := r.age, firstRow := f.firstRow, rowCount := f.rowCount, data := f.data }] } }))

/-- A refused PIXELS counts in the inflow refusals (R65). -/
def countRefusal (s : State) : State :=
  { s with counters := { s.counters with inflowRefusals := bump s.counters.inflowRefusals } }

/-- PIXELS's effect; OK and ROW_ORDER carry the next expected row (R63, R65, R66). -/
def takePixels (p : List Byte) (s : State) : Effect :=
  let f := pixelsFields p
  match pixelsCheck f p s with
  | some .rowOrder => (countRefusal s, .rowOrder, nextRow f.tag)
  | some r => refused (countRefusal s) r
  | none =>
    match findTag s f.tag with
    | some r => (acceptPixels f r s, .ok, fun _ => leBytes 2 (f.firstRow + f.rowCount))
    | none => refused s .noTag

/-- PIXELS (R65, R66). -/
def execPixels (t : Transfer) (s : State) : Out := takeKind .pixels t takePixels s

/-! ### CLEAR_DISCARD (R73) -/

/-- CLEAR_DISCARD's effect: the flag's value before goes into the reply, and the flag is clear (R73). -/
def takeClearDiscard (p : List Byte) (s : State) : Effect :=
  match failIf (decide (p.length ≠ 0)) .badLength with
  | some r => refused s r
  | none => ({ s with inflow := { s.inflow with discard := false } }, .ok, fun _ => leBytes 1 (bit s.inflow.discard))

/-- CLEAR_DISCARD (R73). -/
def execClearDiscard (t : Transfer) (s : State) : Out := takeKind .clearDiscard t takeClearDiscard s

end Sys2Proof.Machine
end

