-- ==== Sys2Proof/Machine/LanesUnit.lean ====
section
/-!
DEFINITION. Freeze, frames, drive codes and retirement walks (R103 to R112).
-/

namespace Sys2Proof.Machine

/-! ### FREEZE and THAW (R108) -/

/-- The effect of FREEZE and THAW: the freeze state is set (R108). -/
def takeFreeze (on : Bool) (p : List Byte) (s : State) : Effect :=
  match failIf (decide (p.length ≠ 0)) .badLength with
  | some r => refused s r
  | none => accepted { s with scan := { s.scan with freeze := on } }

/-- FREEZE (R108). -/
def execFreeze (t : Transfer) (s : State) : Out := takeKind .freeze t (takeFreeze true) s

/-- THAW (R108). -/
def execThaw (t : Transfer) (s : State) : Out := takeKind .thaw t (takeFreeze false) s

/-! ### Drive codes (R104) -/

/-- The target of a pixel of a lane: that of the lane's request (R104, R111). -/
def laneTarget (s : State) (ln : Lane) (x y : Nat) : Level :=
  match findTag s ln.tag with
  | some r => targetLevel s r.source (r.pages.getD []) r.rect x y
  | none => imageLevel s [] ln.rect.width (x - ln.rect.col) (y - ln.rect.row)

/-- The code a pixel owned by a lane receives in a DRIVEN frame (R104, steps 1 to 3). -/
def laneCode (s : State) (ln : Lane) (p : PixelRecord) (x y : Nat) : DriveCode :=
  match ln.state with
  | .active => s.lib.driveCode ln.mode ln.band p.shown (laneTarget s ln x y) ln.index
  | .armed | .retiring _ _ => .none

/-- The code a pixel receives in a frame of a mark (R104). -/
def pixelCode (s : State) (mark : FrameMark) (x y : Nat) : DriveCode :=
  match mark with
  | .frozen => .none
  | .driven =>
    let p := pixelAt s x y
    match p.owner with
    | none => .none
    | some l => match laneAt s l with | some ln => laneCode s ln p x y | none => .none

/-- The codes of a row, left to right (R104). -/
def rowCodes (s : State) (mark : FrameMark) (y : Nat) : List DriveCode :=
  (List.range (panelWidth s)).map fun x => pixelCode s mark x y

/-- The output of n rows more begins, or of those that are left: every row's codes are put out, fixed at its
beginning, and the port carries those of the row begun last (R104, log 20). -/
def advanceScan (n : Nat) (s : State) : State :=
  match s.scan.frame with
  | none => s
  | some f =>
    let rows := min n (panelHeight s - f.nextRow)
    if rows = 0 then s
    else { s with scan := { s.scan with
      frame := some { f with nextRow := f.nextRow + rows }
      port := rowCodes s f.mark (f.nextRow + rows - 1)
      output := s.scan.output ++ (List.range' f.nextRow rows).map (rowCodes s f.mark) } }

/-! ### Frame start (R102, R103) -/

/-- The mark of a frame that starts now (R103). -/
def frameMark (s : State) : FrameMark := if s.scan.freeze then .frozen else .driven

/-- An ARMED lane becomes ACTIVE with frame index 0; any other lane is as it was (R103). -/
def activateLane (ln : Lane) : Lane := if ln.state = .armed then { ln with state := .active, index := 0 } else ln

/-- Every ARMED lane becomes ACTIVE (R103). -/
def activateArmed (s : State) : State := { s with lanes := s.lanes.map fun o => o.map activateLane }

/-- A frame starts: it is marked, the timer reloaded, and in a DRIVEN frame ARMED lanes become ACTIVE (R102,
R103). -/
def startFrame (s : State) : State :=
  let started := { s with scan := { s.scan with
    timer := some s.settings.framePeriod, frame := some { mark := frameMark s, nextRow := 0 }, output := [] } }
  beginWait .scanner (match frameMark s with | .driven => activateArmed started | .frozen => started)

/-- FRAME_START (R103). -/
def execFrameStart (s : State) : Out :=
  if s.scan.timer.isNone then .fault .frameTimerStopped
  else if s.scan.frame.isSome then .fault .frameInFlight
  else .next (finish s (startFrame s))

/-! ### Frame completion (R105, R106) -/

/-- The rows written of a lane's request are below its height (R105). -/
def rowsMissing (s : State) (ln : Lane) : Bool :=
  match findTag s ln.tag with | some r => decide (r.rowsWritten < r.rect.height) | none => false

/-- A lane starves, keeping the index it had (R106). -/
def starveLane (l : LaneId) (ln : Lane) (s : State) : State :=
  let aborted := abortLane .starved s l
  reportAbort ln.tag .starved
    (raise .starved { aborted with counters := { aborted.counters with
      starvations := bump aborted.counters.starvations } })

/-- One lane at the completion of a DRIVEN frame (R105). -/
def advanceLane (s : State) (l : LaneId) : State :=
  match laneAt s l with
  | none => s
  | some ln =>
    if ln.state ≠ .active then s
    else if ln.index + 1 = ln.frames then
      beginRetire l .complete (setLane l (some { ln with index := ln.index + 1 }) s)
    else if ln.early = true ∧ ln.index + 1 = ln.leads ∧ rowsMissing s ln = true then starveLane l ln s
    else setLane l (some { ln with index := ln.index + 1 }) s

/-- Every lane at the completion of a frame: a FROZEN one advances none (R105). -/
def advanceLanes (mark : FrameMark) (s : State) : State :=
  match mark with
  | .driven => allLanes.foldl advanceLane s
  | .frozen => s

/-- The scan of the last row ends: the frame is over and counted (R105); between frames the port carries NONE
(log 20). -/
def endFrame (s : State) : State :=
  clientDone .scanner
    { s with
      scan := { s.scan with frame := none, port := [] }
      counters := { s.counters with framesScanned := bump s.counters.framesScanned } }

/-- A frame completion (R105); the rows that no burst has begun are put out first (R104, log 7). -/
def completeFrame (f : Frame) (s : State) : State :=
  judgeAfter s (advanceLanes f.mark (endFrame (advanceScan (panelHeight s) s)))

/-- FRAME_COMPLETION (R105), behind the scan's last bursts (R151, log 7). -/
def execFrameCompletion (s : State) : Out :=
  match s.scan.frame with
  | some f => .next (finish s (completeFrame f (lastBursts .scanner s)))
  | none => .fault .noFrame

/-! ### Retirement walks (R4, R5, R110, R111) -/

/-- A sum held within -127 to +127 (R4). -/
def clampBalance (b : Int) : Int := if b < -127 then -127 else if 127 < b then 127 else b

/-- The record a COMPLETE walk writes (R111). -/
def completeRecord (s : State) (ln : Lane) (x y : Nat) (p : PixelRecord) : PixelRecord :=
  let target := laneTarget s ln x y
  if ln.mode.clearing then { shown := target, owner := none, residue := 0, balance := 0, indeterminate := false }
  else
    { shown := target, owner := none, residue := min 15 (p.residue + ln.mode.weight),
      balance := clampBalance (p.balance + s.lib.imbalance ln.mode ln.band p.shown target),
      indeterminate := p.indeterminate }

/-- The record a retirement walk writes at a pixel its lane owns (R111). -/
def retiredRecord (s : State) (ln : Lane) (kind : WalkKind) (x y : Nat) (p : PixelRecord) : PixelRecord :=
  match kind with
  | .complete => completeRecord s ln x y p
  | .release _ => { p with owner := none }
  | .abort _ => { p with owner := none, indeterminate := true }

/-- Whether a pixel lies among the n positions of a rectangle from a position on, in row-major order (R110). -/
def Rect.reaches (r : Rect) (done n x y : Nat) : Bool :=
  r.contains x y && decide (done ≤ (y - r.row) * r.width + (x - r.col))
    && decide ((y - r.row) * r.width + (x - r.col) < done + n)

/-- A walk of a lane at one listed record: written if the lane owns it and the walk reaches it now (R110). -/
def retireAt (s : State) (l : LaneId) (ln : Lane) (kind : WalkKind) (done n key : Nat) (p : PixelRecord) :
    PixelRecord :=
  let x := key % panelWidth s
  let y := key / panelWidth s
  if p.owner = some l ∧ ln.rect.reaches done n x y = true then retiredRecord s ln kind x y p else p

/-- A retirement walk goes forward by n positions, or to the end of its rectangle. Only listed records have owners
(R9), so they alone are looked at. -/
def advanceRetire (l : LaneId) (n : Nat) (s : State) : State :=
  match laneAt s l with
  | some ln =>
    match ln.state with
    | .retiring kind done =>
      let count := min n (ln.rect.area - done)
      setLane l (some { ln with state := .retiring kind (done + count) })
        { s with px := { s.px with pixels := mapPixels (retireAt s l ln kind done count) s.px.pixels } }
    | .armed | .active => s
  | none => s

/-! ### The end of a retirement walk (R44, R112) -/

/-- Pixels driven and largest frame count after a walk: a RELEASE walk adds nothing (R44). -/
def countDriven (ln : Lane) (kind : WalkKind) (r : Request) : Request :=
  match kind with
  | .complete | .abort _ =>
    { r with pixelsDriven := r.pixelsDriven + ln.owned, largestFrames := max r.largestFrames ln.frames }
  | .release _ => r

/-- The part outcome at the end of a lane's walk (R43): what the lane hands back (R112); but CANCELLED at the end of each
release walk that a cancel of R50 ordered, with or without FORCE (R50, log 31). -/
def Request.partOutcome (r : Request) (kind : WalkKind) : ReqOutcome :=
  match kind with
  | .release _ => if r.cancelled then .cancelled else kind.outcome
  | .complete | .abort _ => kind.outcome

/-- A request's record behind the end of a lane's walk: one part more finished, with its part outcome (R43, R44, R112). -/
def Request.behindWalk (ln : Lane) (kind : WalkKind) (r : Request) : Request :=
  (countDriven ln kind r).withPartFinished (r.partOutcome kind)

/-- The Request Manager is told of the part's end, and the request is judged (R43, R56, R59, R112). -/
def reportPart (ln : Lane) (kind : WalkKind) (s : State) : State :=
  match findTag s ln.tag with
  | some r => judgeFinish r.age (updateRequest r.age (Request.behindWalk ln kind) s)
  | none => s

/-- The lane leaves the tile map and becomes FREE (R112). -/
def freeTheLane (l : LaneId) (s : State) : State :=
  clientDone (.retirement l) (setLane l none (removeFromTiles l s))

/-- The end of a retirement walk (R112): its remaining pixels, then its hand-over, and the jobs judged (R120). The
end of the restart condition is seen by `finish`. -/
def endRetirement (l : LaneId) (ln : Lane) (kind : WalkKind) (s : State) : State :=
  judgeJobs (wantPass (reportPart ln kind (freeTheLane l (advanceRetire l ln.rect.area s))))

/-- RETIREMENT_WALK_END (R112), behind the walk's last bursts (R151, log 7). -/
def execRetirementWalkEnd (l : LaneId) (s : State) : Out :=
  match laneAt s l with
  | some ln =>
    match ln.state with
    | .retiring kind _ => .next (finish s (endRetirement l ln kind (lastBursts (.retirement l) s)))
    | .armed | .active => .fault .laneNotRetiring
  | none => .fault .laneNotRetiring

end Sys2Proof.Machine
end

