-- ==== Sys2Proof/Machine/LibraryUnit.lean ====
section
/-!
DEFINITION. LIB_BEGIN, LIB_DATA, LIB_COMMIT, LIB_ABANDON and the ends of library chunk writes and commit walks (R27 to
R34).
-/

namespace Sys2Proof.Machine

/-- A commit walk in flight or requested, which the loading commands treat alike (R31). -/
def commitBusy (s : State) : Bool := decide (s.lib.commit ≠ .none)

/-- The checks of LIB_BEGIN in their order (R27). A payload without even a band count fails the length check
(log 16). -/
def libBeginCheck (p : List Byte) (s : State) : Option Result :=
  (failIf (s.mem.calibrating || commitBusy s || !allFree s || !s.req.table.isEmpty) .busy).or <|
  (failIf (decide (p ≠ []) && (decide (libBandCount p = 0) || decide (12 < libBandCount p))) .badField).or <|
  (failIf (decide (p.length ≠ 3 + 12 * libBandCount p)) .badLength).or <|
  failIf (libFieldsBad p) .badField

/-- The library after an accepted LIB_BEGIN: LOADING, with the command's bands and directory, nothing received
(R27, R28). -/
def loadingLibrary (p : List Byte) (lib : Library) : Library :=
  { state := .loading, reason := .none, generation := lib.generation, bounds := libBounds p,
    directory := libDirectory p, data := [], imbalances := [],
    expected := expectedSize (libBandCount p) (libDirectory p), received := 0, crc := crcStart,
    hostCrc := lib.hostCrc, write := none, commit := .none, moved := 0 }

/-- A change of library state, reported to the Temperature Monitor (R25, R148); the Admission Unit's side is in
`finish`. -/
def setLibrary (lib : Library) (s : State) : State := recomputeTemp { s with lib := lib }

/-- LIB_BEGIN's effect (R27): a chunk write in flight is abandoned with the rest (R30, R153). -/
def takeLibBegin (p : List Byte) (s : State) : Effect :=
  match libBeginCheck p s with
  | some r => refused s r
  | none => (setLibrary (loadingLibrary p s.lib) (clientAbandon .library s), .ok, fun s' => leBytes 4 s'.lib.expected)

/-- LIB_BEGIN (R27). -/
def execLibBegin (t : Transfer) (s : State) : Out := takeKind .libBegin t takeLibBegin s

/-- Checks 1 to 3 of LIB_DATA (R29). -/
def libDataCheck (p : List Byte) (s : State) : Option Result :=
  (failIf (decide (p.length < 5) || decide (4100 < p.length)) .badLength).or <|
  (failIf (decide (s.lib.state ≠ .loading)) .notLoading).or <|
  failIf (commitBusy s || s.lib.write.isSome) .busy

/-- The next expected offset, as OK and SEQUENCE carry it in four bytes (R29); the count itself has no limit in the
model (log 35). -/
def nextOffset (s : State) : List Byte := leBytes 4 s.lib.received

/-- The library's operation in flight waits for the frame memory if it has anything to transfer (R151): a chunk past the
expected size (R29) and a commit walk that fails on size or CRC (R32) have nothing. -/
def waitToTransfer (s : State) : State := if 0 < s.lib.toTransfer then beginWait .library s else s

/-- LIB_DATA's effect (R29): the chunk enters the running CRC and the count, and its write begins. A count past
2^32 - 1 is matched by no offset (log 35). -/
def takeLibData (p : List Byte) (s : State) : Effect :=
  match libDataCheck p s with
  | some r => refused s r
  | none =>
    if field p 0 4 ≠ s.lib.received then (s, .sequence, nextOffset)
    else
      (waitToTransfer { s with lib := { s.lib with
        crc := crcFold s.lib.crc (p.drop 4)
        received := s.lib.received + (p.drop 4).length
        write := some { offset := s.lib.received, bytes := p.drop 4 }
        moved := 0 } }, .ok, nextOffset)

/-- LIB_DATA (R29). -/
def execLibData (t : Transfer) (s : State) : Out := takeKind .libData t takeLibData s

/-- The checks of LIB_COMMIT (R31). -/
def libCommitCheck (p : List Byte) (s : State) : Option Result :=
  (failIf (decide (p.length ≠ 2)) .badLength).or <|
  (failIf (decide (s.lib.state ≠ .loading)) .notLoading).or <|
  failIf (commitBusy s) .busy

/-- The commit walk starts at once, or is requested while a chunk write is in flight (R31). -/
def startCommit (s : State) : State :=
  if s.lib.write.isSome then { s with lib := { s.lib with commit := .requested } }
  else waitToTransfer { s with lib := { s.lib with commit := .walking, moved := 0 } }

/-- LIB_COMMIT's effect (R31). -/
def takeLibCommit (p : List Byte) (s : State) : Effect :=
  match libCommitCheck p s with
  | some r => refused s r
  | none => accepted (startCommit { s with lib := { s.lib with hostCrc := BitVec.ofNat 16 (field p 0 2) } })

/-- LIB_COMMIT (R31). -/
def execLibCommit (t : Transfer) (s : State) : Out := takeKind .libCommit t takeLibCommit s

/-- The checks of LIB_ABANDON (R34). -/
def libAbandonCheck (p : List Byte) (s : State) : Option Result :=
  (failIf (decide (p.length ≠ 0)) .badLength).or <|
  (failIf (decide (s.lib.state ≠ .loading)) .notLoading).or <|
  failIf (commitBusy s) .busy

/-- A library without contents, in EMPTY or INVALID, keeping its generation number (R26, R33, R34). -/
def clearedLibrary (state : LibState) (reason : LibReason) (generation : Nat) : Library :=
  { Library.initial with state := state, reason := reason, generation := generation }

/-- LIB_ABANDON's effect (R34): a chunk write in flight is abandoned (R153). -/
def takeLibAbandon (p : List Byte) (s : State) : Effect :=
  match libAbandonCheck p s with
  | some r => refused s r
  | none => accepted (setLibrary (clearedLibrary .empty .none s.lib.generation) (clientAbandon .library s))

/-- LIB_ABANDON (R34). -/
def execLibAbandon (t : Transfer) (s : State) : Out := takeKind .libAbandon t takeLibAbandon s

/-- The library behind its chunk write: the rest of the bytes stored (R29, R30). -/
def endedWrite (lib : Library) : Library := { lib.advance lib.toTransfer with write := none, moved := 0 }

/-- The end of a library chunk write: the rest of its bytes is stored, and a requested commit walk starts (R30, R31). -/
def endLibWrite (s : State) : State :=
  let stored := clientDone .library { s with lib := endedWrite s.lib }
  if s.lib.commit = .requested then startCommit stored else stored

/-- LIB_CHUNK_WRITE_END (R30), behind the write's last bursts (R151, log 7). -/
def execLibChunkWriteEnd (s : State) : Out :=
  match s.lib.write with
  | none => .fault .noLibraryWrite
  | some _ => .next (finish s (endLibWrite (lastBursts .library s)))

/-- The generation number after a commit that ends VALID: 65535 is followed by 1 (R26). -/
def nextGeneration (g : Nat) : Nat := if 65535 ≤ g then 1 else g + 1

/-- The library the commit walk leaves (R33). Where it ends VALID the expected size, the count received and the two
CRCs keep the load's values (log 24). -/
def committedLibrary (lib : Library) : Library :=
  match lib.commitFault with
  | none =>
    { lib with state := .valid, reason := .none, generation := nextGeneration lib.generation,
               imbalances := lib.allImbalances, commit := .none, moved := 0 }
  | some reason => clearedLibrary .invalid reason lib.generation

/-- COMMIT_WALK_END (R33), behind the walk's last bursts (R151, log 7): VALID or INVALID, LIBRARY_DONE, and the change
of state reported. -/
def execCommitWalkEnd (s : State) : Out :=
  if s.lib.commit = .walking then
    .next (finish s (raise .libraryDone
      (setLibrary (committedLibrary s.lib) (clientDone .library (lastBursts .library s)))))
  else .fault .noCommitWalk

end Sys2Proof.Machine
end

