-- ==== Sys2Proof/Machine/PixelWalks.lean ====
section
/-!
DEFINITION. ASSUME, and the initialisation and assume walks (R9, R13, R14).
-/

namespace Sys2Proof.Machine

/-! ### ASSUME (R13) -/

/-- Whether something of R13's step 3 keeps ASSUME out of a rectangle. -/
def assumeBusy (r : Rect) (s : State) : Bool :=
  initialising s || s.adm.walk.isSome || (s.copier.jobs.any fun j => j.running && j.rect.intersects r) || anyOwned s r

/-- The checks of ASSUME in their order (R13). -/
def assumeCheck (p : List Byte) (s : State) : Option Result :=
  (failIf (decide (p.length ≠ 9)) .badLength).or <|
  (rectCheck s.px.geometry (rectField p 0)).or <|
  (failIf (decide (15 < field p 8 1)) .badField).or <|
  failIf (assumeBusy (rectField p 0) s) .busy

/-- The assume walk starts (R14). -/
def startAssume (r : Rect) (level : Level) (s : State) : State :=
  beginWait .initialisation { s with px := { s.px with walk := some (.assume r level 0) } }

/-- ASSUME's effect (R13). -/
def takeAssume (p : List Byte) (s : State) : Effect :=
  match assumeCheck p s with
  | some r => refused s r
  | none => accepted (startAssume (rectField p 0) (BitVec.ofNat 4 (field p 8 1)) s)

/-- ASSUME (R13). -/
def execAssume (t : Transfer) (s : State) : Out := takeKind .assume t takeAssume s

/-! ### The walks (R9, R14) -/

/-- What an assume walk writes to a record: everything but the owner (R14). -/
def assumed (level : Level) (p : PixelRecord) : PixelRecord :=
  { p with shown := level, residue := 0, balance := 0, indeterminate := false }

/-- n positions of an assume walk's rectangle from a position on are written (R14). -/
def assumePixels (r : Rect) (level : Level) (done n : Nat) (s : State) : State :=
  (List.range' done n).foldl
    (fun t i => updatePixel (r.position i).1 (r.position i).2 (assumed level) t) s

/-- The Pixel Store's walk goes forward by n records, or to its end. The initialisation walk's records are there
from its start (log 9). -/
def advancePixelWalk (n : Nat) (s : State) : State :=
  match s.px.walk with
  | none => s
  | some (.initialise done) =>
    { s with px := { s.px with walk := some (.initialise (min (panelRecords s) (done + n))) } }
  | some (.assume r level done) =>
    let count := min n (r.area - done)
    let written := assumePixels r level done count s
    { written with px := { written.px with walk := some (.assume r level (done + count)) } }

/-- A walk of the Pixel Store ends: the table is no longer initialising, and the jobs are judged (R9, R14, R120). -/
def endPixelWalk (s : State) : State :=
  judgeJobs (clientDone .initialisation { s with px := { s.px with walk := none } })

/-- INITIALISATION_WALK_END (R9), behind the walk's last bursts (R151, log 7). -/
def execInitialisationWalkEnd (s : State) : Out :=
  match s.px.walk with
  | some (.initialise _) => .next (finish s (endPixelWalk (lastBursts .initialisation s)))
  | some (.assume _ _ _) => .fault .noInitialisationWalk
  | none => .fault .noInitialisationWalk

/-- ASSUME_WALK_END (R14): the rest of the rectangle is written in the walk's last bursts, and the walk ends (R151,
log 7). -/
def execAssumeWalkEnd (s : State) : Out :=
  match s.px.walk with
  | some (.assume r _ _) => .next (finish s (endPixelWalk (advancePixelWalk r.area (lastBursts .initialisation s))))
  | some (.initialise _) => .fault .noAssumeWalk
  | none => .fault .noAssumeWalk

end Sys2Proof.Machine
end

