-- ==== Sys2Proof/Machine/MemoryEvents.lean ====
section
/-!
DEFINITION. REFRESH_REQUEST, REFRESH_END, BURST_END and CALIBRATION_END (R151 to R155).
-/

namespace Sys2Proof.Machine

/-! ### Refresh and calibration (R154, R155) -/

/-- A refresh request: served at once by an idle frame memory, else counted into the debt, which stops at 8; the
timer runs on for the next request (R154, R155). -/
def requestRefresh (m : FrameMemory) : FrameMemory :=
  let restarted := { m with refreshTimer := Config.refreshPeriodNs }
  if m.calibrating || m.granted.isSome then { restarted with debt := min Config.maxDebt (m.debt + 1) }
  else { restarted with granted := some .refresh }

/-- REFRESH_REQUEST (R154). -/
def execRefreshRequest (ready : List Requester) (s : State) : Out :=
  let waited := becomeReady ready s
  .next (finish s { waited with mem := requestRefresh waited.mem })

/-- What was granted is over. -/
def endGrant (s : State) : State := { s with mem := { s.mem with granted := none } }

/-- REFRESH_END (R154). -/
def execRefreshEnd (ready : List Requester) (s : State) : Out :=
  let waited := becomeReady ready s
  match waited.mem.granted with
  | some .refresh => .next (finish s (endGrant waited))
  | some (.burst _ _) => .fault .noRefresh
  | none => .fault .noRefresh

/-- CALIBRATION_END (R155). -/
def execCalibrationEnd (s : State) : Out :=
  if s.mem.calibrating then .next (finish s { s with mem := { s.mem with calibrating := false } })
  else .fault .noCalibration

/-! ### Bursts (R151) -/

/-- The admission walk reads n pixels more (R84 to R86). -/
def advanceAdmission (n : Nat) (s : State) : State :=
  match s.adm.walk with
  | none => s
  | some w =>
    match findAge s w.age with
    | none => s
    | some r => { s with adm := { s.adm with walk := some (advanceWalk s r n w) } }

/-- What a burst of a client does for its operation: the row of the scan that begins, pixels of a walk or a snapshot,
bytes of a chunk write or of the commit walk; `units` is how many, at most what a burst of 64 bytes and 0.1 µs has room
for (R151, log 6). -/
def serveBurst (who : Requester) (units : Nat) (s : State) : State :=
  let n := min units (burstUnits who)
  match who with
  | .scanner => advanceScan n s
  | .retirement l => advanceRetire l n s
  | .admission => advanceAdmission n s
  | .initialisation => advancePixelWalk n s
  | .inflow => advanceChunk n s
  | .copier => advanceCopy n s
  | .library => { s with lib := s.lib.advance n }

/-- A burst in progress has moved its units; a client with nothing left to move has no transfer to wait for (R151). -/
def finishBurst (who : Requester) (units : Nat) (s : State) : State :=
  let served := serveBurst who units s
  if restOf served who = 0 then clientDone who served else served

/-- BURST_END (R151): the burst has moved its units, and the next grant is decided. What the last burst of an
abandoned operation moves is left out (R153, log 32). -/
def execBurstEnd (units : Nat) (ready : List Requester) (s : State) : Out :=
  let waited := becomeReady ready s
  match waited.mem.granted with
  | some (.burst who live) => .next (finish s (endGrant (if live then finishBurst who units waited else waited)))
  | some .refresh => .fault .noBurst
  | none => .fault .noBurst

end Sys2Proof.Machine
end

