-- ==== Sys2Proof/Machine/NoticeUnit.lean ====
section
/-!
DEFINITION. NOTICE_SET, NOTICE_TAKE and READ_LOG (R174, R175, R177).
-/

namespace Sys2Proof.Machine

/-- The checks of NOTICE_SET (R174). -/
def noticeSetCheck (p : List Byte) : Option Result :=
  (failIf (decide (p.length ≠ 7)) .badLength).or (failIf (noticeFieldsBad p) .badField)

/-- NOTICE_SET's effect: all masks and priorities at once (R174). -/
def takeNoticeSet (p : List Byte) (s : State) : Effect :=
  match noticeSetCheck p with
  | some r => refused s r
  | none =>
    accepted { s with notices := { s.notices with
      masks := BitVec.ofNat 6 (field p 0 1), priorities := noticePriorities p } }

/-- NOTICE_SET (R174). -/
def execNoticeSet (t : Transfer) (s : State) : Out := takeKind .noticeSet t takeNoticeSet s

/-- A returned source's flag is cleared; COMPLETION has none to clear (R175). -/
def clearTaken (choice : Option NoticeSource) (s : State) : State :=
  match choice with
  | none => s
  | some .completion => s
  | some src => { s with notices := { s.notices with flags := s.notices.flags &&& ~~~ src.mask } }

/-- The byte NOTICE_TAKE returns: the source number, 0xFF for none (R175). -/
def choiceCode : Option NoticeSource → Nat
  | none => 0xFF
  | some src => src.number

/-- NOTICE_TAKE's effect (R175). -/
def takeNoticeTake (p : List Byte) (s : State) : Effect :=
  match failIf (decide (p.length ≠ 0)) .badLength with
  | some r => refused s r
  | none => (clearTaken s.notices.choice s, .ok, fun _ => leBytes 1 (choiceCode s.notices.choice))

/-- NOTICE_TAKE (R175). -/
def execNoticeTake (t : Transfer) (s : State) : Out := takeKind .noticeTake t takeNoticeTake s

/-- The thirteen bytes of a completion record (R176). -/
def CompletionRecord.bytes (c : CompletionRecord) : List Byte :=
  leBytes 2 c.tag ++ leBytes 1 c.outcome.code ++ leBytes 1 c.requestedMode.selector ++ leBytes 1 c.modeUsed.selector
    ++ leBytes 1 (upgradeCode c.upgradeReason) ++ leBytes 1 (bandCode c.band) ++ leBytes 1 c.partsUsed
    ++ leBytes 4 c.pixelsDriven ++ leBytes 1 c.largestFrames

/-- The checks of READ_LOG (R177). -/
def readLogCheck (p : List Byte) : Option Result :=
  (failIf (decide (p.length ≠ 1)) .badLength).or
    (failIf (decide (field p 0 1 = 0) || decide (32 < field p 0 1)) .badField)

/-- READ_LOG's effect (R177): the oldest records leave the log, the places freed are offered to the line, and the
reply carries the records removed. -/
def takeReadLog (p : List Byte) (s : State) : Effect :=
  match readLogCheck p with
  | some r => refused s r
  | none =>
    let removed := s.notices.log.take (field p 0 1)
    (offerRecords { s with notices := { s.notices with log := s.notices.log.drop (field p 0 1) } }, .ok,
      fun _ => leBytes 1 removed.length ++ removed.flatMap CompletionRecord.bytes)

/-- READ_LOG (R177). -/
def execReadLog (t : Transfer) (s : State) : Out := takeKind .readLog t takeReadLog s

end Sys2Proof.Machine
end

