-- ==== Sys2Proof/Machine/RailsUnit.lean ====
section
/-!
DEFINITION. RAILS in its two rows, the power-good sample, and the rails' timers (R136 to R143).
-/

namespace Sys2Proof.Machine

/-- The checks of RAILS (R142). -/
def railsCheck (p : List Byte) : Option Result :=
  (failIf (decide (p.length ≠ 1)) .badLength).or (failIf (decide (1 < field p 0 1)) .badField)

/-- The rail state after the command, which every RAILS reply carries (R141). -/
def railBody (s : State) : List Byte := leBytes 1 s.rails.state.code

/-- RAILS OFF (R142): accepted in ON without demand, refused with BUSY otherwise. -/
def railsOffEffect (s : State) : Effect :=
  if s.rails.state = .on ∧ demand s = false then (fallRails s, .ok, railBody) else (s, .busy, railBody)

/-- A fault ends: the state becomes OFF (R143); what follows with demand present is in `syncPower`. -/
def clearFault (s : State) : State :=
  if s.rails.state = .fault then { s with rails := { s.rails with state := .off } } else s

/-- RAILS CLEAR_FAULT (R143): accepted in every state, with an effect in FAULT. -/
def clearFaultEffect (s : State) : Effect := (clearFault s, .ok, railBody)

/-- RAILS by its action byte (R141, R142). -/
def takeRails (p : List Byte) (s : State) : Effect :=
  match railsCheck p with
  | some r => (s, r, railBody)
  | none => if field p 0 1 = 0 then railsOffEffect s else clearFaultEffect s

/-- RAILS_OFF: RAILS in every form but action 1 (R142, log 4). -/
def execRailsOff (t : Transfer) (s : State) : Out :=
  takeCommand .rails t (fun p => decide (p ≠ [1])) takeRails id s

/-- RAILS_CLEAR_FAULT: RAILS in every form but action 0 (R143, log 4). -/
def execRailsClearFault (t : Transfer) (s : State) : Out :=
  takeCommand .rails t (fun p => decide (p ≠ [0])) takeRails id s

/-- The two-sample filter (R136): a sample equal to the last one is accepted. -/
def filterSample (high : Bool) (r : Rails) : Rails :=
  { r with accepted := if high = r.lastSample then high else r.accepted, lastSample := high }

/-- RISING reaches ON: the rise timer is stopped (R137). -/
def reachOn (s : State) : State := { s with rails := { s.rails with state := .on, riseTimer := none } }

/-- What the controller does at a sample event (R136, R137, R140): in RISING with a high accepted level, ON; in ON
when the accepted level falls, a rail fault. -/
def takeSample (high : Bool) (s : State) : State :=
  let sampled := { s with rails := filterSample high s.rails }
  if s.rails.state = .rising ∧ sampled.rails.accepted = true then reachOn sampled
  else if s.rails.state = .on ∧ s.rails.accepted = true ∧ sampled.rails.accepted = false then railFault sampled
  else sampled

/-- POWER_GOOD_SAMPLE (R136). -/
def execPowerGoodSample (high : Bool) (s : State) : Out := .next (finish s (takeSample high s))

/-- RISE_TIMEOUT (R137, R140). -/
def execRiseTimeout (s : State) : Out :=
  if s.rails.state = .rising ∧ s.rails.riseTimer.isSome = true then .next (finish s (railFault s))
  else .fault .riseTimerStopped

/-- IDLE_TIMER_EXPIRY (R138, R139). -/
def execIdleTimerExpiry (s : State) : Out :=
  if s.rails.state = .on ∧ s.rails.idleTimer.isSome = true then .next (finish s (fallRails s))
  else .fault .idleTimerStopped

/-- FALL_TIME_END (R139): OFF, and on to RISING at the same event with demand present. -/
def execFallTimeEnd (s : State) : Out :=
  if s.rails.state = .falling ∧ s.rails.fallTime.isSome = true then
    .next (finish s { s with rails := { s.rails with state := .off, fallTime := none } })
  else .fault .noFallTime

end Sys2Proof.Machine
end

