-- ==== Sys2Proof/Machine/Resets.lean ====
section
/-!
DEFINITION. CONFIGURE, RESTART, POWER_ON, RESET_PIN and RESET_RELEASE (R8, R165, R166, R169, R170).
-/

namespace Sys2Proof.Machine

/-! ### Emptying the copier (R134) -/

/-- The pages the unit gives back when it is emptied: those of every overlay entry, and those of a RUNNING job
whose entry a push had discarded (R62, R130, log 15). -/
def copierPages (c : Copier) : List Nat :=
  (c.overlays.flatMap fun o => o.pages)
    ++ (c.jobs.filter fun j =>
        match j.purpose with
        | .copy _ => false
        | .push | .swap => !c.overlays.any fun o => decide (o.capturing = some j.age)).flatMap fun j => j.pages

/-- Every job and every overlay entry is removed, without a notice (R134). -/
def emptyCopier (s : State) : State :=
  clientAbandon .copier (returnPages (copierPages s.copier) { s with copier := Copier.initial })

/-! ### CONFIGURE (R164 to R166) -/

/-- What keeps CONFIGURE out (R165, step 4). -/
def configureBusy (s : State) : Bool :=
  !s.req.table.isEmpty || !allFree s || decide (s.lib.state = .loading) || s.scan.frame.isSome

/-- The checks of CONFIGURE in their order (R165). -/
def configureCheck (p : List Byte) (s : State) : Option Result :=
  (failIf (decide (p.length ≠ 25)) .badLength).or <|
  (failIf s.mem.calibrating .busy).or <|
  (failIf (!configFieldsOk p) .badField).or <|
  failIf (configureBusy s) .busy

/-- A new geometry (R8, R9, R134): an empty tile map, a new table whose initialisation walk starts, any walk in
flight abandoned, and the copier emptied. -/
def newTable (g : Geometry) (s : State) : State :=
  beginWait .initialisation
    (clientAbandon .initialisation
      (emptyCopier { s with px := { geometry := some g, pixels := [], tiles := [], walk := some (.initialise 0) } }))

/-- The settings take their new values: a changed watermark disarms the refill latch, a changed interval reloads the
interval timer (R71, R149, R166). -/
def applySettings (c : Settings) (s : State) : State :=
  { s with
    settings := c
    inflow := { s.inflow with
      latch := if c.highWatermark = s.settings.highWatermark ∧ c.lowWatermark = s.settings.lowWatermark then
        s.inflow.latch else false }
    temp := { s.temp with
      timer := if c.tempInterval = s.settings.tempInterval then s.temp.timer else c.tempInterval } }

/-- The geometry takes effect where it differs from the one in force (R8). -/
def applyGeometry (g : Geometry) (s : State) : State :=
  if s.px.geometry = some g then s else newTable g s

/-- CONFIGURE's effect (R165, R166). -/
def takeConfigure (p : List Byte) (s : State) : Effect :=
  match configureCheck p s with
  | some r => refused s r
  | none => accepted (applyGeometry (configGeometry p) (applySettings (configSettings p) s))

/-- CONFIGURE (R165). -/
def execConfigure (t : Transfer) (s : State) : Out := takeKind .configure t takeConfigure s

/-! ### RESTART (R59, R77, R98, R116, R134, R144, R169, R179) -/

/-- A lane at a RESTART: aborted if ACTIVE, released with ABORTED if ARMED, else left (R116). -/
def restartLane (s : State) (l : LaneId) : State := releaseLane .aborted (abortLane .restarted s l) l

/-- The lanes at a RESTART, and freeze off (R116). -/
def restartLanes (s : State) : State :=
  { allLanes.foldl restartLane s with scan := { s.scan with freeze := false } }

/-- A lane of the tag is in a COMPLETE walk, which reads the request's pages (R59). -/
def completing (s : State) (tag : Nat) : Bool :=
  anyLane s tag fun st => match st with | .retiring .complete _ => true | .retiring _ _ | .armed | .active => false

/-- Whether a request stays in the table at a RESTART: it has a lane, or its entry is ADMITTING (R59). -/
def staysWithdrawn (s : State) (r : Request) : Bool := isAdmitting s r.age || anyLane s r.tag fun _ => true

/-- The pages a RESTART takes back from a request (R59). -/
def restartPages (s : State) (r : Request) : List Nat := if completing s r.tag then [] else r.pages.getD []

/-- The part whose WAITING entry a RESTART removes finishes, with ABORTED (R42, R43, log 34). -/
def dropWaitingPart (s : State) (r : Request) : Request :=
  match entryOf s r.age with
  | some e => if e.admitting then r else r.withPartFinished .aborted
  | none => r

/-- A request that stays: withdrawn, without tally, its pages kept only for a COMPLETE walk, the part of its WAITING
entry finished (R42, R59, R77). -/
def withdrawnRequest (s : State) (r : Request) : Request :=
  { dropWaitingPart s r with
    withdrawn := true, tally := none, pages := if completing s r.tag then r.pages else none }

/-- The requests at a RESTART: the queue keeps only an ADMITTING entry, the line is emptied, requests leave or are
withdrawn, and pages return (R59). -/
def restartRequests (s : State) : State :=
  returnPages (s.req.table.flatMap (restartPages s))
    { s with req := { s.req with
        table := (s.req.table.filter (staysWithdrawn s)).map (withdrawnRequest s)
        queue := s.req.queue.filter fun e => e.admitting
        line := [] } }

/-- The Inflow Unit at a RESTART (R77). -/
def restartInflow (s : State) : State := clientAbandon .inflow { s with inflow := Inflow.initial }

/-- The Admission Unit at a RESTART (R83, R98): a pass that is running ends after its walk. -/
def restartAdmission (s : State) : State :=
  { s with adm := { s.adm with passWanted := false, holdReported := false, passCut := s.adm.passRunning } }

/-- The rails at a RESTART (R144). -/
def restartRails (s : State) : State :=
  if s.rails.state = .on ∨ s.rails.state = .rising then fallRails s else s

/-- What the Link Port does at a RESTART: counters, flags and log are cleared (R169). -/
def restartLink (s : State) : State :=
  { s with counters := Counters.zero, notices := { s.notices with flags := 0, log := [] } }

/-- An accepted RESTART (R169). -/
def restart (s : State) : State :=
  restartLink (restartRails (restartAdmission (emptyCopier (restartInflow (restartRequests (restartLanes s))))))

/-- RESTART's effect (R169). -/
def takeRestart (p : List Byte) (s : State) : Effect :=
  match failIf (decide (p.length ≠ 0)) .badLength with
  | some r => refused s r
  | none => accepted (restart s)

/-- RESTART (R169). -/
def execRestart (t : Transfer) (s : State) : Out := takeKind .restart t takeRestart s

/-! ### Power-on and the RESET pin (R155, R170) -/

/-- POWER_ON (R170): every block in its initial state, no transaction in progress and RESET not held (log 17). -/
def execPowerOn (s : State) : Out :=
  .next (State.initial { slot := none, transaction := none, resetHeld := false } (s.mem.epoch + 1) s.pending)

/-- RESET_PIN (R170): every block in its initial state while RESET is held; a transaction whose falling edge came
before is ignored. -/
def execResetPin (s : State) : Out :=
  .next (State.initial
    { slot := none, transaction := s.link.transaction.map fun _ => Transaction.ignored, resetHeld := true }
    (s.mem.epoch + 1) s.pending)

/-- RESET_RELEASE (R170). -/
def execResetRelease (s : State) : Out :=
  if s.link.resetHeld then .next { s with link := { s.link with resetHeld := false } } else .fault .resetNotHeld

end Sys2Proof.Machine
end

