-- ==== Sys2Proof/Machine/Thermal.lean ====
section
/-!
DEFINITION. TEMP and INTERVAL_TIMER_EXPIRY (R146, R147).
-/

namespace Sys2Proof.Machine

/-- The checks of TEMP (R146). -/
def tempCheck (p : List Byte) : Option Result :=
  (failIf (decide (p.length ≠ 2)) .badLength).or
    (failIf (decide (fieldSigned p 0 < -400) || decide (1000 < fieldSigned p 0)) .badField)

/-- The trigger "a change of band": an accepted TEMP that changes the band while the state stays VALID (R80). -/
def bandTrigger (before s : State) : State :=
  if before.temp.state = .valid ∧ s.temp.state = .valid ∧ s.temp.band ≠ before.temp.band then wantPass s else s

/-- A reading taken (R146): reading, counter, interval timer, then band and state. -/
def takeReading (v : Int) (s : State) : State :=
  bandTrigger s (recomputeTemp
    { s with temp := { s.temp with reading := some v, staleness := 0, timer := s.settings.tempInterval } })

/-- The two bytes of the TEMP reply: temperature state and band (R146). -/
def tempBody (s : State) : List Byte := leBytes 1 s.temp.state.code ++ leBytes 1 (bandCode s.temp.band)

/-- TEMP's effect (R146). -/
def takeTemp (p : List Byte) (s : State) : Effect :=
  match tempCheck p with
  | some r => refused s r
  | none => (takeReading (fieldSigned p 0) s, .ok, tempBody)

/-- TEMP (R146). -/
def execTemp (t : Transfer) (s : State) : Out := takeKind .temp t takeTemp s

/-- An expiry of the interval timer (R147): the timer is reloaded; with a reading, the counter goes up to 3, and at
3 the state becomes STALE and TEMP_STALE is raised. -/
def expireInterval (s : State) : State :=
  let reloaded := { s with temp := { s.temp with timer := s.settings.tempInterval } }
  if s.temp.reading.isNone ∨ 3 ≤ s.temp.staleness then reloaded
  else
    let counted := recomputeTemp { reloaded with temp := { reloaded.temp with staleness := s.temp.staleness + 1 } }
    if s.temp.staleness + 1 = 3 then raise .tempStale counted else counted

/-- INTERVAL_TIMER_EXPIRY (R147). -/
def execIntervalTimerExpiry (s : State) : Out := .next (finish s (expireInterval s))

end Sys2Proof.Machine
end

