-- ==== Sys2Proof/Machine/Dispatch.lean ====
section
/-!
DEFINITION. Which meaning each command has: one arm for each constructor of Instr.
-/

namespace Sys2Proof.Machine

def exec (i : Instr) (s : State) : Host.Outcome State Fault Refusal :=
  match i with
  | .powerOn => Sys2Proof.Machine.execPowerOn s
  | .resetPin => Sys2Proof.Machine.execResetPin s
  | .transactionStart => Sys2Proof.Machine.execTransactionStart s
  | .poll t => Sys2Proof.Machine.execPoll t s
  | .linkFailure t => Sys2Proof.Machine.execLinkFailure t s
  | .ident t => Sys2Proof.Machine.execIdent t s
  | .status t => Sys2Proof.Machine.execStatus t s
  | .countersRead t => Sys2Proof.Machine.execCountersRead t s
  | .countersReadAndClear t => Sys2Proof.Machine.execCountersReadAndClear t s
  | .configure t => Sys2Proof.Machine.execConfigure t s
  | .restart t => Sys2Proof.Machine.execRestart t s
  | .noticeSet t => Sys2Proof.Machine.execNoticeSet t s
  | .noticeTake t => Sys2Proof.Machine.execNoticeTake t s
  | .readLog t => Sys2Proof.Machine.execReadLog t s
  | .libBegin t => Sys2Proof.Machine.execLibBegin t s
  | .libData t => Sys2Proof.Machine.execLibData t s
  | .libCommit t => Sys2Proof.Machine.execLibCommit t s
  | .libAbandon t => Sys2Proof.Machine.execLibAbandon t s
  | .temp t => Sys2Proof.Machine.execTemp t s
  | .railsOff t => Sys2Proof.Machine.execRailsOff t s
  | .railsClearFault t => Sys2Proof.Machine.execRailsClearFault t s
  | .postUpdate t => Sys2Proof.Machine.execPostUpdate t s
  | .pixels t => Sys2Proof.Machine.execPixels t s
  | .cancel t => Sys2Proof.Machine.execCancel t s
  | .clearDiscard t => Sys2Proof.Machine.execClearDiscard t s
  | .postCopy t => Sys2Proof.Machine.execPostCopy t s
  | .overlayPush t => Sys2Proof.Machine.execOverlayPush t s
  | .overlayPop t => Sys2Proof.Machine.execOverlayPop t s
  | .overlaySwap t => Sys2Proof.Machine.execOverlaySwap t s
  | .freeze t => Sys2Proof.Machine.execFreeze t s
  | .thaw t => Sys2Proof.Machine.execThaw t s
  | .assume t => Sys2Proof.Machine.execAssume t s
  | .initialisationWalkEnd => Sys2Proof.Machine.execInitialisationWalkEnd s
  | .assumeWalkEnd => Sys2Proof.Machine.execAssumeWalkEnd s
  | .libChunkWriteEnd => Sys2Proof.Machine.execLibChunkWriteEnd s
  | .commitWalkEnd => Sys2Proof.Machine.execCommitWalkEnd s
  | .inflowChunkWriteEnd => Sys2Proof.Machine.execInflowChunkWriteEnd s
  | .admissionWalkEnd => Sys2Proof.Machine.execAdmissionWalkEnd s
  | .frameStart => Sys2Proof.Machine.execFrameStart s
  | .frameCompletion => Sys2Proof.Machine.execFrameCompletion s
  | .retirementWalkEnd lane => Sys2Proof.Machine.execRetirementWalkEnd lane s
  | .copierJobEnd => Sys2Proof.Machine.execCopierJobEnd s
  | .powerGoodSample high => Sys2Proof.Machine.execPowerGoodSample high s
  | .riseTimeout => Sys2Proof.Machine.execRiseTimeout s
  | .idleTimerExpiry => Sys2Proof.Machine.execIdleTimerExpiry s
  | .fallTimeEnd => Sys2Proof.Machine.execFallTimeEnd s
  | .intervalTimerExpiry => Sys2Proof.Machine.execIntervalTimerExpiry s
  | .refreshRequest ready => Sys2Proof.Machine.execRefreshRequest ready s
  | .refreshEnd ready => Sys2Proof.Machine.execRefreshEnd ready s
  | .burstEnd units ready => Sys2Proof.Machine.execBurstEnd units ready s
  | .calibrationEnd => Sys2Proof.Machine.execCalibrationEnd s
  | .resetRelease => Sys2Proof.Machine.execResetRelease s

end Sys2Proof.Machine
end

