-- ==== Sys2Proof/Safety.lean ====
section
/-!
DEFINITION. What counts as a sound state of the part, in the terms the claims use: the laws the manual states of every state,
what an event leaves behind, the checks of the commands, and which commands may write which part of the state.
-/

namespace Sys2Proof.Safety

open Sys2Proof.Machine

/-! ### Laws of a state -/

/-- The eleven sources that have a flag, each with the number of its group (R171). -/
def flaggedSources : List (Nat × Nat) :=
  [(1, 1), (2, 1), (3, 2), (4, 2), (5, 3), (6, 3), (7, 4), (8, 4), (9, 4), (10, 5), (11, 5)]

/-- ATTN is asserted exactly when at least one pending source lies in an unmasked group (R173): COMPLETION, of G0, is pending
while the log holds a record, any other source while its flag is set (R171, R172). -/
def attnLaw (s : State) : Prop :=
  s.notices.attn = true ↔
    s.notices.log ≠ [] ∧ s.notices.masks.getLsbD 0 = false
      ∨ ∃ e ∈ flaggedSources, s.notices.flags.getLsbD e.1 = true ∧ s.notices.masks.getLsbD e.2 = false

/-- The enable line is asserted in RISING and ON and released otherwise (R135). -/
def enableLaw (s : State) : Prop := s.rails.enable = true ↔ s.rails.state = .rising ∨ s.rails.state = .on

/-- The rise timer runs in RISING, the idle timer in ON without demand, the fall time in FALLING (R137 to R139). -/
def railTimersLaw (s : State) : Prop :=
  (s.rails.riseTimer.isSome = true ↔ s.rails.state = .rising)
    ∧ (s.rails.idleTimer.isSome = true ↔ s.rails.state = .on ∧ demand s = false)
    ∧ (s.rails.fallTime.isSome = true ↔ s.rails.state = .falling)

/-- The frame timer runs while the rail state is ON and a lane is ARMED or ACTIVE (R102). -/
def frameTimerLaw (s : State) : Prop := s.scan.timer.isSome = true ↔ s.rails.state = .on ∧ demand s = true

/-- A lane is ACTIVE only while the rails are ON (R100). -/
def activeLaw (s : State) : Prop := ∀ l ln, laneAt s l = some ln → ln.state = .active → s.rails.state = .on

/-- The rails, their timers and the frame timer stand as the lanes ask, and no lane is ACTIVE without the rails
(R100, R102, R135, R137 to R139). -/
def powerLaw (s : State) : Prop := enableLaw s ∧ railTimersLaw s ∧ frameTimerLaw s ∧ activeLaw s

/-- The capacities: request table, inflow buffer, job list, overlay stack, completion log, refresh debt, and the 16 bits of
the generation number (R26, R37, R67, R119, R128, R154). -/
def capacityLaw (s : State) : Prop :=
  s.req.table.length ≤ Config.requestRecords ∧ s.copier.jobs.length ≤ Config.copierJobs
    ∧ s.copier.overlays.length ≤ Config.overlayEntries ∧ s.notices.log.length ≤ Config.logRecords
    ∧ s.mem.debt ≤ Config.maxDebt ∧ fillLevel s ≤ Config.inflowBytes ∧ s.lib.generation ≤ 65535

/-- Residue lies in 0 to 15 and balance in -127 to +127 in every pixel record (R4). -/
def pixelLaw (s : State) : Prop :=
  ∀ e ∈ s.px.pixels, e.2.residue ≤ 15 ∧ -127 ≤ e.2.balance ∧ e.2.balance ≤ 127

/-- The staging memory and the pixel table are in their canonical forms. -/
def storeLaw (s : State) : Prop := Memory.wf s.pool.bytes = true ∧ pixelsWf s.px.pixels = true

/-- The free page list holds its pages in rising order, none twice (R60). -/
def freePagesLaw (s : State) : Prop := s.pool.free.Pairwise fun a b => a < b

/-- Every counter is a 32-bit number (R168). -/
def counterLaw (s : State) : Prop :=
  s.counters.framesScanned ≤ Config.counterMax ∧ s.counters.lanesArmed ≤ Config.counterMax
    ∧ s.counters.upgrades ≤ Config.counterMax ∧ s.counters.ghostRefusals ≤ Config.counterMax
    ∧ s.counters.starvations ≤ Config.counterMax ∧ s.counters.aborts ≤ Config.counterMax
    ∧ s.counters.frameErrors ≤ Config.counterMax ∧ s.counters.inflowRefusals ≤ Config.counterMax

/-- Band and temperature state are those of the last reading, the staleness counter and the library, and the counter
is at most 3 (R145). -/
def temperatureLaw (s : State) : Prop :=
  s.temp.band = s.temp.reading.bind s.lib.lookupBand
    ∧ s.temp.state = tempStateOf s.temp.reading s.temp.staleness s.temp.band ∧ s.temp.staleness ≤ 3

/-- The bounds of the bands are strictly ascending (R19). -/
def boundsLaw (s : State) : Prop := s.lib.bounds.Pairwise fun a b => a < b

/-- While the library is LOADING, every lane is FREE and the request table is empty (R35). -/
def loadingLaw (s : State) : Prop :=
  s.lib.state = .loading → s.req.table = [] ∧ ∀ l, laneAt s l = none

/-- The settings lie within the values of the CONFIGURE field table (R164). -/
def settingsLaw (s : State) : Prop :=
  500 ≤ s.settings.framePeriod ∧ s.settings.framePeriod ≤ 4000
    ∧ 1 ≤ s.settings.residueLimit ∧ s.settings.residueLimit ≤ 15
    ∧ 1 ≤ s.settings.balanceLimit ∧ s.settings.balanceLimit ≤ 127
    ∧ s.settings.earlyThreshold ≤ 15
    ∧ s.settings.highWatermark ≤ Config.inflowBytes
    ∧ 1 ≤ s.settings.lowWatermark ∧ s.settings.lowWatermark < s.settings.highWatermark
    ∧ s.settings.holdTime ≤ 10000 ∧ 10 ≤ s.settings.riseTimeout ∧ s.settings.riseTimeout ≤ 500
    ∧ 1 ≤ s.settings.tempInterval ∧ s.settings.tempInterval ≤ 60

/-! ### Requests, lanes and owners -/

/-- The live requests: in the order of their creation, with tags of their own, at most 8 parts, and a rectangle that
lies in the panel; one in REPORTING has finished every part, and a withdrawn one is not in REPORTING (R7, R37, R39, R41,
R56). -/
def requestLaw (s : State) : Prop :=
  (s.req.table.Pairwise fun a b => a.age < b.age) ∧ (s.req.table.Pairwise fun a b => a.tag ≠ b.tag)
    ∧ ∀ r ∈ s.req.table,
      r.age < s.req.nextAge ∧ r.partsUsed ≤ Config.partsPerRequest ∧ rectCheck s.px.geometry r.rect = none
        ∧ (r.state = .reporting → r.partsFinished = r.partsUsed ∧ r.withdrawn = false)

/-- The admission queue: in the order of its requests, so none has two entries and there are no more of them than requests;
each entry's request is live, OPEN or RUNNING; an entry is ADMITTING exactly while its walk is in flight, as is every entry of
a withdrawn request (R41, R59, R84). -/
def queueLaw (s : State) : Prop :=
  (s.req.queue.Pairwise fun a b => a.age < b.age) ∧ s.req.queue.length ≤ s.req.table.length
    ∧ ∀ e ∈ s.req.queue,
      (∃ r ∈ s.req.table, r.age = e.age ∧ r.state ≠ .reporting ∧ (r.withdrawn = true → e.admitting = true))
        ∧ (e.admitting = true ↔ ∃ w, s.adm.walk = some w ∧ w.age = e.age)

/-- Every lane that is not FREE belongs to a live request with its tag, and has its rectangle (R37, R94). -/
def laneLaw (s : State) : Prop :=
  ∀ l ln, laneAt s l = some ln → ∃ r ∈ s.req.table, r.tag = ln.tag ∧ r.rect = ln.rect

/-- Every part of a request is its queue entry, or a lane that carries its tag, or has finished (R43). -/
def partsLaw (s : State) : Prop :=
  ∀ r ∈ s.req.table,
    r.partsUsed = r.partsFinished + (s.req.queue.filter fun e => decide (e.age = r.age)).length
      + (allLanes.filter (laneOf s r.tag fun _ => true)).length

/-- The line of REPORTING requests holds live requests in REPORTING, none twice (R56, R57). -/
def lineLaw (s : State) : Prop :=
  (s.req.line.map fun h => h.age).Nodup
    ∧ ∀ h ∈ s.req.line, ∃ r ∈ s.req.table, r.age = h.age ∧ r.state = .reporting

/-- What an admission walk read stays true until its end (R3, R96): a pixel read free has no owner, and has not become
indeterminate since; one read as a foreign lane's lies in a tile read as blocked (R11). -/
def readingLaw (s : State) (rect : Rect) (i : Nat) (x : Reading) : Prop :=
  (x.ownership = .free →
      (pixelAt s (rect.position i).1 (rect.position i).2).owner = none
        ∧ ((pixelAt s (rect.position i).1 (rect.position i).2).indeterminate = true → x.indeterminate = true))
    ∧ (x.ownership = .foreign → x.tileForeign = true)

/-- A pass is running exactly while a walk is in flight; the walk is of a queue entry of a live request and has read no
more than its rectangle (R81, R84). -/
def walkLaw (s : State) : Prop :=
  s.adm.passRunning = s.adm.walk.isSome
    ∧ ∀ w, s.adm.walk = some w →
      (∃ e ∈ s.req.queue, e.age = w.age)
        ∧ ∀ r ∈ s.req.table, r.age = w.age →
          w.readings.length ≤ r.rect.area ∧ ∀ i x, w.readings[i]? = some x → readingLaw s r.rect i x

/-- An owner is a lane that is not FREE, whose rectangle contains the pixel, whose tile entry names it and whose walk, if
it is RETIRING, has not reached the pixel; no indeterminate pixel is owned by a lane in SETTLE, QUICK or STROKE (R3, R5,
R11, R110). -/
def ownerLaw (s : State) : Prop :=
  ∀ x y l, x < panelWidth s → (pixelAt s x y).owner = some l →
    l ∈ tileLanes s (tileOf s x y)
      ∧ ∃ ln, laneAt s l = some ln ∧ ln.rect.contains x y = true
        ∧ (∀ kind done, ln.state = .retiring kind done → done ≤ (y - ln.rect.row) * ln.rect.width + (x - ln.rect.col))
        ∧ ((pixelAt s x y).indeterminate = true → ln.mode = .blank ∨ ln.mode = .clear)

/-- The rectangle of every overlay entry, and that of an assume walk, lies in the panel (R13, R128, R134). -/
def rectLaw (s : State) : Prop :=
  (∀ o ∈ s.copier.overlays, rectCheck s.px.geometry o.rect = none)
    ∧ ∀ r level done, s.px.walk = some (.assume r level done) → rectCheck s.px.geometry r = none ∧ done ≤ r.area

/-- Requests, queue, parts, lanes, line, walk and owners agree, over stores in canonical form. -/
def ownershipLaw (s : State) : Prop :=
  storeLaw s ∧ requestLaw s ∧ queueLaw s ∧ laneLaw s ∧ partsLaw s ∧ lineLaw s ∧ walkLaw s ∧ ownerLaw s ∧ rectLaw s

/-- No lane belongs to a request posted later than the request of a queue entry whose rectangle intersects the lane's; nor is
the request of the walk in flight, which may get one, posted later (R82). -/
def orderLaw (s : State) : Prop :=
  ∀ e ∈ s.req.queue, ∀ q ∈ s.req.table, q.age = e.age → ∀ r ∈ s.req.table,
    (∀ l ln, laneAt s l = some ln → r.tag = ln.tag → q.rect.intersects ln.rect = true → r.age ≤ q.age)
      ∧ ∀ w, s.adm.walk = some w → r.age = w.age → q.rect.intersects r.rect = true → r.age ≤ q.age

/-- Every row of a lane's request has been written (R40, R103). -/
def allRowsWritten (s : State) (ln : Lane) : Prop :=
  ∃ r ∈ s.req.table, r.tag = ln.tag ∧ r.rowsWritten = r.rect.height

/-- An ACTIVE lane at or beyond its lead count has a request with all its rows written (R103). So has an ARMED or ACTIVE lane
that is not early, an early ARMED one has leads, and a walk that found its data ready is of such a request: what keeps the law
of R103 through admission and frame completions (R93 to R95, R105). -/
def startLaw (s : State) : Prop :=
  (∀ l ln, laneAt s l = some ln →
      (ln.state = .active → ln.leads ≤ ln.index → allRowsWritten s ln)
        ∧ (ln.state = .armed ∨ ln.state = .active → ln.early = false → allRowsWritten s ln)
        ∧ (ln.state = .armed → ln.early = true → 0 < ln.leads))
    ∧ ∀ w, s.adm.walk = some w → w.dataReady = true → ∀ r ∈ s.req.table, r.age = w.age → r.rowsWritten = r.rect.height

/-! ### Rows, jobs and pages -/

/-- The rows of a request that stand in its chunks in the buffer, the one whose write is in flight among them (R64, R67). -/
def rowsBuffered (s : State) (age : Nat) : Nat :=
  ((s.inflow.buffer.filter fun c => decide (c.age = age)).map fun c => c.rowCount).sum

/-- Rows: at most the height are accepted and written; exactly the INFLOW requests that are not withdrawn have a tally, closed in
REPORTING; while it is open, rows accepted run ahead of rows written by the rows in the buffer. Chunks are of
requests already posted, and the writer is idle only where the buffer is empty (R38, R64, R68, R77). -/
def rowsLaw (s : State) : Prop :=
  (s.inflow.writing.isSome = true ↔ s.inflow.buffer ≠ []) ∧ (∀ c ∈ s.inflow.buffer, c.age < s.req.nextAge)
    ∧ ∀ r ∈ s.req.table, r.rowsWritten ≤ r.rect.height ∧ (r.tally.isSome = true ↔ r.source = .inflow ∧ r.withdrawn = false)
      ∧ ∀ t, r.tally = some t → t.rowsAccepted ≤ r.rect.height
        ∧ (r.state = .reporting → t.closed = true)
        ∧ (t.closed = false → t.rowsAccepted = r.rowsWritten + rowsBuffered s r.age)

/-- Jobs, oldest first, at most one of them RUNNING, each over a rectangle of the panel. A COPY job fills the pages of a live
request that is neither withdrawn nor in REPORTING, of the same size; a PUSH or SWAP job fills those of its overlay entry,
which is on the stack unless the job is RUNNING. Every CAPTURING entry has such a job, of its own (R119 to R122, R124, R126,
R128, R130). -/
def jobLaw (s : State) : Prop :=
  (s.copier.jobs.Pairwise fun a b => a.age < b.age) ∧ (s.copier.jobs.filter Job.running).length ≤ 1
    ∧ (∀ j ∈ s.copier.jobs, j.age < s.req.nextAge ∧ rectCheck s.px.geometry j.rect = none
        ∧ (∀ done half, j.state = .running done half → done ≤ j.rect.area ∧ (half.isSome = true ↔ done % 2 = 1))
        ∧ match j.purpose with
          | .copy age => ∃ r ∈ s.req.table, r.age = age ∧ r.source = .copy ∧ r.withdrawn = false ∧ r.state ≠ .reporting
              ∧ r.pages = some j.pages ∧ r.rect.width = j.rect.width ∧ r.rect.height = j.rect.height
              ∧ (j.rounding = true ↔ r.requestedMode = .quick)
          | .push | .swap => j.rounding = false
              ∧ (j.running = true ∨ ∃ o ∈ s.copier.overlays, o.capturing = some j.age))
    ∧ (s.copier.overlays.Pairwise fun a b => a.capturing = none ∨ a.capturing ≠ b.capturing)
    ∧ ∀ o ∈ s.copier.overlays, ∀ age, o.capturing = some age →
        ∃ j ∈ s.copier.jobs, j.age = age ∧ (∀ r, j.purpose ≠ .copy r) ∧ j.rect = o.rect ∧ j.pages = o.pages

/-- The pages that are not free: those of live requests, those of overlay entries, and those of a RUNNING job whose entry a push
has discarded (R60, R62, R130). -/
def heldPages (s : State) : List Nat := (s.req.table.flatMap fun r => r.pages.getD []) ++ copierPages s.copier

/-- Free and held pages are the 3584 pages, none of them twice; every page list has the pages its rectangle needs
(R60, R61, R128). -/
def pagesLaw (s : State) : Prop :=
  (s.pool.free ++ heldPages s).Perm (List.range Config.stagingPages)
    ∧ (∀ r ∈ s.req.table, ∀ pages, r.pages = some pages → pages.length = pagesNeeded r.rect)
    ∧ (∀ o ∈ s.copier.overlays, o.pages.length = pagesNeeded o.rect)
    ∧ ∀ j ∈ s.copier.jobs, j.pages.length = pagesNeeded j.rect

/-- A PENDING job may start where no job is RUNNING (R120): no pixel of its source has an owner, the pixel table is not
initialising, and no queue entry of an older request has a rectangle that intersects its source. -/
def mayStart (s : State) (j : Job) : Prop :=
  j.state = .pending ∧ (∀ x y, j.rect.contains x y = true → (pixelAt s x y).owner = none) ∧ s.px.walk = none
    ∧ ∀ e ∈ s.req.queue, e.age < j.age → ∀ r, findAge s e.age = some r → r.rect.intersects j.rect = false

/-- The jobs have been judged: one is RUNNING, or none may start (R120). -/
def jobsJudged (s : State) : Prop :=
  (∃ j ∈ s.copier.jobs, j.running = true) ∨ ∀ j ∈ s.copier.jobs, ¬ mayStart s j

/-- Nothing that follows an event is left to do: no pass is due (R80), rails and timers stand as the lanes ask (R102,
R137, R138), no grant is due (R151), and ATTN is at its level (R173). -/
def settled (s : State) : Prop :=
  (s.adm.passWanted && !held s && !s.adm.passRunning) = false ∧ syncPower s = s ∧ decideGrant s.mem = s.mem ∧ attnLaw s

/-- A lane that starves at a DRIVEN completion: ACTIVE and early, its new index is its lead count and not its frame
count, and rows of its request are missing (R105). -/
def starvesAt (s : State) (l : LaneId) : Bool :=
  match laneAt s l with
  | some ln =>
    decide (ln.state = .active) && decide (ln.index + 1 ≠ ln.frames) && ln.early && decide (ln.index + 1 = ln.leads)
      && rowsMissing s ln
  | none => false

/-- No pass starts at an event that frees a lane: one is running, the queue is empty, or admission is held by something
that the end of a lane's walk does not end (R78, R80). -/
def passBarred (s : State) : Prop :=
  s.adm.passRunning = true ∨ s.req.queue = [] ∨ s.lib.state ≠ .valid ∨ s.temp.state ≠ .valid ∨ s.rails.state = .fault

/-! ### The drive data as it is stored (R20, R23, R28) -/

/-- Bytes of a set: 16 entries in BLANK, whose sets come first, 256 in any other mode, of ⌈N / 4⌉ bytes each (R20, R28). -/
def setBytes (bands set : Nat) (w : WaveSet) : Nat := (if set < bands then 16 else 256) * ((w.frames + 3) / 4)

/-- Bytes of the sets of a directory, or of its first ones (R28). -/
def dataBytes (bands : Nat) (sets : List WaveSet) : Nat := (sets.zipIdx.map fun e => setBytes bands e.2 e.1).sum

/-- The stored code of position i of an entry of a set: bits 2 × (i mod 4) and the one above it of byte ⌊i / 4⌋ of the entry,
which lies behind the sets before its own and the entries before it (R28). -/
def storedCode (lib : Library) (set : Nat) (w : WaveSet) (entry i : Nat) : Nat :=
  (lib.data.getD (dataBytes lib.bandCount (lib.directory.take set) + entry * ((w.frames + 3) / 4) + i / 4) 0).toNat
    / 4 ^ (i % 4) % 4

/-- How many codes of an entry as driven have a value: those below the lead count are of its lead entry, which is entry 0 in
BLANK and that of its from level to itself in any other mode (R22, R23). -/
def drivenCodes (lib : Library) (set : Nat) (w : WaveSet) (entry value : Nat) : Nat :=
  ((List.range w.frames).filter fun i =>
    decide (storedCode lib set w
      (if i < w.leads then (if set < lib.bandCount then 0 else entry / 16 * 16 + entry / 16) else entry) i = value)).length

/-- The imbalance of an entry as driven: its DARKENs, code 1, less its LIGHTENs, code 2 (R21, R23). -/
def drivenImbalance (lib : Library) (set : Nat) (w : WaveSet) (entry : Nat) : Int :=
  (drivenCodes lib set w entry 1 : Int) - drivenCodes lib set w entry 2

/-! ### What an event leaves behind -/

/-- A posting leaves pass wanted set, and a temperature hold that it meets reported, with TEMP_HOLD raised where it was not
yet (R48, R79, R80). -/
def postingNoted (s u : State) : Prop :=
  u.adm = { s.adm with
      passWanted := true, holdReported := s.adm.holdReported || decide (s.temp.state ≠ .valid) }
    ∧ u.notices.flags = (if s.adm.holdReported = false ∧ s.temp.state ≠ .valid then
        s.notices.flags ||| NoticeSource.tempHold.mask else s.notices.flags)

/-- A change of the temperature state is noted: to VALID, the hold is no longer reported; away from it, with entries in the
queue, it is, with TEMP_HOLD raised where it was not yet; with neither, flag and notice stay (R79). -/
def holdNoted (s u : State) : Prop :=
  (s.temp.state ≠ .valid → u.temp.state = .valid → u.adm.holdReported = false)
    ∧ (s.temp.state = .valid → u.temp.state ≠ .valid → s.req.queue ≠ [] →
        u.adm.holdReported = true ∧ (s.adm.holdReported = false → u.notices.flags.getLsbD 3 = true))
    ∧ ((s.temp.state = .valid ↔ u.temp.state = .valid) ∨ s.req.queue = [] ∧ u.temp.state ≠ .valid →
        u.adm.holdReported = s.adm.holdReported ∧ u.notices.flags.getLsbD 3 = s.notices.flags.getLsbD 3)

/-- The rest of a request has been withdrawn with an outcome (R54, R64), its tally closed. Where no walk of it is in flight, its
entry is gone and that part finished, and its ARMED lanes have begun their RELEASE walks with the outcome; a request with a lane
stays, one that leaves has its record in the log. Where its entry is ADMITTING, entry and lanes stay, and the outcome is
recorded in withdrawal pending, the worse one kept. -/
def restWithdrawn (s u : State) (r : Request) (o : ReqOutcome) : Prop :=
  (isAdmitting s r.age = false →
      (∀ e ∈ u.req.queue, e.age ≠ r.age)
        ∧ (∀ l ln, laneAt s l = some ln → ln.tag = r.tag → ln.state = .armed →
            laneAt u l = some { ln with state := .retiring (.release o) 0 })
        ∧ (∀ q, findAge u r.age = some q →
            q.withdrawalPending = r.withdrawalPending ∧ q.tally = r.tally.map (fun t => { t with closed := true })
              ∧ (entryOf s r.age = none → q.partsFinished = r.partsFinished ∧ q.outcome = r.outcome)
              ∧ (entryOf s r.age ≠ none →
                  q.partsFinished = r.partsFinished + 1 ∧ q.outcome = some (bringIn r.outcome o)))
        ∧ ((∃ l ln, laneAt s l = some ln ∧ ln.tag = r.tag) → findAge u r.age ≠ none)
        ∧ (entryOf s r.age ≠ none → findAge u r.age = none →
            ∃ c ∈ u.notices.log, c.tag = r.tag ∧ c.outcome = bringIn r.outcome o))
    ∧ (isAdmitting s r.age = true →
        (∀ e ∈ s.req.queue, e.age = r.age → e ∈ u.req.queue)
          ∧ (∀ l ln, laneAt s l = some ln → ln.tag = r.tag → ln.state = .armed → laneAt u l = some ln)
          ∧ ∃ q, findAge u r.age = some q ∧ q.withdrawalPending = some (bringIn r.withdrawalPending o)
              ∧ q.tally = r.tally.map (fun t => { t with closed := true })
              ∧ q.partsFinished = r.partsFinished ∧ q.outcome = r.outcome)

/-! ### Replies -/

/-- The Link Port takes what a transaction brings: RESET is not held, and the transaction in flight, if any, is not an
ignored one (R170). -/
def linkTakes (s : State) : Prop := s.link.resetHeld = false ∧ s.link.transaction ≠ some .ignored

/-- The slot holds a reply of a kind, sequence number, result and payload (R161). -/
def answers (s : State) (k : Kind) (seq : Byte) (r : Result) (payload : List Byte) : Prop :=
  ∃ reply, s.link.slot = some reply ∧ reply.kind = k.code ∧ reply.seq = seq ∧ reply.result = r
    ∧ reply.payload = payload

/-- A trailer shows the part's condition: inflow free bytes, the twelve pending states, ATTN, frozen, and the free records,
entries and pages (R158, R162). The discard and reply-lost flags are said where the trailer is. -/
def trailerShows (s : State) (t : Trailer) : Prop :=
  t.inflowFree = 65536 - (s.inflow.buffer.map fun c => c.data.length).sum
    ∧ (t.pending.getLsbD 0 = true ↔ s.notices.log ≠ [])
    ∧ (∀ e ∈ flaggedSources, t.pending.getLsbD e.1 = s.notices.flags.getLsbD e.1)
    ∧ t.attn = s.notices.attn ∧ t.frozen = s.scan.freeze
    ∧ t.freeRecords = 24 - s.req.table.length ∧ t.freeEntries = 32 - s.req.queue.length
    ∧ t.freePages = s.pool.free.length

/-! ### The checks of a command -/

/-- Checks are made in order, and the first that holds decides the result (R7, R46). -/
def firstRefusal (checks : List (Bool × Result)) : Option Result := (checks.find? fun c => c.1).map fun c => c.2

/-- A command is refused: the reply carries the result and no payload, and beside the link nothing changes (R161). -/
def refuses (c : Instr) (k : Kind) (seq : Byte) (r : Result) (s : State) : Prop :=
  ∃ u, exec c s = .next u ∧ answers u k seq r [] ∧ u = { s with link := u.link }

/-- The checks of a rectangle (R7). -/
def rectChecks (r : Rect) (s : State) : List (Bool × Result) :=
  [(s.px.geometry = none, .notConfigured),
   (r.col % 2 = 1 ∨ r.width % 2 = 1 ∨ r.width < 2 ∨ r.height < 1, .badField),
   (panelWidth s < r.col + r.width ∨ panelHeight s < r.row + r.height, .outOfPanel)]

/-- The checks of a tag that a request is to get (R46, R126, R131). -/
def tagChecks (tag : Nat) (s : State) : List (Bool × Result) :=
  [(∃ q ∈ s.req.table, q.tag = tag, .tagInUse), (24 ≤ s.req.table.length, .tableFull)]

/-- The checks of what a snapshot needs (R126, R129, R132). -/
def snapshotChecks (r : Rect) (s : State) : List (Bool × Result) :=
  [(8 ≤ s.copier.jobs.length, .busy), (s.pool.free.length < pagesNeeded r, .stagingFull)]

/-- The checks of POST_UPDATE (R46). -/
def postUpdateChecks (p : List Byte) (s : State) : List (Bool × Result) :=
  List.flatten
    [[(p.length ≠ 16, .badLength), (s.mem.calibrating, .busy)], rectChecks (rectField p 2) s,
     [(field p 10 1 < 1 ∨ 5 < field p 10 1 ∨ 2 < field p 11 1 ∨ 1 < field p 12 1 ∨ 1 < field p 13 1 ∨ 1 < field p 15 1
        ∨ field p 15 1 = 1 ∧ 2 < field p 10 1 ∨ field p 13 1 = 1 ∧ 15 < field p 14 1, .badField),
      (s.lib.state = .loading, .busy)],
     tagChecks (field p 0 2) s,
     [(field p 13 1 = 0 ∧ s.pool.free.length < pagesNeeded (rectField p 2), .stagingFull)]]

/-- The checks of PIXELS up to the tag's (R65). -/
def pixelsChecks (p : List Byte) (s : State) : List (Bool × Result) :=
  [(p.length < 8 ∨ field p 6 2 ≠ p.length - 8, .badLength), (s.mem.calibrating, .busy),
   ((findTag s (field p 0 2)).all fun q => q.withdrawn, .noTag)]

/-- The checks of PIXELS behind the tag's, for a request and its rows accepted (R65). -/
def rowsChecks (p : List Byte) (r : Request) (tally : Tally) (s : State) : List (Bool × Result) :=
  [(r.source ≠ .inflow, .badField), (tally.closed, .tooLate),
   (tally.rowsAccepted = r.rect.height ∨ field p 4 2 = 0, .badField),
   (field p 2 2 ≠ tally.rowsAccepted, .rowOrder),
   (r.rect.height < field p 2 2 + field p 4 2, .outOfPanel),
   (field p 6 2 ≠ field p 4 2 * (r.rect.width / 2), .badLength),
   (freeSpace s < field p 6 2, .inflowFull)]

/-- The checks of POST_COPY (R126). -/
def postCopyChecks (p : List Byte) (s : State) : List (Bool × Result) :=
  List.flatten
    [[(p.length ≠ 17, .badLength), (s.mem.calibrating, .busy)], rectChecks (copySource p) s,
     rectChecks (copyDestination p) s,
     [(field p 14 1 < 1 ∨ 5 < field p 14 1 ∨ 2 < field p 15 1 ∨ 1 < field p 16 1, .badField),
      (s.lib.state = .loading, .busy)],
     tagChecks (field p 0 2) s, snapshotChecks (copySource p) s]

/-- The checks of OVERLAY_PUSH (R129). -/
def overlayPushChecks (p : List Byte) (s : State) : List (Bool × Result) :=
  List.flatten
    [[(p.length ≠ 8, .badLength), (s.mem.calibrating, .busy)], rectChecks (rectField p 0) s,
     snapshotChecks (rectField p 0) s]

/-- The checks of OVERLAY_POP, the first eight of OVERLAY_SWAP (R131, R132). -/
def overlayPopChecks (p : List Byte) (s : State) : List (Bool × Result) :=
  List.flatten
    [[(p.length ≠ 5, .badLength), (s.mem.calibrating, .busy),
      (field p 2 1 < 1 ∨ field p 2 1 = 4 ∨ 5 < field p 2 1 ∨ 2 < field p 3 1 ∨ 1 < field p 4 1, .badField),
      (s.lib.state = .loading, .busy), (s.copier.overlays = [], .empty),
      (s.copier.overlays.getLast?.any fun o => o.capturing.isSome, .busy)],
     tagChecks (field p 0 2) s]

/-- The checks of OVERLAY_SWAP (R132). -/
def overlaySwapChecks (p : List Byte) (s : State) : List (Bool × Result) :=
  overlayPopChecks p s ++ s.copier.overlays.getLast?.toList.flatMap fun o => snapshotChecks o.rect s

/-- The checks of ASSUME (R13). -/
def assumeChecks (p : List Byte) (s : State) : List (Bool × Result) :=
  List.flatten
    [[(p.length ≠ 9, .badLength)], rectChecks (rectField p 0) s,
     [(15 < field p 8 1, .badField),
      (s.px.walk ≠ none ∨ s.adm.walk ≠ none
        ∨ (∃ j ∈ s.copier.jobs, j.running = true ∧ j.rect.intersects (rectField p 0) = true)
        ∨ anyOwned s (rectField p 0) = true, .busy)]]

/-- The fields of a CONFIGURE: offset, size, lowest and highest value (R164). -/
def configureTable : List (Nat × Nat × Nat × Nat) :=
  [(0, 2, 256, 2560), (2, 2, 128, 1920), (4, 1, 0, 1), (5, 2, 500, 4000), (7, 1, 1, 15), (8, 1, 1, 127), (9, 1, 0, 15),
   (10, 4, 2, 65536), (14, 4, 1, 65535), (18, 1, 0, 1), (19, 1, 0, 1), (20, 2, 0, 10000), (22, 2, 10, 500), (24, 1, 1, 60)]

/-- The checks of CONFIGURE (R165). -/
def configureChecks (p : List Byte) (s : State) : List (Bool × Result) :=
  [(p.length ≠ 25, .badLength), (s.mem.calibrating, .busy),
   ((∃ f ∈ configureTable, field p f.1 f.2.1 < f.2.2.1 ∨ f.2.2.2 < field p f.1 f.2.1)
      ∨ field p 0 2 % 8 ≠ 0 ∨ field p 2 2 % 8 ≠ 0 ∨ field p 5 2 < field p 2 2 / 2 + 100
      ∨ field p 10 4 ≤ field p 14 4, .badField),
   (s.req.table ≠ [] ∨ (∃ l, laneAt s l ≠ none) ∨ s.lib.state = .loading ∨ s.scan.frame ≠ none, .busy)]

/-- The checks of LIB_BEGIN (R27). An empty payload has no band count: that it fails the length check is the model's choice
(log 16). -/
def libBeginChecks (p : List Byte) (s : State) : List (Bool × Result) :=
  [(s.mem.calibrating ∨ s.lib.commit ≠ .none ∨ (∃ l, laneAt s l ≠ none) ∨ s.req.table ≠ [], .busy),
   (p ≠ [] ∧ (libBandCount p = 0 ∨ 12 < libBandCount p), .badField),
   (p.length ≠ 3 + 12 * libBandCount p, .badLength),
   ((∃ k < libBandCount p, fieldSigned p (1 + 2 * (k + 1)) ≤ fieldSigned p (1 + 2 * k))
      ∨ (∃ e ∈ (libDirectory p).zipIdx, e.1.frames < e.1.leads
          ∨ e.1.frames = 0 ∧ modeOfSet (libBandCount p) e.2 ∈ [Mode.blank, .clear, .settle]), .badField)]

/-- The checks of LIB_COMMIT (R31). -/
def libCommitChecks (p : List Byte) (s : State) : List (Bool × Result) :=
  [(p.length ≠ 2, .badLength), (s.lib.state ≠ .loading, .notLoading), (s.lib.commit ≠ .none, .busy)]

/-- The checks of TEMP (R146). -/
def tempChecks (p : List Byte) : List (Bool × Result) :=
  [(p.length ≠ 2, .badLength), (fieldSigned p 0 < -400 ∨ 1000 < fieldSigned p 0, .badField)]

/-- The checks of COUNTERS and of RAILS (R142, R168). -/
def actionChecks (p : List Byte) : List (Bool × Result) :=
  [(p.length ≠ 1, .badLength), (1 < field p 0 1, .badField)]

/-! ### Which commands may write what -/

/-- The rows that end a transaction (R158). -/
def endsTransaction : Instr → Bool
  | .poll _ | .linkFailure _ | .ident _ | .status _ | .countersRead _ | .countersReadAndClear _ | .configure _
  | .restart _ | .noticeSet _ | .noticeTake _ | .readLog _ | .libBegin _ | .libData _ | .libCommit _ | .libAbandon _
  | .temp _ | .railsOff _ | .railsClearFault _ | .postUpdate _ | .pixels _ | .cancel _ | .clearDiscard _
  | .postCopy _ | .overlayPush _ | .overlayPop _ | .overlaySwap _ | .freeze _ | .thaw _ | .assume _ => true
  | _ => false

/-- The bytes a command brings in (R158). -/
def transferOf : Instr → Option Transfer
  | .poll t => some t
  | .linkFailure t => some t
  | .ident t => some t
  | .status t => some t
  | .countersRead t => some t
  | .countersReadAndClear t => some t
  | .configure t => some t
  | .restart t => some t
  | .noticeSet t => some t
  | .noticeTake t => some t
  | .readLog t => some t
  | .libBegin t => some t
  | .libData t => some t
  | .libCommit t => some t
  | .libAbandon t => some t
  | .temp t => some t
  | .railsOff t => some t
  | .railsClearFault t => some t
  | .postUpdate t => some t
  | .pixels t => some t
  | .cancel t => some t
  | .clearDiscard t => some t
  | .postCopy t => some t
  | .overlayPush t => some t
  | .overlayPop t => some t
  | .overlaySwap t => some t
  | .freeze t => some t
  | .thaw t => some t
  | .assume t => some t
  | _ => none

/-- Power-on and the RESET pin, which write everything. -/
def resets : Instr → Bool
  | .powerOn | .resetPin => true
  | _ => false

/-- The commands that may write pixel records (R2 to R5, R8, R14, R95, R110). -/
def writesPixels : Instr → Bool
  | .configure _ | .admissionWalkEnd | .assumeWalkEnd | .retirementWalkEnd _ | .burstEnd _ _ => true
  | c => resets c

/-- The commands that may write tile entries (R8, R11). -/
def writesTiles : Instr → Bool
  | .configure _ | .admissionWalkEnd | .retirementWalkEnd _ => true
  | c => resets c

/-- The commands that may write the library (R24 to R36). -/
def writesLibrary : Instr → Bool
  | .libBegin _ | .libData _ | .libCommit _ | .libAbandon _ | .libChunkWriteEnd | .commitWalkEnd | .burstEnd _ _ => true
  | c => resets c

/-- The commands that may write staging bytes (R68, R121). -/
def writesStaging : Instr → Bool
  | .inflowChunkWriteEnd | .copierJobEnd | .burstEnd _ _ => true
  | c => resets c

/-- The commands that may write the temperature record (R145 to R149). -/
def writesTemperature : Instr → Bool
  | .configure _ | .libBegin _ | .libAbandon _ | .commitWalkEnd | .temp _ | .intervalTimerExpiry => true
  | c => resets c

/-- The commands that may write a lane record (R100). -/
def writesLanes : Instr → Bool
  | .restart _ | .cancel _ | .admissionWalkEnd | .frameStart | .frameCompletion | .retirementWalkEnd _
  | .powerGoodSample _ | .riseTimeout | .burstEnd _ _ => true
  | c => resets c

/-- The commands that may write the inflow buffer, its write, the discard flag or the latch (R66 to R77). -/
def writesInflow : Instr → Bool
  | .status _ | .configure _ | .restart _ | .pixels _ | .clearDiscard _ | .inflowChunkWriteEnd | .burstEnd _ _ => true
  | c => resets c

/-- The commands that may write the overlay stack (R128). -/
def writesOverlays : Instr → Bool
  | .configure _ | .restart _ | .overlayPush _ | .overlayPop _ | .overlaySwap _ | .copierJobEnd => true
  | c => resets c

/-- The commands that may write a counter (R117, R160, R168). -/
def writesCounters : Instr → Bool
  | .linkFailure _ | .countersReadAndClear _ | .restart _ | .pixels _ | .cancel _ | .admissionWalkEnd
  | .frameCompletion | .powerGoodSample _ | .riseTimeout => true
  | c => resets c

/-- The commands that may write the freeze state (R108). -/
def writesFreeze : Instr → Bool
  | .restart _ | .freeze _ | .thaw _ => true
  | c => resets c

/-- The commands that may write the frame in flight or the panel output port (R103 to R105). -/
def writesFrame : Instr → Bool
  | .frameStart | .frameCompletion | .burstEnd _ _ => true
  | c => resets c

end Sys2Proof.Safety
end

