-- ==== Sys2Proof/WellFormed.lean ====
section
/-!
DEFINITION. Which commands are well formed: a row that ends a transaction carries bytes that spell it (R159, R160, log 4),
and a list of ready clients names none twice (R151, log 6).
-/

namespace Sys2Proof

open Sys2Proof.Machine (Arrival Kind arrivalOf)

/-- The bytes hold a command frame of a kind, with a payload the row admits (R158, R160). -/
def Transfer.spellsWith (t : Transfer) (k : Kind) (admits : List Byte → Bool) : Bool :=
  match arrivalOf t with
  | .command k' _ p => decide (k' = k) && admits p
  | .poll => false
  | .failure _ _ => false

/-- The bytes hold a command frame of a kind (R158, R160). -/
def Transfer.spells (t : Transfer) (k : Kind) : Bool := t.spellsWith k fun _ => true

/-- The bytes hold no command frame (R159). -/
def Transfer.isPoll (t : Transfer) : Bool :=
  match arrivalOf t with
  | .poll => true
  | .command _ _ _ => false
  | .failure _ _ => false

/-- The bytes hold a frame that fails a check of R160. -/
def Transfer.isFailure (t : Transfer) : Bool :=
  match arrivalOf t with
  | .failure _ _ => true
  | .command _ _ _ => false
  | .poll => false

/-- No client is named twice (R151). -/
def distinctClients (ready : List Requester) : Bool := decide ready.Nodup

/-- A command that can be sent to the part as it stands. -/
def Instr.wellFormed : Instr → Bool
  | .powerOn => true
  | .resetPin => true
  | .transactionStart => true
  | .poll t => t.isPoll
  | .linkFailure t => t.isFailure
  | .ident t => t.spells .ident
  | .status t => t.spells .status
  | .countersRead t => t.spellsWith .counters fun p => decide (p ≠ [1])
  | .countersReadAndClear t => t.spellsWith .counters fun p => decide (p ≠ [0])
  | .configure t => t.spells .configure
  | .restart t => t.spells .restart
  | .noticeSet t => t.spells .noticeSet
  | .noticeTake t => t.spells .noticeTake
  | .readLog t => t.spells .readLog
  | .libBegin t => t.spells .libBegin
  | .libData t => t.spells .libData
  | .libCommit t => t.spells .libCommit
  | .libAbandon t => t.spells .libAbandon
  | .temp t => t.spells .temp
  | .railsOff t => t.spellsWith .rails fun p => decide (p ≠ [1])
  | .railsClearFault t => t.spellsWith .rails fun p => decide (p ≠ [0])
  | .postUpdate t => t.spells .postUpdate
  | .pixels t => t.spells .pixels
  | .cancel t => t.spells .cancel
  | .clearDiscard t => t.spells .clearDiscard
  | .postCopy t => t.spells .postCopy
  | .overlayPush t => t.spells .overlayPush
  | .overlayPop t => t.spells .overlayPop
  | .overlaySwap t => t.spells .overlaySwap
  | .freeze t => t.spells .freeze
  | .thaw t => t.spells .thaw
  | .assume t => t.spells .assume
  | .initialisationWalkEnd => true
  | .assumeWalkEnd => true
  | .libChunkWriteEnd => true
  | .commitWalkEnd => true
  | .inflowChunkWriteEnd => true
  | .admissionWalkEnd => true
  | .frameStart => true
  | .frameCompletion => true
  | .retirementWalkEnd _ => true
  | .copierJobEnd => true
  | .powerGoodSample _ => true
  | .riseTimeout => true
  | .idleTimerExpiry => true
  | .fallTimeEnd => true
  | .intervalTimerExpiry => true
  | .refreshRequest ready => distinctClients ready
  | .refreshEnd ready => distinctClients ready
  | .burstEnd _ ready => distinctClients ready
  | .calibrationEnd => true
  | .resetRelease => true

end Sys2Proof
end

