-- ==== Sys2Proof/Certificates/Slice0/Obligations.lean ====
section
/-!
DEFINITION. The statements about the model. A statement about a host command speaks of a part that takes transactions
(`linkTakes`: RESET not held) and of bytes that arrive as that command. Where a statement could fail only in states no run
reaches, it has one of the laws of Sys2Proof/Safety.lean as a premise; that every step keeps the laws, and that they hold at
reset, are statements of their own.
-/

section

open Sys2Proof Sys2Proof.Machine Sys2Proof.Safety

/-! ### The queue and the link -/

/-- A step runs the command at the front of the queue on the state with the queue's rest; on an empty queue the part
idles (the model's choice, log 1). -/
def Obligations.StepTakesTheFrontCommand : Prop :=
  (∀ (c : Instr) (rest : List Instr) (s : State),
      s.pending = c :: rest → step s = exec c { s with pending := rest })
    ∧ ∀ s : State, s.pending = [] → step s = .next s

/-- No command writes the queue (the model's own state). -/
def Obligations.EveryCommandLeavesTheQueue : Prop :=
  ∀ (c : Instr) (s u : State), exec c s = .next u → u.pending = s.pending

/-- A command frame of any kind, sequence number and payload of up to 4104 bytes, with any filler behind it, is read as what
it was written from; with another CRC it is a link failure BAD_CRC, and with an unknown kind UNKNOWN_KIND. Bytes are a poll
exactly where there is none or the first is not 0xA5; a frame is BAD_LENGTH exactly where fewer than 5 bytes came, the length
field L is above 4104, the last byte is unfinished, fewer than 7 + L bytes came, or a byte behind the first 7 + L is not 0xFF.
Every link failure echoes the third byte received, or 0 with fewer. The frame's bytes and CRC, the kind codes, and how fields
are written and read, are spelled out (R158 to R160; 00, Conventions). -/
def Obligations.CommandFramesAreReadAsWritten : Prop :=
  (∀ (k : Kind) (seq : Byte) (p : List Byte) (fill : Nat), p.length ≤ Config.maxPayload →
      arrivalOf { mosi := commandFrame k.code seq p ++ List.replicate fill 0xFF, tailBits := 0 } = .command k seq p)
    ∧ (∀ (kind seq : Byte) (p : List Byte) (fill : Nat) (crc : BitVec 16), p.length ≤ Config.maxPayload →
        crc ≠ crc16 (commandBody kind seq p) →
        arrivalOf { mosi := commandStart :: (commandBody kind seq p ++ leBytes 2 crc.toNat)
                              ++ List.replicate fill 0xFF, tailBits := 0 } = .failure .badCrc seq)
    ∧ (∀ (kind seq : Byte) (p : List Byte) (fill : Nat), p.length ≤ Config.maxPayload → (∀ k : Kind, k.code ≠ kind) →
        arrivalOf { mosi := commandFrame kind seq p ++ List.replicate fill 0xFF, tailBits := 0 }
          = .failure .unknownKind seq)
    -- polls, the length check, and the sequence echo
    ∧ (∀ t : Transfer, arrivalOf t = .poll ↔ t.mosi.head? ≠ some 0xA5)
    ∧ (∀ (t : Transfer) (L : Nat), t.mosi.head? = some 0xA5 →
        L = (t.mosi.getD 3 0).toNat + 256 * (t.mosi.getD 4 0).toNat →
        (arrivalOf t = .failure .badLength (t.mosi.getD 2 0) ↔
          t.mosi.length < 5 ∨ 4104 < L ∨ t.tailBits ≠ 0 ∨ t.mosi.length < 7 + L ∨ ∃ b ∈ t.mosi.drop (7 + L), b ≠ 0xFF))
    ∧ (∀ (t : Transfer) (r : Result) (seq : Byte), arrivalOf t = .failure r seq →
        (r = .badLength ∨ r = .badCrc ∨ r = .unknownKind) ∧ seq = t.mosi.getD 2 0)
    -- the bytes of a frame
    ∧ (∀ (kind seq : Byte) (p body : List Byte), body = kind :: seq :: (leBytes 2 p.length ++ p) →
        commandBody kind seq p = body
          ∧ commandFrame kind seq p = 0xA5 :: (body ++ leBytes 2 (crc16 body).toNat))
    ∧ ([Kind.ident, .status, .counters, .configure, .restart, .noticeSet, .noticeTake, .readLog, .libBegin, .libData,
          .libCommit, .libAbandon, .temp, .rails, .postUpdate, .pixels, .cancel, .clearDiscard, .postCopy, .overlayPush,
          .overlayPop, .overlaySwap, .freeze, .thaw, .assume].map Kind.code
        = [0x01, 0x02, 0x03, 0x04, 0x05, 0x10, 0x11, 0x12, 0x20, 0x21, 0x22, 0x23, 0x28, 0x29, 0x30, 0x31, 0x32, 0x33, 0x38,
          0x39, 0x3A, 0x3B, 0x40, 0x41, 0x48])
    ∧ (∀ shift : BitVec 16 → BitVec 16,
        (∀ c, shift c = if c.getLsbD 0 = true then (c >>> 1) ^^^ 0x8408#16 else c >>> 1) →
        crc16 [] = 0xFFFF ∧ ∀ (bs : List Byte) (b : Byte), crc16 (bs ++ [b]) = shift^[8] (crc16 bs ^^^ b.setWidth 16))
    -- fields, least significant byte first
    ∧ (∀ n v : Nat, (leBytes n v).length = n ∧ ∀ i < n, (leBytes n v)[i]? = some (BitVec.ofNat 8 (v / 256 ^ i)))
    ∧ ∀ (p : List Byte) (off : Nat),
        field p off 1 = (p.getD off 0).toNat
          ∧ field p off 2 = (p.getD off 0).toNat + 256 * (p.getD (off + 1) 0).toNat
          ∧ field p off 4 = (p.getD off 0).toNat + 256 * (p.getD (off + 1) 0).toNat
              + 65536 * (p.getD (off + 2) 0).toNat + 16777216 * (p.getD (off + 3) 0).toNat
          ∧ fieldSigned p off = (if field p off 2 < 32768 then (field p off 2 : Int) else (field p off 2 : Int) - 65536)

/-- A row that ends a transaction stops, by name, on bytes that do not spell it (the model's choice, log 4). -/
def Obligations.IllFormedLinkRowsStop : Prop :=
  ∀ (c : Instr) (s : State), endsTransaction c = true → c.wellFormed = false → exec c s = .fault .transferNotOfRow

/-- POWER_ON and RESET_PIN put every block in its initial state in a new power epoch (log 8); RESET_PIN holds the link,
with a transaction in flight ignored from then on, until RESET_RELEASE (R170; the levels at power-on are the model's choice,
log 17, and so is the fault of a RESET_RELEASE with RESET not held, log 3). -/
def Obligations.ResetsSetEveryBlock : Prop :=
  (∀ s : State, exec .powerOn s =
      .next { State.reset with
        pending := s.pending, mem := { State.reset.mem with epoch := s.mem.epoch + 1 } })
    ∧ (∀ s : State, exec .resetPin s =
        .next { State.reset with
          pending := s.pending, mem := { State.reset.mem with epoch := s.mem.epoch + 1 }
          link := { slot := none, transaction := s.link.transaction.map fun _ => Transaction.ignored,
                    resetHeld := true } })
    ∧ (∀ s : State, s.link.resetHeld = true →
        exec .resetRelease s = .next { s with link := { s.link with resetHeld := false } })
    ∧ ∀ s : State, s.link.resetHeld = false → exec .resetRelease s = .fault .resetNotHeld

/-- At power-on and at the RESET pin the request table, the admission queue and the line are empty, the posting order
begins again, every lane is FREE, every page is free, and no completion record is there (R58). -/
def Obligations.ResetsEmptyTheRequestManager : Prop :=
  ∀ (c : Instr) (s : State), c = .powerOn ∨ c = .resetPin →
    ∃ u, exec c s = .next u ∧ u.req.table = [] ∧ u.req.queue = [] ∧ u.req.line = [] ∧ u.req.nextAge = 0
      ∧ (∀ l, laneAt u l = none) ∧ u.pool.free = List.range 3584 ∧ u.notices.log = []

/-- A falling edge of CS fixes the outgoing frame: the reply in the slot, else an IDLE frame, with kind and sequence echo 0,
OK and no payload; while RESET is held the transaction is ignored. Byte i on MISO is byte i of the outgoing frame, 0xFF beyond
it. A reply frame of P payload bytes has 20 + P: 0x5A, kind, sequence, result code, P, payload, twelve trailer bytes, CRC. The
trailer of an IDLE frame and of every reply shows inflow free bytes, the 12 pending states, ATTN, discard flag, frozen, free
records, entries and pages. A poll empties the slot exactly when its reply was the outgoing frame and was sent whole, and does
nothing else; one that ends an ignored transaction only ends it. Every other row that ends a transaction puts a reply in the
slot, and this one carries the reply-lost flag exactly when the slot still held a reply after the delivery, which is then
discarded (R158, R159, R161 to R163, R170). A second falling edge is a fault, and a poll or another row without a falling edge
before it implies one: the model's choices, log 3 and log 5. That MISO is high-impedance to the end of an ignored transaction
is log 21. -/
def Obligations.TransactionsDeliverTheOutgoingFrame : Prop :=
  (∀ s : State, s.link.transaction = none →
      exec .transactionStart s = .next { s with link := { s.link with
        transaction := some (
          if s.link.resetHeld = true then .ignored
          else match s.link.slot with
            | some r => .live r true
            | none => .live (idleFrame s) false) } })
    ∧ (∀ s : State, s.link.transaction ≠ none → exec .transactionStart s = .fault .transactionInFlight)
    ∧ (∀ (t : Transfer) (s : State) (outgoing : Reply) (fromSlot : Bool),
        arrivalOf t = .poll → s.link.transaction = some (.live outgoing fromSlot) →
        exec (.poll t) s = .next { s with link := { s.link with
          slot := if fromSlot = true ∧ outgoing.length ≤ t.mosi.length then none else s.link.slot
          transaction := none } })
    ∧ (∀ (t : Transfer) (s : State), arrivalOf t = .poll → s.link.transaction = some .ignored →
        exec (.poll t) s = .next { s with link := { s.link with transaction := none } })
    ∧ (∀ (t : Transfer) (s u : State), s.link.transaction = none → exec .transactionStart s = .next u →
        exec (.poll t) s = exec (.poll t) u)
    ∧ (∀ (c : Instr) (t : Transfer) (s u : State), transferOf c = some t → arrivalOf t ≠ .poll → linkTakes s →
        exec c s = .next u →
        ∃ reply, u.link.slot = some reply ∧ u.link.transaction = none
          ∧ (reply.trailer.replyLost = true ↔ ∃ old, s.link.slot = some old
              ∧ ∀ outgoing, s.link.transaction = some (.live outgoing true)
                  ∨ s.link.transaction = none ∧ outgoing = old → t.mosi.length < outgoing.length)
          ∧ trailerShows u reply.trailer
          ∧ reply.trailer.discard = (match c with | .status _ => s.inflow.discard | _ => u.inflow.discard))
    -- frames by their bytes
    ∧ (∀ s : State, (idleFrame s).kind = 0 ∧ (idleFrame s).seq = 0 ∧ (idleFrame s).result = .ok
        ∧ (idleFrame s).payload = [] ∧ (idleFrame s).trailer.replyLost = false
        ∧ trailerShows s (idleFrame s).trailer ∧ (idleFrame s).trailer.discard = s.inflow.discard)
    ∧ (∀ (r : Reply) (body : List Byte),
        body = r.kind :: r.seq :: BitVec.ofNat 8 r.result.code :: (leBytes 2 r.payload.length ++ r.payload
          ++ (leBytes 4 r.trailer.inflowFree ++ leBytes 2 r.trailer.pending.toNat
            ++ [BitVec.ofNat 8 ((if r.trailer.attn = true then 1 else 0) + (if r.trailer.replyLost = true then 2 else 0)
                  + (if r.trailer.discard = true then 4 else 0) + (if r.trailer.frozen = true then 8 else 0)),
                BitVec.ofNat 8 r.trailer.freeRecords, BitVec.ofNat 8 r.trailer.freeEntries]
            ++ leBytes 2 r.trailer.freePages ++ [0])) →
        r.frame = 0x5A :: (body ++ leBytes 2 (crc16 body).toNat) ∧ r.frame.length = 20 + r.payload.length
          ∧ r.length = r.frame.length)
    ∧ ([Result.ok, .badCrc, .badLength, .unknownKind, .badField, .notConfigured, .busy, .tagInUse, .noTag, .tableFull,
          .stagingFull, .inflowFull, .rowOrder, .outOfPanel, .tooLate, .empty, .sequence, .notLoading].map Result.code
        = [0, 1, 2, 3, 4, 5, 6, 7, 8, 9, 11, 12, 13, 14, 15, 16, 17, 18])
    ∧ ∀ (s : State) (i : Nat),
        (∀ outgoing fromSlot, s.link.transaction = some (.live outgoing fromSlot) →
            misoByte s i = some (outgoing.frame.getD i 0xFF))
          ∧ (s.link.transaction = none ∨ s.link.transaction = some .ignored → misoByte s i = none)

/-- A link failure counts a frame error, raises LINK_ERROR and is answered with kind echo 0, its sequence echo and its
result (R160). -/
def Obligations.LinkFailuresAreAnswered : Prop :=
  ∀ (t : Transfer) (s : State) (r : Result) (seq : Byte), arrivalOf t = .failure r seq → linkTakes s →
    ∃ u reply, exec (.linkFailure t) s = .next u
      ∧ u.counters = { s.counters with frameErrors := bump s.counters.frameErrors }
      ∧ u.notices.flags.getLsbD 11 = true
      ∧ u.link.slot = some reply ∧ reply.kind = 0 ∧ reply.seq = seq ∧ reply.result = r ∧ reply.payload = []

/-- IDENT answers its 21 bytes, or BAD_LENGTH with a payload, and changes no state but the link (R164). -/
def Obligations.IdentAnswersTheIdentification : Prop :=
  ∀ (t : Transfer) (s : State) (seq : Byte) (p : List Byte), arrivalOf t = .command .ident seq p → linkTakes s →
    ∃ u, exec (.ident t) s = .next u
      ∧ (p = [] → answers u .ident seq .ok
          [0x50, 0x4B, 0x40, 0x31, 0x41, 16, 24, 32, 32, 4, 8, 0x00, 0x0E, 0x00, 0x00, 0x01, 0x00, 0x00, 0x0A, 0x80, 0x07])
      ∧ (p ≠ [] → answers u .ident seq .badLength [])
      ∧ (settled s → u = { s with link := u.link })

/-- STATUS answers 121 bytes of the part as it stands: for each lane six bytes, state, mode, tag, index and frames, zeros
while FREE; then queue length, request count, fill level, discard flag, library state, failure reason and generation,
temperature state, reading, band and staleness, rail state, freeze, overlay depth and entries, job count and initialising,
each at its offset. The discard flag is shown as it was in payload and trailer; with auto-clear on STATUS then clears it; it
changes nothing else (R74, R167). -/
def Obligations.StatusShowsThePart : Prop :=
  ∀ (t : Transfer) (s : State) (seq : Byte) (p : List Byte),
    arrivalOf t = .command .status seq p → linkTakes s → settled s →
    (p = [] → ∃ u reply, exec (.status t) s = .next u ∧ u.link.slot = some reply
        ∧ reply.kind = Kind.status.code ∧ reply.seq = seq ∧ reply.result = .ok ∧ reply.payload.length = 121
        ∧ (∀ l : LaneId, (reply.payload.drop (6 * l.val)).take 6 =
            match laneAt s l with
            | none => [0, 0, 0, 0, 0, 0]
            | some ln =>
              leBytes 1 (match ln.state with | .armed => 1 | .active => 2 | .retiring _ _ => 3)
                ++ leBytes 1 (match ln.mode with
                    | .blank => 1 | .clear => 2 | .settle => 3 | .quick => 4 | .stroke => 5)
                ++ leBytes 2 ln.tag ++ leBytes 1 ln.index ++ leBytes 1 ln.frames)
        ∧ (∀ offset value, (offset, value) ∈ [
              (96, s.req.queue.length), (97, s.req.table.length), (102, if s.inflow.discard = true then 1 else 0),
              (103, match s.lib.state with | .empty => 0 | .loading => 1 | .valid => 2 | .invalid => 3),
              (104, match s.lib.reason with
                | .none => 0 | .size => 1 | .crc => 2 | .badCode => 3 | .unbalanced => 4),
              (107, match s.temp.state with | .none => 0 | .valid => 1 | .outOfRange => 2 | .stale => 3),
              (110, match s.temp.band with | none => 0xFF | some band => band), (111, s.temp.staleness),
              (112, match s.rails.state with | .off => 0 | .rising => 1 | .on => 2 | .falling => 3 | .fault => 4),
              (113, if s.scan.freeze = true then 1 else 0), (114, s.copier.overlays.length),
              (119, s.copier.jobs.length), (120, if s.px.walk = none then 0 else 1)] →
            reply.payload[offset]? = some (BitVec.ofNat 8 value))
        ∧ (∀ i : Fin 4, reply.payload[115 + i.val]? = some (match s.copier.overlays[i.val]? with
            | none => 0xFF
            | some o => if o.capturing = none then 0 else 1))
        ∧ (reply.payload.drop 98).take 4 = leBytes 4 (fillLevel s)
        ∧ (reply.payload.drop 105).take 2 = leBytes 2 s.lib.generation
        ∧ (reply.payload.drop 108).take 2 = (match s.temp.reading with
            | none => [0x00, 0x80]
            | some reading => leBytes 2 (BitVec.ofInt 16 reading).toNat)
        ∧ reply.trailer.discard = s.inflow.discard
        ∧ u = { s with
            link := u.link
            inflow := { s.inflow with discard := s.inflow.discard && !s.settings.autoClear } })
      ∧ (p ≠ [] → ∃ u, exec (.status t) s = .next u ∧ answers u .status seq .badLength []
          ∧ u = { s with link := u.link })

/-- COUNTERS answers the eight counters, 4 bytes each, in their order; action 1 then sets all eight to 0, action 0 changes
nothing; a payload that is not 1 byte is BAD_LENGTH, an action above 1 BAD_FIELD, in this order, with nothing changed but the
link. A counter counts up to 4,294,967,295 and stays there (R168). That a refused form belongs to either of the two rows is
the model's choice (log 4). -/
def Obligations.CountersAreReadAndCleared : Prop :=
  (∀ c : Counters, c.bytes =
      leBytes 4 c.framesScanned ++ leBytes 4 c.lanesArmed ++ leBytes 4 c.upgrades ++ leBytes 4 c.ghostRefusals
        ++ leBytes 4 c.starvations ++ leBytes 4 c.aborts ++ leBytes 4 c.frameErrors ++ leBytes 4 c.inflowRefusals)
    ∧ (∀ (t : Transfer) (s : State) (seq : Byte), arrivalOf t = .command .counters seq [0] → linkTakes s → settled s →
        ∃ u, exec (.countersRead t) s = .next u ∧ answers u .counters seq .ok s.counters.bytes
          ∧ u = { s with link := u.link })
    ∧ (∀ (t : Transfer) (s : State) (seq : Byte), arrivalOf t = .command .counters seq [1] → linkTakes s → settled s →
        ∃ u, exec (.countersReadAndClear t) s = .next u ∧ answers u .counters seq .ok s.counters.bytes
          ∧ u = { s with link := u.link, counters := Counters.zero })
    ∧ (∀ n : Nat, bump n = if n < 4294967295 then n + 1 else n)
    ∧ ∀ (t : Transfer) (s : State) (seq : Byte) (p : List Byte) (r : Result),
      arrivalOf t = .command .counters seq p → linkTakes s → settled s → firstRefusal (actionChecks p) = some r →
      refuses (.countersRead t) .counters seq r s ∧ refuses (.countersReadAndClear t) .counters seq r s

/-! ### Settings and restart -/

/-- An accepted CONFIGURE sets every setting; a new geometry starts the initialisation walk over a new table and empties
jobs and overlay stack, the same geometry keeps table, jobs and stack; a changed watermark disarms the latch, a changed
interval reloads the interval timer. It is checked in the order of R165, every field against the table of R164, and the first
check that fails decides; a refused one changes nothing but the link (R8, R134, R164 to R166). That a new table lists no record is how the model holds its
initial records (log 9). -/
def Obligations.ConfigureSetsEverySetting : Prop :=
  (∀ (t : Transfer) (s : State) (seq : Byte) (p : List Byte),
    arrivalOf t = .command .configure seq p → linkTakes s →
    p.length = 25 → s.mem.calibrating = false → configFieldsOk p = true → s.req.table = [] →
    (∀ l, laneAt s l = none) → s.lib.state ≠ .loading → s.scan.frame = none →
    ∃ u, exec (.configure t) s = .next u ∧ answers u .configure seq .ok []
      ∧ u.settings =
          { granularity := if field p 4 1 = 1 then .tile else .pixel
            framePeriod := field p 5 2, residueLimit := field p 7 1, balanceLimit := field p 8 1
            earlyThreshold := field p 9 1, highWatermark := field p 10 4, lowWatermark := field p 14 4
            autoClear := decide (field p 18 1 = 1), flushOnFault := decide (field p 19 1 = 1)
            holdTime := field p 20 2, riseTimeout := field p 22 2, tempInterval := field p 24 1 }
      ∧ configGeometry p = { width := field p 0 2, height := field p 2 2 } ∧ u.px.geometry = some (configGeometry p)
      ∧ (s.px.geometry = some (configGeometry p) → u.px = s.px ∧ u.copier = s.copier)
      ∧ (s.px.geometry ≠ some (configGeometry p) →
          u.px.pixels = [] ∧ u.px.tiles = [] ∧ u.px.walk = some (.initialise 0)
            ∧ u.copier.jobs = [] ∧ u.copier.overlays = [])
      ∧ (u.inflow.latch = true ↔ s.inflow.latch = true
          ∧ u.settings.highWatermark = s.settings.highWatermark ∧ u.settings.lowWatermark = s.settings.lowWatermark)
      ∧ u.temp.timer = (if u.settings.tempInterval = s.settings.tempInterval then s.temp.timer
          else u.settings.tempInterval))
    ∧ ∀ (t : Transfer) (s : State) (seq : Byte) (p : List Byte) (r : Result),
      arrivalOf t = .command .configure seq p → linkTakes s → settled s → firstRefusal (configureChecks p s) = some r →
      refuses (.configure t) .configure seq r s

/-- A RESTART clears the work and keeps the rest: queue but for an ADMITTING entry, line, log, flags, counters, inflow,
jobs and overlays go; ACTIVE lanes are aborted, ARMED ones released, RETIRING ones left; a request stays in the table
exactly if it has a lane or an ADMITTING entry, withdrawn, with its pages only for a COMPLETE walk and with the part of its
WAITING entry finished, and all other pages go back; freeze is off, ATTN released, rails ON or RISING fall (R42, R43, R59,
R77, R98, R116, R134, R144, R169, R179). That the aborts of the RESTART do not show in the cleared counters is the model's
choice (log 10), and so are the outcome of a removed entry's part (log 34) and the return of the pages of an abandoned job
(log 15). With a payload a RESTART is BAD_LENGTH and changes nothing but the link. -/
def Obligations.RestartClearsTheWork : Prop :=
  (∀ (t : Transfer) (s : State) (seq : Byte), arrivalOf t = .command .restart seq [] → linkTakes s →
    ∃ u, exec (.restart t) s = .next u ∧ answers u .restart seq .ok []
      ∧ u.req.queue = (s.req.queue.filter fun e => e.admitting) ∧ u.req.line = []
      ∧ u.req.table = (s.req.table.filter fun r => isAdmitting s r.age || anyLane s r.tag fun _ => true).map (fun r =>
          { (match entryOf s r.age with
              | some e =>
                if e.admitting = true then r
                else { r with partsFinished := r.partsFinished + 1, outcome := some (bringIn r.outcome .aborted) }
              | none => r) with
            withdrawn := true, tally := none, pages := if completing s r.tag = true then r.pages else none })
      ∧ (∀ page, page ∈ u.pool.free ↔
          page ∈ s.pool.free ∨ (∃ r ∈ s.req.table, completing s r.tag = false ∧ page ∈ r.pages.getD [])
            ∨ page ∈ copierPages s.copier)
      ∧ u.inflow = Inflow.initial ∧ u.copier = Copier.initial
      ∧ u.notices.flags = 0 ∧ u.notices.log = [] ∧ u.notices.attn = false
      ∧ u.notices.masks = s.notices.masks ∧ u.notices.priorities = s.notices.priorities
      ∧ u.counters = Counters.zero ∧ u.scan.freeze = false
      ∧ u.adm.passWanted = false ∧ u.adm.holdReported = false
      ∧ (∀ l, laneAt u l = (laneAt s l).map fun ln => match ln.state with
          | .armed => { ln with state := .retiring (.release .aborted) 0 }
          | .active => { ln with state := .retiring (.abort .restarted) 0 }
          | .retiring _ _ => ln)
      ∧ u.rails.state = (if s.rails.state = .on ∨ s.rails.state = .rising then .falling else s.rails.state)
      ∧ u.settings = s.settings ∧ u.px = s.px ∧ u.lib = s.lib ∧ u.temp = s.temp)
    -- what the clauses name
    ∧ (∀ (s : State) (tag age : Nat),
        (completing s tag = true ↔
            ∃ l ln done, laneAt s l = some ln ∧ ln.tag = tag ∧ ln.state = .retiring .complete done)
          ∧ ((anyLane s tag fun _ => true) = true ↔ ∃ l ln, laneAt s l = some ln ∧ ln.tag = tag)
          ∧ (isAdmitting s age = true ↔ ∃ e, entryOf s age = some e ∧ e.admitting = true))
    ∧ (∀ (c : Copier) (page : Nat), page ∈ copierPages c ↔
        (∃ o ∈ c.overlays, page ∈ o.pages)
          ∨ ∃ j ∈ c.jobs, (j.purpose = .push ∨ j.purpose = .swap) ∧ (∀ o ∈ c.overlays, o.capturing ≠ some j.age)
              ∧ page ∈ j.pages)
    ∧ ∀ (t : Transfer) (s : State) (seq : Byte) (p : List Byte),
      arrivalOf t = .command .restart seq p → linkTakes s → settled s → p ≠ [] → refuses (.restart t) .restart seq .badLength s

/-! ### Notices and the log -/

/-- NOTICE_SET is refused with BAD_LENGTH unless its payload is 7 bytes, with BAD_FIELD for mask bits 6 or 7 or a priority
outside 1 to 7, masks and priorities staying; else it sets them all, in every state of the part, ATTN takes its level, the
reply's trailer shows it, and flags and log stay. Power-on and the RESET pin mask every group with priorities 5, 7, 4, 2, 3,
1; RESTART and CONFIGURE keep both (R174). -/
def Obligations.NoticeSetSetsMasksAndPriorities : Prop :=
  (∀ (t : Transfer) (s : State) (seq : Byte) (p : List Byte),
      arrivalOf t = .command .noticeSet seq p → linkTakes s →
      (p.length ≠ 7 → ∃ u, exec (.noticeSet t) s = .next u ∧ answers u .noticeSet seq .badLength []
          ∧ u.notices.masks = s.notices.masks ∧ u.notices.priorities = s.notices.priorities)
        ∧ (p.length = 7 →
            (64 ≤ field p 0 1 ∨ ∃ g : Fin 6, field p (1 + g.val) 1 < 1 ∨ 7 < field p (1 + g.val) 1) →
            ∃ u, exec (.noticeSet t) s = .next u ∧ answers u .noticeSet seq .badField []
              ∧ u.notices.masks = s.notices.masks ∧ u.notices.priorities = s.notices.priorities)
        ∧ (p.length = 7 → field p 0 1 < 64 →
            (∀ g : Fin 6, 1 ≤ field p (1 + g.val) 1 ∧ field p (1 + g.val) 1 ≤ 7) →
            ∃ u reply, exec (.noticeSet t) s = .next u ∧ answers u .noticeSet seq .ok []
              ∧ (∀ g : Fin 6, u.notices.masks.getLsbD g.val = (field p 0 1).testBit g.val)
              ∧ (∀ g : Fin 6, u.notices.priorities.get g = field p (1 + g.val) 1)
              ∧ u.notices.attn = u.notices.attnLevel
              ∧ u.link.slot = some reply ∧ reply.trailer.attn = u.notices.attn
              ∧ (settled s → u.notices.flags = s.notices.flags ∧ u.notices.log = s.notices.log)))
    ∧ (∀ (c : Instr) (s u : State), c = .powerOn ∨ c = .resetPin → exec c s = .next u →
        u.notices.masks = 0x3F ∧ u.notices.priorities = #v[5, 7, 4, 2, 3, 1])
    ∧ ∀ (t : Transfer) (s u : State), exec (.restart t) s = .next u ∨ exec (.configure t) s = .next u →
        u.notices.masks = s.notices.masks ∧ u.notices.priorities = s.notices.priorities

/-- NOTICE_TAKE returns, of the pending sources in unmasked groups, the one of the highest priority and then of the lowest
number, and clears its flag, but for COMPLETION; with none it returns 0xFF and changes no notice. COMPLETION is pending while
the log holds a record, any other source by the flag of its number, and a group is unmasked while its mask bit is clear (R171
to R173, R175). -/
def Obligations.NoticeTakeReturnsTheHighestPriority : Prop :=
  ([NoticeSource.completion, .starved, .railFault, .tempHold, .tempStale, .refill, .inflowDiscard, .overlayLost,
      .libraryDone, .ghost, .queueRoom, .linkError].map (fun src => (src.number, src.group.val))
      = (0, 0) :: flaggedSources)
    ∧ (∀ (n : Notices) (src : NoticeSource),
        (n.isPending src = true ↔
            src = .completion ∧ n.log ≠ [] ∨ src ≠ .completion ∧ n.flags.getLsbD src.number = true)
          ∧ (n.unmasked src = true ↔ n.masks.getLsbD src.group.val = false) ∧ src.mask = 1#12 <<< src.number)
    ∧ ∀ (t : Transfer) (s : State) (seq : Byte) (p : List Byte),
    arrivalOf t = .command .noticeTake seq p → linkTakes s → settled s →
    (p ≠ [] → ∃ u, exec (.noticeTake t) s = .next u ∧ answers u .noticeTake seq .badLength []
        ∧ u = { s with link := u.link })
      ∧ (∀ src : NoticeSource, p = [] → s.notices.isPending src = true → s.notices.unmasked src = true →
          (∀ o : NoticeSource, s.notices.isPending o = true → s.notices.unmasked o = true →
            s.notices.priorities.get o.group < s.notices.priorities.get src.group
              ∨ s.notices.priorities.get o.group = s.notices.priorities.get src.group ∧ src.number ≤ o.number) →
          ∃ u, exec (.noticeTake t) s = .next u
            ∧ answers u .noticeTake seq .ok [BitVec.ofNat 8 src.number]
            ∧ u = { s with
                link := u.link
                notices := { s.notices with
                  flags := if src = .completion then s.notices.flags else s.notices.flags &&& ~~~ src.mask
                  attn := u.notices.attn } })
      ∧ (p = [] → (∀ o : NoticeSource, ¬ (s.notices.isPending o = true ∧ s.notices.unmasked o = true)) →
          ∃ u, exec (.noticeTake t) s = .next u ∧ answers u .noticeTake seq .ok [0xFF]
            ∧ u = { s with link := u.link })

/-- READ_LOG returns and removes the oldest records, as many as the count or as the log holds, 13 bytes each: tag, outcome
code, selectors of the requested mode and of the mode used, upgrade reason, band or 0xFF, parts used, pixels driven, largest
frame count; behind the rest the log accepts the records of the line in its order, as far as it has room and the next has no
pages left to give back, and their requests leave line and table. QUEUE_ROOM, flag 10, is raised where the table goes from 24
records to fewer; READ_LOG raises nothing else. Every command but RESTART and the resets that leaves fewer than 24 of 24
records raises it (R45, R57, R62, R176, R177). -/
def Obligations.ReadLogReturnsTheOldestRecords : Prop :=
  (∀ (c : CompletionRecord) (outcome : ReqOutcome → Byte) (selector : Mode → Byte),
      [ReqOutcome.done, .noChange, .cancelled, .aborted, .starved, .railLost, .ghostRefused, .unsupported, .flushed].map
          outcome = [0, 1, 2, 3, 4, 5, 6, 7, 8] →
      [Mode.blank, .clear, .settle, .quick, .stroke].map selector = [1, 2, 3, 4, 5] →
      c.bytes = leBytes 2 c.tag
          ++ [outcome c.outcome, selector c.requestedMode, selector c.modeUsed,
              match c.upgradeReason with | none => 0 | some .residue => 1 | some .balance => 2 | some .indeterminate => 3,
              match c.band with | none => 0xFF | some band => BitVec.ofNat 8 band,
              BitVec.ofNat 8 c.partsUsed]
          ++ leBytes 4 c.pixelsDriven ++ [BitVec.ofNat 8 c.largestFrames]
        ∧ c.bytes.length = 13)
    ∧ (∀ (s : State) (h : Reporting),
        readyToOffer s h = true ↔ ∀ r, findAge s h.age = some r → r.pages = none)
    ∧ (∀ (c : Instr) (s u : State), exec c s = .next u → resets c = false → (∀ t, c ≠ .restart t) →
        24 ≤ s.req.table.length → u.req.table.length < 24 → u.notices.flags.getLsbD 10 = true)
    ∧ ∀ (t : Transfer) (s : State) (seq : Byte) (p : List Byte),
      arrivalOf t = .command .readLog seq p → linkTakes s → settled s → (s.req.line.map fun h => h.age).Nodup →
      (p.length ≠ 1 → ∃ u, exec (.readLog t) s = .next u ∧ answers u .readLog seq .badLength []
          ∧ u = { s with link := u.link })
        ∧ (p.length = 1 → field p 0 1 = 0 ∨ 32 < field p 0 1 →
            ∃ u, exec (.readLog t) s = .next u ∧ answers u .readLog seq .badField [] ∧ u = { s with link := u.link })
        ∧ (p.length = 1 → 1 ≤ field p 0 1 → field p 0 1 ≤ 32 →
            ∃ u k, exec (.readLog t) s = .next u
              ∧ answers u .readLog seq .ok
                  (BitVec.ofNat 8 (min (field p 0 1) s.notices.log.length)
                    :: (s.notices.log.take (field p 0 1)).flatMap CompletionRecord.bytes)
              ∧ u.notices.log = s.notices.log.drop (field p 0 1) ++ (s.req.line.take k).map (fun h => h.record)
              ∧ u.req = { s.req with
                  line := s.req.line.drop k
                  table := s.req.table.filter fun r => (s.req.line.take k).all fun h => h.age ≠ r.age }
              ∧ (24 ≤ s.req.table.length ∧ u.req.table.length < 24 →
                  u.notices.flags = s.notices.flags ||| NoticeSource.queueRoom.mask)
              ∧ (s.req.table.length < 24 ∨ 24 ≤ u.req.table.length → u.notices.flags = s.notices.flags)
              ∧ (∀ i h, i < k → s.req.line[i]? = some h →
                  (s.notices.log.drop (field p 0 1)).length + i < 32 ∧ readyToOffer s h = true)
              ∧ k ≤ s.req.line.length
              ∧ ∀ h, s.req.line[k]? = some h →
                  ¬ ((s.notices.log.drop (field p 0 1)).length + k < 32 ∧ readyToOffer s h = true))

/-! ### The library -/

/-- An accepted LIB_BEGIN opens a load with the bounds and the directory it carries, nothing received, the running CRC at
0xFFFF, and answers the expected size: over the sets, 16 entries in BLANK or 256, of ⌈N / 4⌉ bytes each; the generation number
stays. It is checked in the order of R27, and the first check that fails decides; a refused one changes nothing but the link
(R18, R20, R27, R28). That the CRC of the last LIB_COMMIT stays (log 24), and that an empty payload fails the length check
(log 16), are the model's choices. -/
def Obligations.LibBeginOpensALoad : Prop :=
  (∀ (t : Transfer) (s : State) (seq : Byte) (p : List Byte),
    arrivalOf t = .command .libBegin seq p → linkTakes s →
    s.mem.calibrating = false → s.lib.commit = .none → (∀ l, laneAt s l = none) → s.req.table = [] →
    1 ≤ libBandCount p → libBandCount p ≤ 12 → p.length = 3 + 12 * libBandCount p → libFieldsBad p = false →
    ∃ u, exec (.libBegin t) s = .next u
      ∧ answers u .libBegin seq .ok (leBytes 4 (expectedSize (libBandCount p) (libDirectory p)))
      ∧ u.lib = { state := .loading, reason := .none, generation := s.lib.generation, bounds := libBounds p,
                  directory := libDirectory p, data := [], imbalances := [],
                  expected := expectedSize (libBandCount p) (libDirectory p), received := 0, crc := 0xFFFF,
                  hostCrc := s.lib.hostCrc, write := none, commit := .none, moved := 0 })
    ∧ (∀ (bands : Nat) (directory : List WaveSet), 1 ≤ bands →
        expectedSize bands directory =
          (directory.zipIdx.map fun e => (if e.2 < bands then 16 else 256) * ((e.1.frames + 3) / 4)).sum)
    ∧ (∀ p : List Byte, libBandCount p = field p 0 1
        ∧ libBounds p = (List.range (libBandCount p + 1)).map (fun k => fieldSigned p (1 + 2 * k))
        ∧ libDirectory p = (List.range (5 * libBandCount p)).map fun set =>
            { frames := field p (3 + 2 * libBandCount p + 2 * set) 1
              leads := field p (3 + 2 * libBandCount p + 2 * set + 1) 1 })
    ∧ ∀ (t : Transfer) (s : State) (seq : Byte) (p : List Byte) (r : Result),
      arrivalOf t = .command .libBegin seq p → linkTakes s → settled s → firstRefusal (libBeginChecks p s) = some r →
      refuses (.libBegin t) .libBegin seq r s

/-- A LIB_DATA at the next expected offset takes its bytes into the count and the running CRC and begins their write;
at another offset it answers SEQUENCE with the next expected offset and changes no library state; its checks come in
the order of R29. R29 sets the count no limit: that it goes on past 2^32 - 1, that the reply then carries it modulo 2^32,
and that no offset equals it from there on, so that every further chunk is answered with SEQUENCE, is the model's choice
(log 35). -/
def Obligations.LibDataExtendsTheLoad : Prop :=
  ∀ (t : Transfer) (s : State) (seq : Byte) (p : List Byte),
    arrivalOf t = .command .libData seq p → linkTakes s →
    (p.length < 5 ∨ 4100 < p.length → ∃ u, exec (.libData t) s = .next u ∧ answers u .libData seq .badLength []
        ∧ u.lib = s.lib)
      ∧ (5 ≤ p.length → p.length ≤ 4100 → s.lib.state ≠ .loading →
          ∃ u, exec (.libData t) s = .next u ∧ answers u .libData seq .notLoading [] ∧ u.lib = s.lib)
      ∧ (5 ≤ p.length → p.length ≤ 4100 → s.lib.state = .loading → (s.lib.commit ≠ .none ∨ s.lib.write ≠ none) →
          ∃ u, exec (.libData t) s = .next u ∧ answers u .libData seq .busy [] ∧ u.lib = s.lib)
      ∧ (5 ≤ p.length → p.length ≤ 4100 → s.lib.state = .loading → s.lib.commit = .none → s.lib.write = none →
          (field p 0 4 ≠ s.lib.received →
            ∃ u, exec (.libData t) s = .next u ∧ answers u .libData seq .sequence (leBytes 4 s.lib.received)
              ∧ u.lib = s.lib)
          ∧ (field p 0 4 = s.lib.received →
              ∃ u, exec (.libData t) s = .next u
                ∧ answers u .libData seq .ok (leBytes 4 (s.lib.received + (p.length - 4)))
                ∧ u.lib = { s.lib with
                    crc := crcFold s.lib.crc (p.drop 4)
                    received := s.lib.received + (p.length - 4)
                    write := some { offset := s.lib.received, bytes := p.drop 4 }
                    moved := 0 }))

/-- LIB_COMMIT is checked in the order of R31, and a refused one changes nothing but the link. An accepted one stores the
host's CRC and starts the commit walk, or requests it while a chunk write is in flight; the end of that write has stored the
chunk's bytes that lie below the expected size, those its bursts have left undone, and starts the walk requested. The walk's
end makes the library VALID, with the computed imbalances and the next generation number, where no check fails, and otherwise
INVALID with the first failing check's reason and no contents: SIZE, then CRC, then the entries, BAD_CODE for a code 3 and, in
BLANK and CLEAR, UNBALANCED for an imbalance as driven that is not 0; either raises LIBRARY_DONE. The imbalance is DARKENs
less LIGHTENs over the entry as driven, its codes below the lead count taken from its lead entry; the codes are read as R28
lays them out. A walk that will fail on SIZE or CRC reads nothing: it does not wait for the frame memory (R20 to R23, R26, R28
to R33). That the end of the write does what the bursts have left undone, in the chunk's order, is the model's choice (logs 7
and 19), and so are the sizes and CRCs a library shows after its load (log 24). -/
def Obligations.LibCommitStartsTheCommitWalk : Prop :=
  (∀ (t : Transfer) (s : State) (seq : Byte) (p : List Byte),
      arrivalOf t = .command .libCommit seq p → linkTakes s →
      p.length = 2 → s.lib.state = .loading → s.lib.commit = .none →
      ∃ u, exec (.libCommit t) s = .next u ∧ answers u .libCommit seq .ok []
        ∧ u.lib = { s.lib with
            hostCrc := BitVec.ofNat 16 (field p 0 2)
            commit := if s.lib.write = none then .walking else .requested
            moved := if s.lib.write = none then 0 else s.lib.moved }
        ∧ (settled s → s.lib.write = none →
            s.lib.received ≠ s.lib.expected ∨ s.lib.crc ≠ BitVec.ofNat 16 (field p 0 2) → u.mem = s.mem))
    ∧ (∀ (s : State) (c : LibChunk), s.lib.write = some c →
      ∃ u, exec .libChunkWriteEnd s = .next u
        ∧ u.lib = { s.lib with
            data := s.lib.data ++ (c.bytes.take (s.lib.expected - c.offset)).drop s.lib.moved
            write := none
            moved := 0
            commit := if s.lib.commit = .requested then .walking else s.lib.commit })
    ∧ (∀ s : State, s.lib.commit = .walking → s.lib.generation ≤ 65535 →
      ∃ u, exec .commitWalkEnd s = .next u ∧ u.notices.flags.getLsbD 8 = true
        ∧ (s.lib.commitFault = none →
            u.lib = { s.lib with
              state := .valid, reason := .none
              generation := if s.lib.generation = 65535 then 1 else s.lib.generation + 1
              imbalances := s.lib.allImbalances, commit := .none, moved := 0 })
        ∧ ∀ reason, s.lib.commitFault = some reason →
            u.lib = { Library.initial with
              state := .invalid, reason := reason, generation := s.lib.generation })
    ∧ (∀ lib : Library, lib.received ≠ lib.expected → lib.commitFault = some .size)
    ∧ (∀ lib : Library, lib.received = lib.expected → lib.crc ≠ lib.hostCrc → lib.commitFault = some .crc)
    ∧ (∀ lib : Library, lib.commitFault = none ↔
        lib.received = lib.expected ∧ lib.crc = lib.hostCrc
          ∧ ∀ set w, lib.directory[set]? = some w → w.frames ≠ 0 → ∀ e ∈ readingOrder (modeOfSet lib.bandCount set),
              lib.entryFault set w e = none)
    -- the entries: their order, their codes, and their imbalances, in the terms of storedCode and drivenImbalance
    ∧ (∀ bands set : Nat, 1 ≤ bands →
        readingOrder (modeOfSet bands set) =
          if set < bands then List.range 16
          else (List.range 16).flatMap fun f =>
            (f * 16 + f) :: ((List.range 16).filter fun t => decide (t ≠ f)).map fun t => f * 16 + t)
    ∧ (∀ (lib : Library) (set e : Nat) (w : WaveSet), 1 ≤ lib.bandCount →
        ((∃ i < w.frames, storedCode lib set w e i = 3) → lib.entryFault set w e = some .badCode)
          ∧ ((∀ i < w.frames, storedCode lib set w e i ≠ 3) →
              (set < 2 * lib.bandCount → drivenImbalance lib set w e ≠ 0 → lib.entryFault set w e = some .unbalanced)
                ∧ (2 * lib.bandCount ≤ set ∨ drivenImbalance lib set w e = 0 → lib.entryFault set w e = none)))
    ∧ (∀ (lib : Library) (set : Nat) (w : WaveSet), 1 ≤ lib.bandCount → lib.directory[set]? = some w → w.frames ≠ 0 →
        lib.allImbalances[set]? =
          some ((List.range (if set < lib.bandCount then 16 else 256)).map (drivenImbalance lib set w)))
    ∧ (∀ lib : Library, lib.bandCount = lib.bounds.length - 1)
    ∧ ∀ (t : Transfer) (s : State) (seq : Byte) (p : List Byte) (r : Result),
      arrivalOf t = .command .libCommit seq p → linkTakes s → settled s → firstRefusal (libCommitChecks p s) = some r →
      refuses (.libCommit t) .libCommit seq r s

/-- LIB_ABANDON: BAD_LENGTH with a payload, NOT_LOADING outside a load, BUSY with a commit walk; else the load is
discarded with any chunk write in flight, the state is EMPTY with reason NONE, the generation number stays, band and
temperature state are recomputed, and no notice is raised; only the end of a commit walk makes a library VALID (R34). -/
def Obligations.LibAbandonEndsTheLoad : Prop :=
  (∀ (c : Instr) (s u : State), exec c s = .next u → c ≠ .commitWalkEnd → u.lib.state = .valid →
      s.lib.state = .valid)
    ∧ ∀ (t : Transfer) (s : State) (seq : Byte) (p : List Byte),
    arrivalOf t = .command .libAbandon seq p → linkTakes s →
    (p ≠ [] → ∃ u, exec (.libAbandon t) s = .next u ∧ answers u .libAbandon seq .badLength [] ∧ u.lib = s.lib)
      ∧ (p = [] → s.lib.state ≠ .loading →
          ∃ u, exec (.libAbandon t) s = .next u ∧ answers u .libAbandon seq .notLoading [] ∧ u.lib = s.lib)
      ∧ (p = [] → s.lib.state = .loading → s.lib.commit ≠ .none →
          ∃ u, exec (.libAbandon t) s = .next u ∧ answers u .libAbandon seq .busy [] ∧ u.lib = s.lib)
      ∧ (p = [] → s.lib.state = .loading → s.lib.commit = .none → temperatureLaw s →
          ∃ u, exec (.libAbandon t) s = .next u ∧ answers u .libAbandon seq .ok []
            ∧ u.lib.state = .empty ∧ u.lib.reason = .none ∧ u.lib.generation = s.lib.generation
            ∧ u.lib.bounds = [] ∧ u.lib.directory = [] ∧ u.lib.data = [] ∧ u.lib.imbalances = []
            ∧ u.lib.write = none
            ∧ u.temp.band = none ∧ u.temp.state = tempStateOf s.temp.reading s.temp.staleness none
            ∧ u.notices.flags = s.notices.flags)

/-- The generation number is 0 after power-on and the RESET pin, goes up by 1 at each commit walk that ends VALID, 65535
being followed by 1, and is left by every other command and by a commit walk that ends INVALID (R26). -/
def Obligations.GenerationNumberFollowsTheCommits : Prop :=
  (∀ (c : Instr) (s u : State), resets c = true → exec c s = .next u → u.lib.generation = 0)
    ∧ (∀ s u : State, s.lib.generation ≤ 65535 → exec .commitWalkEnd s = .next u →
        u.lib.generation =
          (if u.lib.state = .valid then (if s.lib.generation = 65535 then 1 else s.lib.generation + 1)
            else s.lib.generation))
    ∧ ∀ (c : Instr) (s u : State), resets c = false → c ≠ .commitWalkEnd → exec c s = .next u →
        u.lib.generation = s.lib.generation

/-! ### Temperature and rails -/

/-- An accepted TEMP stores the reading, clears the staleness counter, reloads the timer and recomputes band and state; where
the state stays VALID and the band changes, pass wanted is set; a refused TEMP changes nothing but the link. The band is k
exactly where the library is VALID and bound k ≤ t < bound k + 1; the state is NONE without a reading, STALE at a counter of
3, else VALID with a band and OUT_OF_RANGE without. An expiry of the interval timer reloads it and moves the counter up to 3,
where the state is STALE and TEMP_STALE is raised. A change to VALID clears the temperature hold reported flag; a change away
from VALID with entries in the queue sets it, and raises TEMP_HOLD, flag 3, where it was clear (R19, R25, R79, R80, R145 to
R147). -/
def Obligations.ReadingsAndExpiriesMoveTheTemperature : Prop :=
  (∀ (t : Transfer) (s : State) (seq : Byte) (p : List Byte),
      arrivalOf t = .command .temp seq p → linkTakes s →
      p.length = 2 → -400 ≤ fieldSigned p 0 → fieldSigned p 0 ≤ 1000 →
      ∃ u, exec (.temp t) s = .next u
        ∧ answers u .temp seq .ok [BitVec.ofNat 8 u.temp.state.code, BitVec.ofNat 8 (bandCode u.temp.band)]
        ∧ u.temp = { reading := some (fieldSigned p 0), staleness := 0
                     band := s.lib.lookupBand (fieldSigned p 0)
                     state := if (s.lib.lookupBand (fieldSigned p 0)).isSome then .valid else .outOfRange
                     timer := s.settings.tempInterval }
        ∧ holdNoted s u
        ∧ (s.temp.state = .valid → u.temp.state = .valid → u.temp.band ≠ s.temp.band →
            held u = true ∨ s.adm.passRunning = true → u.adm.passWanted = true))
    ∧ (∀ s : State,
      ∃ u, exec .intervalTimerExpiry s = .next u ∧ u.temp.timer = s.settings.tempInterval
        ∧ holdNoted s u
        ∧ u.temp.reading = s.temp.reading
        ∧ (s.temp.reading = none ∨ 3 ≤ s.temp.staleness →
            u.temp.staleness = s.temp.staleness ∧ u.temp.state = s.temp.state)
        ∧ (s.temp.reading ≠ none → s.temp.staleness < 3 → u.temp.staleness = s.temp.staleness + 1)
        ∧ (s.temp.reading ≠ none → s.temp.staleness = 2 →
            u.temp.state = .stale ∧ u.notices.flags.getLsbD 4 = true))
    ∧ (∀ (lib : Library) (t : Int) (k : Nat), (lib.bounds.Pairwise fun a b => a < b) →
        (lib.lookupBand t = some k ↔ lib.state = .valid
          ∧ ∃ lo hi, lib.bounds[k]? = some lo ∧ lib.bounds[k + 1]? = some hi ∧ lo ≤ t ∧ t < hi))
    ∧ (∀ (reading : Int) (staleness band : Nat),
        tempStateOf none staleness none = .none
          ∧ tempStateOf (some reading) 3 (some band) = .stale ∧ tempStateOf (some reading) 3 none = .stale
          ∧ (staleness ≠ 3 → tempStateOf (some reading) staleness (some band) = .valid
              ∧ tempStateOf (some reading) staleness none = .outOfRange))
    ∧ ([TempState.none, .valid, .outOfRange, .stale].map TempState.code = [0, 1, 2, 3] ∧ bandCode none = 0xFF
        ∧ ∀ band, bandCode (some band) = band)
    ∧ ∀ (t : Transfer) (s : State) (seq : Byte) (p : List Byte) (r : Result),
      arrivalOf t = .command .temp seq p → linkTakes s → settled s → firstRefusal (tempChecks p) = some r →
      refuses (.temp t) .temp seq r s

/-- Every RAILS, in each of its two rows and whatever its result, is answered with the code of the rail state after the
command: 0 OFF, 1 RISING, 2 ON, 3 FALLING, 4 FAULT; a payload that is not 1 byte is BAD_LENGTH, an action that is neither 0
OFF nor 1 CLEAR_FAULT is BAD_FIELD (R141, R142); OFF is answered with OK or BUSY, CLEAR_FAULT with OK; one that is refused
changes nothing but the link (R142, R143). That a
refused form belongs to either of the two rows is the model's choice (log 4). -/
def Obligations.RailsAlwaysAnswersTheRailState : Prop :=
  (RailState.off.code = 0 ∧ RailState.rising.code = 1 ∧ RailState.on.code = 2 ∧ RailState.falling.code = 3
      ∧ RailState.fault.code = 4)
    ∧ ∀ (t : Transfer) (s : State) (seq : Byte) (p : List Byte) (c : Instr),
      arrivalOf t = .command .rails seq p → linkTakes s →
      c = .railsOff t ∧ p ≠ [1] ∨ c = .railsClearFault t ∧ p ≠ [0] →
      ∃ u r, exec c s = .next u ∧ answers u .rails seq r [BitVec.ofNat 8 u.rails.state.code]
        ∧ (p.length ≠ 1 → r = .badLength) ∧ (p.length = 1 → 1 < field p 0 1 → r = .badField)
        ∧ (p = [1] → r = .ok) ∧ (p = [0] → r = .ok ∨ r = .busy)
        ∧ (r ≠ .ok → settled s → u = { s with link := u.link })

/-- RAILS OFF in ON without demand, and the idle timer's expiry, start the fall; RAILS OFF elsewhere is BUSY and leaves the
rails; CLEAR_FAULT ends a fault, and elsewhere answers OK and changes nothing; the end of a fault and the end of the fall time
give OFF, or with demand, which is a lane ARMED or ACTIVE, RISING. Whatever command begins it: RISING asserts the enable line
and loads the rise timer with the rise timeout; an idle timer that begins to run is loaded with the hold time, in ON without
demand, and with a hold time of 0 the rails fall at once; FALLING releases the enable line, stops both timers and takes 20 ms;
the frame timer is loaded with the frame period (R102, R135, R137 to R139, R142, R143). -/
def Obligations.RailCommandsAndTimersMoveTheRails : Prop :=
  (∀ (t : Transfer) (s : State) (seq : Byte), arrivalOf t = .command .rails seq [0] → linkTakes s →
      (s.rails.state = .on → demand s = false →
          ∃ u, exec (.railsOff t) s = .next u ∧ answers u .rails seq .ok [3]
            ∧ u.rails = { s.rails with state := .falling, enable := false, riseTimer := none, idleTimer := none,
                                       fallTime := some 20 })
        ∧ (s.rails.state ≠ .on ∨ demand s = true → settled s →
            ∃ u, exec (.railsOff t) s = .next u
              ∧ answers u .rails seq .busy [BitVec.ofNat 8 s.rails.state.code] ∧ u = { s with link := u.link }))
    ∧ (∀ (t : Transfer) (s : State) (seq : Byte), arrivalOf t = .command .rails seq [1] → linkTakes s →
        (s.rails.state = .fault →
            ∃ u, exec (.railsClearFault t) s = .next u
              ∧ u.rails = (if demand s = true then
                  { s.rails with state := .rising, enable := true, riseTimer := some s.settings.riseTimeout
                                 idleTimer := none }
                else { s.rails with state := .off, idleTimer := none })
              ∧ answers u .rails seq .ok [if demand s = true then 1 else 0])
          ∧ (s.rails.state ≠ .fault → settled s →
              ∃ u, exec (.railsClearFault t) s = .next u
                ∧ answers u .rails seq .ok [BitVec.ofNat 8 s.rails.state.code] ∧ u = { s with link := u.link }))
    ∧ (∀ s : State, s.rails.state = .on → s.rails.idleTimer ≠ none →
        ∃ u, exec .idleTimerExpiry s = .next u
          ∧ u.rails = { s.rails with state := .falling, enable := false, riseTimer := none, idleTimer := none,
                                     fallTime := some 20 })
    ∧ (∀ s : State, s.rails.state = .falling → s.rails.fallTime ≠ none →
        ∃ u, exec .fallTimeEnd s = .next u
          ∧ u.rails = (if demand s = true then
              { s.rails with state := .rising, enable := true, riseTimer := some s.settings.riseTimeout
                             idleTimer := none, fallTime := none }
            else { s.rails with state := .off, idleTimer := none, fallTime := none }))
    ∧ (∀ s : State, demand s = true ↔ ∃ l ln, laneAt s l = some ln ∧ (ln.state = .armed ∨ ln.state = .active))
    -- what begins with a rail state or a timer, whatever the command
    ∧ ∀ (c : Instr) (s u : State), exec c s = .next u → resets c = false →
        (u.rails.state = .rising → s.rails.state ≠ .rising →
            u.rails.enable = true ∧ u.rails.riseTimer = some u.settings.riseTimeout)
          ∧ (u.rails.idleTimer ≠ s.rails.idleTimer → u.rails.idleTimer ≠ none →
              u.rails.idleTimer = some u.settings.holdTime ∧ 0 < u.settings.holdTime ∧ u.rails.state = .on
                ∧ demand u = false)
          ∧ (settled s → s.rails.state = .on → s.rails.idleTimer = none → demand u = false → u.settings.holdTime = 0 →
              u.rails.state = .falling ∨ u.rails.state = .fault)
          ∧ (u.rails.state = .falling → s.rails.state ≠ .falling →
              u.rails.enable = false ∧ u.rails.riseTimer = none ∧ u.rails.idleTimer = none ∧ u.rails.fallTime = some 20)
          ∧ (u.scan.timer ≠ s.scan.timer → u.scan.timer ≠ none → u.scan.timer = some u.settings.framePeriod)

/-- Every power-good sample passes the two-sample filter: a level is accepted when two samples in a row show it. In RISING
with a high accepted level the rails are ON: with demand the frame timer runs with the frame period; without, the idle timer
runs with the hold time, or with a hold time of 0 the rails fall at once. Any other sample, but for the loss of power-good in
ON, changes the filter alone, and so leaves the rail state (R102, R136 to R139). -/
def Obligations.PowerGoodIsFiltered : Prop :=
  ∀ (high : Bool) (s : State),
    ∃ u, exec (.powerGoodSample high) s = .next u ∧ u.rails.lastSample = high
      ∧ u.rails.accepted = (if high = s.rails.lastSample then high else s.rails.accepted)
      ∧ (s.rails.state = .rising → u.rails.accepted = true → demand s = true →
          u.rails.state = .on ∧ u.rails.enable = s.rails.enable ∧ u.rails.riseTimer = none ∧ u.rails.idleTimer = none
            ∧ (s.scan.timer = none → u.scan.timer = some s.settings.framePeriod))
      ∧ (s.rails.state = .rising → u.rails.accepted = true → demand s = false → s.rails.idleTimer = none →
          (s.settings.holdTime ≠ 0 → u.rails.state = .on ∧ u.rails.enable = s.rails.enable ∧ u.rails.riseTimer = none
              ∧ u.rails.idleTimer = some s.settings.holdTime)
            ∧ (s.settings.holdTime = 0 → u.rails.state = .falling ∧ u.rails.enable = false ∧ u.rails.riseTimer = none
                ∧ u.rails.idleTimer = none ∧ u.rails.fallTime = some 20))
      ∧ (settled s → ¬ (s.rails.state = .rising ∧ u.rails.accepted = true) →
          ¬ (s.rails.state = .on ∧ s.rails.accepted = true ∧ u.rails.accepted = false) →
          u = { s with rails := { s.rails with lastSample := high, accepted := u.rails.accepted } })

/-- A rail fault, by the loss of power-good in ON or by the rise timeout, releases the enable line, stops the timers,
raises RAIL_FAULT, aborts every ACTIVE lane with RAIL_LOST and leaves RETIRING ones. The rest of a request with an ACTIVE lane
is withdrawn with RAIL_LOST; with flush-on-fault on, that of every other live INFLOW request, not withdrawn, with an open tally
and rows to be written, with FLUSHED. Every other request that has parts to finish keeps its record, its tally, its entry and
its ARMED lanes (R54, R64, R75, R115, R140). -/
def Obligations.RailFaultsAbortEveryActiveLane : Prop :=
  ∀ (c : Instr) (s : State),
    c = .powerGoodSample false ∧ s.rails.state = .on ∧ s.rails.accepted = true ∧ s.rails.lastSample = false
      ∨ c = .riseTimeout ∧ s.rails.state = .rising ∧ s.rails.riseTimer ≠ none →
    ∃ u, exec c s = .next u ∧ u.rails.state = .fault ∧ u.rails.enable = false
      ∧ u.rails.riseTimer = none ∧ u.rails.idleTimer = none ∧ u.scan.timer = none
      ∧ u.notices.flags.getLsbD 2 = true
      ∧ (∀ l ln, laneAt s l = some ln → ln.state = .active →
          laneAt u l = some { ln with state := .retiring (.abort .railLost) 0 })
      ∧ (∀ l ln kind done, laneAt s l = some ln → ln.state = .retiring kind done → laneAt u l = some ln)
      ∧ (ownershipLaw s → ∀ r ∈ s.req.table,
          (r.flushable = true ↔ r.source = .inflow ∧ r.withdrawn = false ∧ r.rowsWritten < r.rect.height
              ∧ ∃ rows, r.tally = some { rowsAccepted := rows, closed := false })
          ∧ (anyLane s r.tag (fun st => decide (st = .active)) = true → restWithdrawn s u r .railLost)
          ∧ (anyLane s r.tag (fun st => decide (st = .active)) = false →
              (s.settings.flushOnFault = true → r.flushable = true → restWithdrawn s u r .flushed)
                ∧ (s.settings.flushOnFault = false ∨ r.flushable = false → r.withdrawn = false →
                    r.partsFinished < r.partsUsed →
                    findAge u r.age = some r ∧ (∀ e ∈ s.req.queue, e.age = r.age → e ∈ u.req.queue)
                      ∧ ∀ l ln, laneAt s l = some ln → ln.tag = r.tag → laneAt u l = some ln)))

/-! ### Requests and inflow -/

/-- An accepted POST_UPDATE is answered OK and takes the next posting order number. It leaves a state v with the new record and
its entry at the tails of table and queue, INFLOW having taken the lowest-numbered free pages, pass wanted set and, in a
temperature hold not reported yet, TEMP_HOLD raised; all else is as it was, and `finish` ends the event. While admission is
held or a pass is running that leaves requests, pages and the Admission Unit as they are in v. It is checked in the order of R46, and the
first check that fails decides; a refused one changes nothing but the link (R7, R35, R38, R40, R45 to R48, R61, R79, R80). -/
def Obligations.PostUpdateCreatesItsRequest : Prop :=
  (∀ (t : Transfer) (s : State) (seq : Byte) (p : List Byte) (f : PostUpdate),
    arrivalOf t = .command .postUpdate seq p → linkTakes s →
    p.length = 16 → s.mem.calibrating = false → postUpdateFields p = some f → rectCheck s.px.geometry f.rect = none →
    s.lib.state ≠ .loading → (∀ r ∈ s.req.table, r.tag ≠ f.tag) → s.req.table.length < 24 →
    (f.source = .inflow → pagesNeeded f.rect ≤ s.pool.free.length) →
    ∃ u, exec (.postUpdate t) s = .next u ∧ answers u .postUpdate seq .ok []
      ∧ u.req.nextAge = s.req.nextAge + 1
      ∧ ∃ v r, u = { finish s v with link := u.link }
          ∧ v = { s with link := v.link, req := v.req, pool := v.pool, adm := v.adm, notices := v.notices }
          ∧ v.req = { s.req with
              table := s.req.table ++ [r]
              queue := s.req.queue
                ++ [{ age := s.req.nextAge, part := 1, upgradePending := false, admitting := false }]
              nextAge := s.req.nextAge + 1 }
          ∧ v.pool = { s.pool with
              free := if f.source = .inflow then s.pool.free.drop (pagesNeeded f.rect) else s.pool.free }
          ∧ postingNoted s v
          ∧ (held s = true ∨ s.adm.passRunning = true → u.req = v.req ∧ u.pool = v.pool ∧ u.adm = v.adm
              ∧ u.notices.flags = v.notices.flags)
          ∧ r.age = s.req.nextAge ∧ r.tag = f.tag ∧ r.source = f.source
          ∧ r.rect = f.rect ∧ r.requestedMode = f.choice.mode ∧ r.ghost = f.choice.ghost
          ∧ r.collision = (if f.choice.mode.clearing then .wait else f.choice.collision) ∧ r.early = f.early
          ∧ r.pages = (if f.source = .inflow then some (s.pool.free.take (pagesNeeded f.rect)) else none)
          ∧ r.rowsWritten = (if f.source = .inflow then 0 else f.rect.height)
          ∧ r.state = .openState ∧ r.withdrawn = false ∧ r.cancelPending = .none ∧ r.withdrawalPending = none
          ∧ r.partsUsed = 1 ∧ r.partsFinished = 0 ∧ r.outcome = none ∧ r.modeUsed = none ∧ r.bandUsed = none
          ∧ r.upgradeReason = none ∧ r.pixelsDriven = 0 ∧ r.largestFrames = 0
          ∧ r.tally = (if f.source = .inflow then some { rowsAccepted := 0, closed := false } else none))
    -- the payload's fields, the pages a rectangle needs, and the codes
    ∧ (∀ (p : List Byte) (f : PostUpdate), postUpdateFields p = some f →
        f.tag = field p 0 2 ∧ f.rect = rectField p 2 ∧ postChoice p 10 = some f.choice
          ∧ (field p 13 1 = 0 → f.source = .inflow)
          ∧ (field p 13 1 = 1 → f.source = .fill (
              if f.choice.mode ≠ .quick then BitVec.ofNat 4 (field p 14 1) else if field p 14 1 < 8 then 0 else 15))
          ∧ (f.early = true ↔ field p 15 1 = 1))
    ∧ (∀ (p : List Byte) (off : Nat) (c : PostChoice), postChoice p off = some c →
        [Mode.blank, .clear, .settle, .quick, .stroke][field p off 1 - 1]? = some c.mode ∧ 1 ≤ field p off 1
          ∧ [GhostPolicy.upgrade, .refuse, .force][field p (off + 1) 1]? = some c.ghost
          ∧ [CollisionPolicy.wait, .split][field p (off + 2) 1]? = some c.collision)
    ∧ (∀ (p : List Byte) (off : Nat), rectField p off =
        { col := field p off 2, row := field p (off + 2) 2, width := field p (off + 4) 2, height := field p (off + 6) 2 })
    ∧ (∀ r : Rect, pagesNeeded r = (r.height * r.width / 2 + 4095) / 4096)
    ∧ (∀ m : Mode, m.clearing = true ↔ m = .blank ∨ m = .clear)
    ∧ ∀ (t : Transfer) (s : State) (seq : Byte) (p : List Byte) (r : Result),
      arrivalOf t = .command .postUpdate seq p → linkTakes s → settled s → firstRefusal (postUpdateChecks p s) = some r →
      refuses (.postUpdate t) .postUpdate seq r s

/-- PIXELS at the next expected row is accepted: OK with the row after it, the rows counted, the chunk at the tail of the
buffer, where an idle writer takes it at once, and the refill latch armed where the fill level is then at or above the high
watermark; at another row it is refused with ROW_ORDER and the row expected, counted as a refusal, and leaves the inflow as it
was. Neither raises a notice of the Inflow Unit or touches the discard flag. The checks are made in the order of R65, and the first
that fails decides; a refused one counts in the inflow refusals and changes nothing else but the link (R63, R65, R66, R68, R71,
R72). That an INFLOW request has a tally is kept by every step (`rowsLaw`). -/
def Obligations.PixelsAreAcceptedInOrder : Prop :=
  (∀ (t : Transfer) (s : State) (seq : Byte) (p : List Byte) (r : Request) (rows : Nat),
    arrivalOf t = .command .pixels seq p → linkTakes s → settled s →
    8 ≤ p.length → (pixelsFields p).dataLength = (pixelsFields p).data.length → s.mem.calibrating = false →
    findTag s (pixelsFields p).tag = some r → findAge s r.age = some r → r.withdrawn = false → r.source = .inflow →
    r.tally = some { rowsAccepted := rows, closed := false } → rows ≠ r.rect.height → (pixelsFields p).rowCount ≠ 0 →
    ((pixelsFields p).firstRow ≠ rows →
        ∃ u, exec (.pixels t) s = .next u ∧ answers u .pixels seq .rowOrder (leBytes 2 rows) ∧ u.inflow = s.inflow
          ∧ u.counters = { s.counters with inflowRefusals := bump s.counters.inflowRefusals })
      ∧ ((pixelsFields p).firstRow = rows → rows + (pixelsFields p).rowCount ≤ r.rect.height →
          (pixelsFields p).dataLength = (pixelsFields p).rowCount * (r.rect.width / 2) →
          (pixelsFields p).dataLength ≤ freeSpace s →
          ∃ u, exec (.pixels t) s = .next u
            ∧ answers u .pixels seq .ok (leBytes 2 (rows + (pixelsFields p).rowCount))
            ∧ findAge u r.age =
                some { r with tally := some { rowsAccepted := rows + (pixelsFields p).rowCount, closed := false } }
            ∧ (s.inflow.writing ≠ none →
                u.inflow.writing = s.inflow.writing
                  ∧ u.inflow.buffer = s.inflow.buffer
                    ++ [{ age := r.age, firstRow := rows, rowCount := (pixelsFields p).rowCount,
                          data := (pixelsFields p).data }])
            ∧ (s.inflow.writing = none → s.inflow.buffer = [] →
                u.inflow.writing = some 0
                  ∧ u.inflow.buffer = [{ age := r.age, firstRow := rows, rowCount := (pixelsFields p).rowCount,
                                         data := (pixelsFields p).data }])
            ∧ (s.inflow.writing ≠ none ∨ s.inflow.buffer = [] →
                (u.inflow.latch = true ↔ s.inflow.latch = true
                    ∨ s.settings.highWatermark ≤ fillLevel s + (pixelsFields p).dataLength)
                  ∧ u.inflow.discard = s.inflow.discard ∧ fillLevel u = fillLevel s + (pixelsFields p).dataLength
                  ∧ u.notices.flags.getLsbD 5 = s.notices.flags.getLsbD 5
                  ∧ u.notices.flags.getLsbD 6 = s.notices.flags.getLsbD 6)))
    ∧ (∀ p : List Byte, pixelsFields p =
        { tag := field p 0 2, firstRow := field p 2 2, rowCount := field p 4 2, dataLength := field p 6 2
          data := p.drop 8 })
    ∧ (∀ s : State, fillLevel s = (s.inflow.buffer.map fun c => c.data.length).sum
        ∧ freeSpace s = 65536 - fillLevel s)
    ∧ ∀ (t : Transfer) (s : State) (seq : Byte) (p : List Byte) (r : Result),
      arrivalOf t = .command .pixels seq p → linkTakes s → settled s →
      (firstRefusal (pixelsChecks p s) = some r →
          ∃ u, exec (.pixels t) s = .next u ∧ answers u .pixels seq r []
            ∧ u = { s with link := u.link, counters := { s.counters with
                inflowRefusals := bump s.counters.inflowRefusals } })
        ∧ ∀ (q : Request) (tally : Tally), firstRefusal (pixelsChecks p s) = none →
          findTag s (field p 0 2) = some q → (q.source = .inflow → q.tally = some tally) →
          firstRefusal (rowsChecks p q tally s) = some r →
          ∃ u, exec (.pixels t) s = .next u
            ∧ answers u .pixels seq r (if r = .rowOrder then leBytes 2 tally.rowsAccepted else [])
            ∧ u = { s with link := u.link, counters := { s.counters with
                inflowRefusals := bump s.counters.inflowRefusals } }

/-- CANCEL of a request that has driven nothing takes its entry away, that part finished with CANCELLED, and releases its
ARMED lanes, with release outcome CANCELLED or, with FORCE, ABORTED; either way CANCELLED is brought into the outcome and is
the part outcome at the end of each of its release walks; with no ARMED lane the request enters REPORTING at once. Of one that
drives, FORCE takes the entry away, finished with ABORTED, aborts the ACTIVE lanes, releases the ARMED ones with ABORTED,
leaves RETIRING ones and brings ABORTED into the outcome, and without FORCE it is refused with TOO_LATE. Of one whose entry is
ADMITTING it is TOO_LATE where a lane has begun, FORCE is not set and no cancel is pending; else it is recorded as pending:
forced with FORCE, without it plain, or as it was where one was pending already; nothing else changes but the tally, which
every accepted CANCEL closes (R50 to R52, R64, R107, R114). That the lane's record holds ABORTED (R114) while the part ends
with CANCELLED (R43, R50) after a forced CANCEL of ARMED lanes is how the model reads the two rules (log 31). -/
def Obligations.CancelEndsWhatHasNotDriven : Prop :=
  (∀ (t : Transfer) (s : State) (seq : Byte) (p : List Byte) (r : Request),
    arrivalOf t = .command .cancel seq p → linkTakes s →
    p.length = 3 → field p 2 1 ≤ 1 → findTag s (field p 0 2) = some r → r.withdrawn = false → r.state ≠ .reporting →
    -- no walk of it is in flight, and no lane of it has begun
    (isAdmitting s r.age = false → anyLane s r.tag LaneState.begun = false →
        ∃ u, exec (.cancel t) s = .next u ∧ answers u .cancel seq .ok []
          ∧ (∀ e ∈ u.req.queue, e.age ≠ r.age)
          ∧ (∀ l, laneAt u l = (laneAt s l).map fun ln =>
              if ln.tag = r.tag ∧ ln.state = .armed then
                { ln with state := .retiring (.release (if field p 2 1 = 1 then .aborted else .cancelled)) 0 }
              else ln)
          ∧ u.counters = s.counters
          ∧ (findAge s r.age = some r → ∀ z : Request,
              z = { r with
                partsFinished := if entryOf s r.age = none then r.partsFinished else r.partsFinished + 1
                outcome := some (bringIn r.outcome .cancelled)
                cancelled := true
                tally := r.tally.map fun y => { y with closed := true } } →
              ∃ v, u = { finish s v with link := u.link }
                ∧ (held s = true ∨ s.adm.passRunning = true → u.req = v.req ∧ u.notices.log = v.notices.log)
                ∧ v.req.queue = s.req.queue.filter (fun e => e.age ≠ r.age)
                ∧ (entryOf s r.age ≠ none → v.adm.passWanted = true)
                ∧ (z.partsFinished < z.partsUsed → findAge v r.age = some z)
                ∧ (z.partsFinished = z.partsUsed → r.cancelPending = .none → r.withdrawalPending = none →
                    (r.age :: s.req.line.map fun h => h.age).Nodup →
                    v.notices.log ++ (v.req.line.map fun h => h.record) =
                        s.notices.log ++ (s.req.line.map fun h => h.record) ++ [composeRecord z]
                      ∧ (findAge v r.age = none ∨ ∃ y, findAge v r.age = some y ∧ y.state = .reporting))))
      -- a lane of it has begun
      ∧ (isAdmitting s r.age = false → anyLane s r.tag LaneState.begun = true → field p 2 1 = 0 → settled s →
          ∃ u, exec (.cancel t) s = .next u ∧ answers u .cancel seq .tooLate [] ∧ u = { s with link := u.link })
      ∧ (isAdmitting s r.age = false → anyLane s r.tag LaneState.begun = true → field p 2 1 = 1 →
          ∃ u, exec (.cancel t) s = .next u ∧ answers u .cancel seq .ok []
            ∧ (∀ e ∈ u.req.queue, e.age ≠ r.age)
            ∧ (∀ l, laneAt u l = (laneAt s l).map fun ln =>
                if ln.tag ≠ r.tag then ln
                else match ln.state with
                  | .active => { ln with state := .retiring (.abort .cancelled) 0 }
                  | .armed => { ln with state := .retiring (.release .aborted) 0 }
                  | .retiring _ _ => ln)
            ∧ u.counters = { s.counters with
                aborts := bump^[(allLanes.filter (laneOf s r.tag fun st => decide (st = .active))).length]
                  s.counters.aborts }
            ∧ (findAge s r.age = some r → ∀ z : Request,
                z = { r with
                  partsFinished := if entryOf s r.age = none then r.partsFinished else r.partsFinished + 1
                  outcome := some (bringIn r.outcome .aborted)
                  tally := r.tally.map fun y => { y with closed := true } } →
                ∃ v, u = { finish s v with link := u.link }
                  ∧ (held s = true ∨ s.adm.passRunning = true → u.req = v.req ∧ u.notices.log = v.notices.log)
                  ∧ v.req.queue = s.req.queue.filter (fun e => e.age ≠ r.age)
                  ∧ (entryOf s r.age ≠ none → v.adm.passWanted = true)
                  ∧ (z.partsFinished < z.partsUsed → findAge v r.age = some z)))
      -- a walk of its entry is in flight
      ∧ (isAdmitting s r.age = true → settled s → anyLane s r.tag LaneState.begun = true → field p 2 1 = 0 →
          r.cancelPending = .none →
          ∃ u, exec (.cancel t) s = .next u ∧ answers u .cancel seq .tooLate [] ∧ u = { s with link := u.link })
      ∧ (isAdmitting s r.age = true → settled s →
          (r.cancelPending ≠ .none ∨ field p 2 1 = 1 ∨ anyLane s r.tag LaneState.begun = false) →
          ∃ u, exec (.cancel t) s = .next u ∧ answers u .cancel seq .ok []
            ∧ u = { s with
                link := u.link
                req := { s.req with table := s.req.table.map fun q =>
                  if q.age = r.age then
                    { q with
                      cancelPending :=
                        if field p 2 1 = 1 then .forced else if q.cancelPending = .none then .plain else q.cancelPending
                      tally := q.tally.map fun y => { y with closed := true } }
                  else q } }))
    ∧ ∀ (s : State) (tag : Nat), anyLane s tag LaneState.begun = true ↔
        ∃ l ln, laneAt s l = some ln ∧ ln.tag = tag ∧ ln.state ≠ .armed

/-- CANCEL is checked in this order: BAD_LENGTH unless 3 bytes; BAD_FIELD unless bits 7-1 of the flags are zero; NO_TAG
for no live request of the tag or a withdrawn one; TOO_LATE in REPORTING. A refused CANCEL changes nothing but the link; a
request that passes is OPEN or RUNNING (R49). -/
def Obligations.CancelIsCheckedInOrder : Prop :=
  ∀ (t : Transfer) (s : State) (seq : Byte) (p : List Byte),
    arrivalOf t = .command .cancel seq p → linkTakes s → settled s →
    (p.length ≠ 3 →
        ∃ u, exec (.cancel t) s = .next u ∧ answers u .cancel seq .badLength [] ∧ u = { s with link := u.link })
      ∧ (p.length = 3 → 1 < field p 2 1 →
          ∃ u, exec (.cancel t) s = .next u ∧ answers u .cancel seq .badField [] ∧ u = { s with link := u.link })
      ∧ (p.length = 3 → field p 2 1 ≤ 1 →
          (findTag s (field p 0 2) = none ∨ ∃ r, findTag s (field p 0 2) = some r ∧ r.withdrawn = true) →
          ∃ u, exec (.cancel t) s = .next u ∧ answers u .cancel seq .noTag [] ∧ u = { s with link := u.link })
      ∧ (∀ r, p.length = 3 → field p 2 1 ≤ 1 → findTag s (field p 0 2) = some r → r.withdrawn = false →
          (r.state = .reporting →
            ∃ u, exec (.cancel t) s = .next u ∧ answers u .cancel seq .tooLate [] ∧ u = { s with link := u.link })
          ∧ (r.state ≠ .reporting → r.state = .openState ∨ r.state = .running))

/-- FREEZE sets the freeze state on, THAW off, CLEAR_DISCARD answers the discard flag and clears it; each changes nothing
else, and each is refused with BAD_LENGTH with a payload (R73, R108). -/
def Obligations.FreezeThawAndClearDiscardSetTheirFlags : Prop :=
  ∀ (t : Transfer) (s : State) (seq : Byte) (p : List Byte), linkTakes s → settled s →
    (arrivalOf t = .command .freeze seq p →
        ∃ u, exec (.freeze t) s = .next u
          ∧ (p = [] → answers u .freeze seq .ok []
              ∧ u = { s with link := u.link, scan := { s.scan with freeze := true } })
          ∧ (p ≠ [] → answers u .freeze seq .badLength [] ∧ u = { s with link := u.link }))
      ∧ (arrivalOf t = .command .thaw seq p →
          ∃ u, exec (.thaw t) s = .next u
            ∧ (p = [] → answers u .thaw seq .ok []
                ∧ u = { s with link := u.link, scan := { s.scan with freeze := false } })
            ∧ (p ≠ [] → answers u .thaw seq .badLength [] ∧ u = { s with link := u.link }))
      ∧ (arrivalOf t = .command .clearDiscard seq p →
          ∃ u, exec (.clearDiscard t) s = .next u
            ∧ (p = [] → answers u .clearDiscard seq .ok [BitVec.ofNat 8 (bit s.inflow.discard)]
                ∧ u = { s with link := u.link, inflow := { s.inflow with discard := false } })
            ∧ (p ≠ [] → answers u .clearDiscard seq .badLength [] ∧ u = { s with link := u.link }))

/-! ### Copies and overlays -/

/-- An accepted POST_COPY is answered OK and takes two numbers of the shared order, the job's before the request's; while
admission is held the table shows the new request and the job list its job, both with the pages taken, pass wanted is set, and
TEMP_HOLD raised in a temperature hold not reported yet. It is checked in the order of R126, and the first check that fails
decides; a refused one changes nothing but the link (R7, R45, R48, R79, R80, R119, R126, R127). -/
def Obligations.PostCopyCreatesAJobAndItsRequest : Prop :=
  (∀ (t : Transfer) (s : State) (seq : Byte) (p : List Byte) (c : PostChoice),
    arrivalOf t = .command .postCopy seq p → linkTakes s →
    p.length = 17 → s.mem.calibrating = false → rectCheck s.px.geometry (copySource p) = none →
    rectCheck s.px.geometry (copyDestination p) = none → postChoice p 14 = some c → s.lib.state ≠ .loading →
    (∀ r ∈ s.req.table, r.tag ≠ field p 0 2) → s.req.table.length < 24 → s.copier.jobs.length < 8 →
    pagesNeeded (copySource p) ≤ s.pool.free.length →
    ∃ u, exec (.postCopy t) s = .next u ∧ answers u .postCopy seq .ok [] ∧ u.req.nextAge = s.req.nextAge + 2
      ∧ (held s = true →
          u.pool.free = s.pool.free.drop (pagesNeeded (copySource p)) ∧ postingNoted s u
            ∧ (∃ r, u.req.table = s.req.table ++ [r] ∧ r.age = s.req.nextAge + 1 ∧ r.tag = field p 0 2
                ∧ r.source = .copy ∧ r.rect = copyDestination p ∧ r.requestedMode = c.mode ∧ r.early = false
                ∧ r.rowsWritten = 0 ∧ r.pages = some (s.pool.free.take (pagesNeeded (copySource p))))
            ∧ ∃ j ∈ u.copier.jobs, j.age = s.req.nextAge ∧ j.purpose = .copy (s.req.nextAge + 1)
                ∧ j.rect = copySource p ∧ j.pages = s.pool.free.take (pagesNeeded (copySource p))
                ∧ j.rounding = decide (c.mode = .quick)))
    ∧ (∀ p : List Byte,
        copySource p = { col := field p 2 2, row := field p 4 2, width := field p 6 2, height := field p 8 2 }
          ∧ copyDestination p = { col := field p 10 2, row := field p 12 2, width := field p 6 2, height := field p 8 2 })
    ∧ ∀ (t : Transfer) (s : State) (seq : Byte) (p : List Byte) (r : Result),
      arrivalOf t = .command .postCopy seq p → linkTakes s → settled s → firstRefusal (postCopyChecks p s) = some r →
      refuses (.postCopy t) .postCopy seq r s

/-- OVERLAY_PUSH puts a CAPTURING entry with new pages on the stack, discarding the bottom one of a full stack with
OVERLAY_LOST; OVERLAY_POP takes the top entry off; OVERLAY_SWAP gives the top entry new pages and makes it CAPTURING; each
answers the depth after it. A POP or SWAP sets pass wanted and, in a temperature hold not reported yet, raises TEMP_HOLD. Each is
checked in the order of its rule, and the first check that fails decides; a refused one changes nothing but the link (R7, R45,
R48, R79, R80, R128 to R133). -/
def Obligations.OverlayCommandsMoveTheStack : Prop :=
  (∀ (t : Transfer) (s : State) (seq : Byte) (p : List Byte), linkTakes s → s.mem.calibrating = false →
    (arrivalOf t = .command .overlayPush seq p → p.length = 8 → rectCheck s.px.geometry (rectField p 0) = none →
        s.copier.jobs.length < 8 → pagesNeeded (rectField p 0) ≤ s.pool.free.length →
        s.copier.overlays.length ≤ 4 →
        ∃ u, exec (.overlayPush t) s = .next u
          ∧ answers u .overlayPush seq .ok [BitVec.ofNat 8 (min 4 (s.copier.overlays.length + 1))]
          ∧ u.copier.overlays =
              (if s.copier.overlays.length = 4 then s.copier.overlays.tail else s.copier.overlays)
                ++ [{ rect := rectField p 0, pages := s.pool.free.take (pagesNeeded (rectField p 0)),
                      capturing := some s.req.nextAge }]
          ∧ (s.copier.overlays.length = 4 → u.notices.flags.getLsbD 7 = true))
      ∧ (∀ (c : PostChoice) (o : Overlay), p.length = 5 → overlayChoice p = some c → s.lib.state ≠ .loading →
          s.copier.overlays.getLast? = some o → o.capturing = none →
          (∀ r ∈ s.req.table, r.tag ≠ field p 0 2) → s.req.table.length < 24 →
          (arrivalOf t = .command .overlayPop seq p →
            ∃ u, exec (.overlayPop t) s = .next u
              ∧ answers u .overlayPop seq .ok [BitVec.ofNat 8 (s.copier.overlays.length - 1)]
              ∧ u.copier.overlays = s.copier.overlays.dropLast
              ∧ (held s = true → ∃ r, u.req.table = s.req.table ++ [r] ∧ r.tag = field p 0 2 ∧ r.source = .overlay
                  ∧ r.rect = o.rect ∧ r.pages = some o.pages ∧ r.rowsWritten = o.rect.height ∧ r.early = false
                  ∧ u.pool.free = s.pool.free ∧ postingNoted s u))
          ∧ (arrivalOf t = .command .overlaySwap seq p → s.copier.jobs.length < 8 →
              pagesNeeded o.rect ≤ s.pool.free.length →
              ∃ u, exec (.overlaySwap t) s = .next u
                ∧ answers u .overlaySwap seq .ok [BitVec.ofNat 8 s.copier.overlays.length]
                ∧ u.copier.overlays = s.copier.overlays.dropLast
                    ++ [{ rect := o.rect, pages := s.pool.free.take (pagesNeeded o.rect),
                          capturing := some s.req.nextAge }]
                ∧ (held s = true → ∃ r, u.req.table = s.req.table ++ [r] ∧ r.tag = field p 0 2
                    ∧ r.source = .overlay ∧ r.rect = o.rect ∧ r.pages = some o.pages ∧ postingNoted s u))))
    ∧ (∀ (p : List Byte) (c : PostChoice), overlayChoice p = some c ↔ postChoice p 2 = some c ∧ c.mode ≠ .quick)
    ∧ ∀ (t : Transfer) (s : State) (seq : Byte) (p : List Byte) (r : Result), linkTakes s → settled s →
      (arrivalOf t = .command .overlayPush seq p → firstRefusal (overlayPushChecks p s) = some r →
          refuses (.overlayPush t) .overlayPush seq r s)
        ∧ (arrivalOf t = .command .overlayPop seq p → firstRefusal (overlayPopChecks p s) = some r →
            refuses (.overlayPop t) .overlayPop seq r s)
        ∧ (arrivalOf t = .command .overlaySwap seq p → firstRefusal (overlaySwapChecks p s) = some r →
            refuses (.overlaySwap t) .overlaySwap seq r s)

/-- A PENDING job may start where no pixel of its source has an owner, the pixel table is not initialising and no queue entry
of an older request intersects its source; with none RUNNING, the judging starts the oldest that may, and no other. The jobs
are judged at each event that creates a job or takes one or a queue entry away, and at the end of each retirement,
initialisation or assume walk: behind it a job is RUNNING or none may start. The end of a snapshot: the pages hold, two pixels
to a byte with the left one low, the shown levels of the source, rounded for a QUICK copy, from where the job stood; where
that is the right pixel of a byte, its left one is the level read last. No other staging byte changes; the job has left. A
COPY request's rows are all written, and pass wanted is set; of a PUSH or SWAP the entry that it fills becomes HELD, or where
that has been discarded the pages return (R119 to R122). That the end does what the bursts have left undone is the model's
choice (log 7). The premises on jobs and stores are kept by every step (`jobLaw`, `pagesLaw` and `storeLaw`, with
`ownershipLaw`). -/
def Obligations.SnapshotsCopyTheShownLevels : Prop :=
  -- which job the judging starts
  (∀ s : State, storeLaw s → jobLaw s →
      ((∃ j ∈ s.copier.jobs, j.running = true) ∨ (∀ j ∈ s.copier.jobs, ¬ mayStart s j) → judgeJobs s = s)
        ∧ ∀ first j later, s.copier.jobs = first ++ j :: later → (∀ k ∈ s.copier.jobs, k.running = false) →
            (∀ k ∈ first, ¬ mayStart s k) → mayStart s j →
            judgeJobs s = { s with
              copier := { s.copier with jobs := first ++ { j with state := .running 0 none } :: later }
              mem := { s.mem with
                waiting := if .copier ∈ s.mem.waiting then s.mem.waiting else s.mem.waiting ++ [.copier] } })
    -- and at which events
    ∧ (∀ (c : Instr) (s u : State), storeLaw s → exec c s = .next u →
        c = .copierJobEnd ∨ (∃ l, c = .retirementWalkEnd l) ∨ c = .initialisationWalkEnd ∨ c = .assumeWalkEnd
          ∨ (∃ j ∈ u.copier.jobs, ∀ k ∈ s.copier.jobs, k.age ≠ j.age)
          ∨ (∃ j ∈ s.copier.jobs, ∀ k ∈ u.copier.jobs, k.age ≠ j.age)
          ∨ (∃ e ∈ s.req.queue, ∀ o ∈ u.req.queue, o.age ≠ e.age) →
        jobsJudged u)
    ∧ (∀ (a b : Rect) (x y : Nat),
        (a.contains x y = true ↔ a.col ≤ x ∧ x < a.col + a.width ∧ a.row ≤ y ∧ y < a.row + a.height)
          ∧ (a.intersects b = true ↔ ∃ x y, a.contains x y = true ∧ b.contains x y = true))
    ∧ (∀ (s : State) (j : Job) (i : Nat) (level : Level),
        level = (pixelAt s (j.rect.col + i % j.rect.width) (j.rect.row + i / j.rect.width)).shown →
        snapshotLevel s j i = if j.rounding = false then level else if level.toNat < 8 then 0 else 15)
    ∧ (∀ left right : Level, (packLevels left right).toNat = left.toNat + 16 * right.toNat)
    ∧ (∀ (pages : List Nat) (b a : Nat), imageAddress pages b = some a ↔
        ∃ page, pages[b / 4096]? = some page ∧ a = page * 4096 + b % 4096)
    -- the end of a snapshot
    ∧ ∀ (s : State) (j : Job) (done : Nat) (half : Option Level),
    currentJob s = some (j, done, half) → (half.isSome = true ↔ done % 2 = 1) → done ≤ j.rect.area →
    j.rect.area % 2 = 0 → j.pages.Nodup →
    ∃ u, exec .copierJobEnd s = .next u
      ∧ (∀ b a left, done ≤ 2 * b + 1 → 2 * b < j.rect.area → imageAddress j.pages b = some a →
          (if done = 2 * b + 1 then half = some left else left = snapshotLevel s j (2 * b)) →
          stagingByte u a = packLevels left (snapshotLevel s j (2 * b + 1)))
      ∧ (∀ a, (∀ b, done ≤ 2 * b + 1 → 2 * b < j.rect.area → imageAddress j.pages b ≠ some a) →
          stagingByte u a = stagingByte s a)
      ∧ (∀ k ∈ u.copier.jobs, k.age ≠ j.age)
      ∧ (∀ age, j.purpose = .copy age →
          (∀ q ∈ u.req.table, q.age = age → q.rowsWritten = q.rect.height)
            ∧ (held s = true ∨ s.adm.passRunning = true → u.adm.passWanted = true)
            ∧ u.copier.overlays = s.copier.overlays)
      ∧ (j.purpose = .push ∨ j.purpose = .swap →
          u.copier.overlays = (s.copier.overlays.map fun o =>
              if o.capturing = some j.age then { o with capturing := none } else o)
            ∧ ((∀ o ∈ s.copier.overlays, o.capturing ≠ some j.age) → ∀ page ∈ j.pages, page ∈ u.pool.free))

/-! ### Pixel Store, chunks, admission, lanes -/

/-- ASSUME is checked in the order of R13, and a refused one changes nothing but the link. An accepted one starts its walk; the end of an assume walk writes, from where the walk stood, every pixel of the
rectangle with the level, residue 0, balance 0 and indeterminate no, leaving owners and every other pixel; the ends of both
walks end the initialising (R7, R9, R13, R14). That the end does what the bursts have left undone is the model's choice (log 7);
that the end of the initialisation walk writes no record is its reading of R9, by which a new table has its records from
the start (log 9). That the walk's rectangle lies in the panel is kept by every step (`rectLaw` in `ownershipLaw`). -/
def Obligations.AssumeAndItsWalkWriteTheRectangle : Prop :=
  (∀ (t : Transfer) (s : State) (seq : Byte) (p : List Byte),
      arrivalOf t = .command .assume seq p → linkTakes s →
      p.length = 9 → rectCheck s.px.geometry (rectField p 0) = none → field p 8 1 ≤ 15 →
      s.px.walk = none → s.adm.walk = none →
      (∀ j ∈ s.copier.jobs, j.running = true → j.rect.intersects (rectField p 0) = false) →
      anyOwned s (rectField p 0) = false →
      ∃ u, exec (.assume t) s = .next u ∧ answers u .assume seq .ok []
        ∧ u.px = { s.px with walk := some (.assume (rectField p 0) (BitVec.ofNat 4 (field p 8 1)) 0) })
    ∧ (∀ (s : State) (r : Rect) (level : Level) (done : Nat),
        s.px.walk = some (.assume r level done) → r.col + r.width ≤ panelWidth s →
        ∃ u, exec .assumeWalkEnd s = .next u ∧ u.px.walk = none ∧ u.px.tiles = s.px.tiles
          ∧ ∀ x y, x < panelWidth s →
              pixelAt u x y =
                (if r.reaches done (r.area - done) x y = true then
                  { shown := level, owner := (pixelAt s x y).owner, residue := 0, balance := 0,
                    indeterminate := false }
                else pixelAt s x y))
    ∧ (∀ (s : State) (done : Nat), s.px.walk = some (.initialise done) →
        ∃ u, exec .initialisationWalkEnd s = .next u ∧ u.px = { s.px with walk := none })
    ∧ ∀ (t : Transfer) (s : State) (seq : Byte) (p : List Byte) (r : Result),
      arrivalOf t = .command .assume seq p → linkTakes s → settled s → firstRefusal (assumeChecks p s) = some r →
      refuses (.assume t) .assume seq r s

/-- The end of a chunk write: the chunk's rows stand in their request's pages from where the write stood, rounded for
QUICK; no other staging byte changes; the rows count as written while the tally is open, with the trigger of R70 where they
reach the height or the early point; pages held back for the write return. The chunk leaves the buffer, and the writer takes the
next: chunks whose request is gone or has a closed tally are dropped, with discard flag and INFLOW_DISCARD, flag 6, and the
write of the first that is wanted begins. An armed latch is disarmed, and REFILL raised, flag 5, where that leaves the fill
level below the low watermark (R61, R62, R68 to R73). That the end does what
the bursts have left undone is the model's choice (log 7), and so is that these have written the chunk's bytes in order, so
that those before the position stand and only those behind it are written (log 37). The premises on the pages and the rows are
kept by every step (`pagesLaw` and `rowsLaw`, with `ownershipLaw` and `jobLaw`). -/
def Obligations.InflowChunkWritesFillTheImage : Prop :=
  (∀ (r : Request) (c : Chunk) (b : Byte),
      (r.requestedMode ≠ .quick → writtenBytes r c = c.data)
        ∧ (r.requestedMode = .quick → writtenBytes r c = c.data.map quickByte)
        ∧ (quickByte b).toNat = (if b.toNat % 16 < 8 then 0 else 15) + 16 * (if b.toNat / 16 < 8 then 0 else 15))
    ∧ (∀ (pages : List Nat) (b a : Nat), imageAddress pages b = some a ↔
        ∃ page, pages[b / 4096]? = some page ∧ a = page * 4096 + b % 4096)
    ∧ ∀ (s : State) (c : Chunk) (later : List Chunk) (done : Nat) (r : Request) (pages : List Nat),
    s.inflow.writing = some done → s.inflow.buffer = c :: later → findAge s c.age = some r → r.pages = some pages →
    pages.Nodup →
    ∃ u, exec .inflowChunkWriteEnd s = .next u
      ∧ (∀ i a b, done ≤ i → (writtenBytes r c)[i]? = some b →
          imageAddress pages (c.firstRow * (r.rect.width / 2) + i) = some a → stagingByte u a = b)
      ∧ (∀ a, (∀ i, done ≤ i → i < c.data.length →
            imageAddress pages (c.firstRow * (r.rect.width / 2) + i) ≠ some a) → stagingByte u a = stagingByte s a)
      ∧ ((∃ rows, r.tally = some { rowsAccepted := rows, closed := false }) →
          (∀ q ∈ u.req.table, q.age = c.age → q.rowsWritten = r.rowsWritten + c.rowCount)
            ∧ (held s = true →
                r.rowsWritten + c.rowCount = r.rect.height
                  ∨ r.early = true ∧ r.requestedMode.clearing = true ∧ 1 ≤ s.settings.earlyThreshold
                    ∧ s.settings.earlyThreshold ≤ 15
                    ∧ r.rowsWritten < earlyPoint s.settings.earlyThreshold r.rect.height
                    ∧ earlyPoint s.settings.earlyThreshold r.rect.height ≤ r.rowsWritten + c.rowCount →
                u.adm.passWanted = true))
      ∧ ((∀ rows, r.tally ≠ some { rowsAccepted := rows, closed := false }) →
          ∀ q, findAge u c.age = some q → q.rowsWritten = r.rowsWritten)
      ∧ (r.state = .reporting → ∀ page ∈ pages, page ∈ u.pool.free)
      ∧ (ownershipLaw s → rowsLaw s → ∀ (wanted : Chunk → Bool) (next : List Chunk),
          (∀ k, wanted k = true ↔
            ∃ q rows, findAge s k.age = some q ∧ q.tally = some { rowsAccepted := rows, closed := false }) →
          next = later.dropWhile (fun k => !wanted k) →
          u.inflow.buffer = next ∧ u.inflow.writing = (if next = [] then none else some 0)
            ∧ (u.inflow.discard = true ↔ s.inflow.discard = true ∨ next ≠ later)
            ∧ (u.notices.flags.getLsbD 6 = true ↔ s.notices.flags.getLsbD 6 = true ∨ next ≠ later)
            ∧ (u.inflow.latch = true ↔ s.inflow.latch = true ∧ s.settings.lowWatermark ≤ fillLevel u)
            ∧ (u.notices.flags.getLsbD 5 = true ↔
                s.notices.flags.getLsbD 5 = true ∨ s.inflow.latch = true ∧ fillLevel u < s.settings.lowWatermark))

/-- A pass starts when it is wanted, admission is not held and none is running; admission is held exactly while the library or
the temperature is not VALID, the rails are in FAULT, the pixel table is initialising, or an abort walk of a RESTART runs. A
pass takes the queue oldest first, skips an entry whose data is neither ready nor early-eligible (a clearing mode, the early
flag, a threshold t of 1 to 15, ⌈h × t / 16⌉ rows written, leads in the current band) or which an older entry intersects, ends
where no lane is FREE, and else begins the entry's walk. A walk is judged by natural drive set, collision by PIXEL or TILE,
indeterminate, residue and balance tests, ghost policy, upgrade and early data. One that admits arms the lowest-numbered FREE
lane with the record of R94, gives it the pixels of the drive set, enters it in the tiles it touches and counts it; any other
changes no lane and no pixel. Record and entry follow the result, said of the state a which it leaves. Against a the pending
withdrawal is taken and then the pending cancel: the entry that remains goes, with its part, the ARMED lanes, the new one
among them, are released and, for a forced cancel, the ACTIVE ones aborted, with the outcomes of R52 and R54; a withdrawn
request loses entry and ARMED lanes with ABORTED, and leaves if it has no lane. The request judged, that is the state v: one
whose last part has finished is on its way to the log, and the pass goes on to the entries behind, or ends where a hold or a
RESTART has cut it (R11, R42, R44, R52, R54, R56, R59, R70, R78, R80 to R95, R98, R116). The model's choices: the part outcome
of a withdrawn request's entry (log 14), the end does what the bursts have left undone (log 7), an absent set ends the walk at
once (log 12), an upgraded entry waits for siblings too (log 26), how the readings are made and used (log 30), and the walk
reads targets from the pages its request had at its start (log 36). -/
def Obligations.AdmissionArmsALane : Prop :=
  -- passes
  (∀ s : State, tryPass s =
      if s.adm.passWanted = true ∧ held s = false ∧ s.adm.passRunning = false then
        runPass (s.req.queue.map fun e => e.age)
          { s with adm := { s.adm with passRunning := true, passWanted := false, passCut := false } }
      else s)
    ∧ (∀ s : State, runPass [] s = { s with adm := { s.adm with passRunning := false, passCut := false } })
    ∧ (∀ (s : State) (rest : List Nat) (e : QueueEntry) (r : Request),
        entryOf s r.age = some e → findAge s r.age = some r →
        (r.dataReady = false → earlyEligible s r = false → runPass (r.age :: rest) s = runPass rest s)
          ∧ (∀ o q, o ∈ s.req.queue → o.age < r.age → findAge s o.age = some q → q.rect.intersects r.rect = true →
              runPass (r.age :: rest) s = runPass rest s)
          ∧ (r.dataReady = true ∨ earlyEligible s r = true → olderIntersects s r = false →
              (freeLane s = none →
                  runPass (r.age :: rest) s = { s with adm := { s.adm with passRunning := false, passCut := false } })
                ∧ ∀ l band, freeLane s = some l → s.temp.band = some band →
                  ((s.lib.setOf r.startingMode band).frames ≠ 0 →
                      (runPass (r.age :: rest) s).adm = { s.adm with
                          walk := some { age := r.age, band := band, mode := r.startingMode, dataReady := r.dataReady,
                                         pages := r.pages, readings := [] } }
                        ∧ (runPass (r.age :: rest) s).req = { s.req with
                            queue := s.req.queue.map fun o => if o.age = r.age then { o with admitting := true } else o })
                  ∧ ((s.lib.setOf r.startingMode band).frames = 0 →
                      runPass (r.age :: rest) s =
                        runPass rest (judgeJobs (judgeFinish r.age
                          (finishPart r.age .unsupported (removeEntry r.age s)))))))
    -- holds, lanes and early data, each by what it is
    ∧ (∀ s : State, held s = true ↔
        s.lib.state ≠ .valid ∨ s.temp.state ≠ .valid ∨ s.rails.state = .fault ∨ s.px.walk ≠ none
          ∨ ∃ l ln done, laneAt s l = some ln ∧ ln.state = .retiring (.abort .restarted) done)
    ∧ (∀ (s : State) (l : LaneId),
        (freeLane s = some l ↔ laneAt s l = none ∧ ∀ m : LaneId, m.val < l.val → laneAt s m ≠ none)
          ∧ (freeLane s = none ↔ ∀ m, laneAt s m ≠ none))
    ∧ (∀ (s : State) (r : Request),
        (r.dataReady = true ↔ r.rowsWritten = r.rect.height)
          ∧ (r.startingMode = match r.modeUsed with | some m => m | none => r.requestedMode)
          ∧ (earlyEligible s r = true ↔
              (r.requestedMode = .blank ∨ r.requestedMode = .clear) ∧ r.early = true
                ∧ 1 ≤ s.settings.earlyThreshold ∧ s.settings.earlyThreshold ≤ 15
                ∧ r.rect.height * s.settings.earlyThreshold ≤ 16 * r.rowsWritten
                ∧ ∃ band, s.temp.band = some band ∧ 0 < (s.lib.setOf r.startingMode band).leads)
          ∧ (olderIntersects s r = true ↔
              ∃ o ∈ s.req.queue, o.age < r.age ∧ ∃ q, findAge s o.age = some q ∧ q.rect.intersects r.rect = true))
    ∧ (∀ t h : Nat, h * t ≤ 16 * earlyPoint t h ∧ 16 * earlyPoint t h < h * t + 16)
    ∧ (∀ (lib : Library) (m : Mode) (band : Nat),
        lib.setOf m band = lib.directory.getD (m.code * lib.bandCount + band) { frames := 0, leads := 0 })
    -- what a walk reads at a pixel
    ∧ (∀ (s : State) (w : AdmissionWalk) (r : Request) (i x y tile : Nat) (z : Reading),
        x = r.rect.col + i % r.rect.width → y = r.rect.row + i / r.rect.width →
        tile = y / 32 * ((panelWidth s + 31) / 32) + x / 32 → z = readPixel s w r i →
        z.shown = (pixelAt s x y).shown ∧ z.residue = (pixelAt s x y).residue ∧ z.balance = (pixelAt s x y).balance
          ∧ z.indeterminate = (pixelAt s x y).indeterminate ∧ z.tile = tile
          ∧ (z.tileForeign = true ↔ ∃ l ln, (tile, l) ∈ s.px.tiles ∧ laneAt s l = some ln ∧ ln.tag ≠ r.tag)
          ∧ (z.ownership = .free ↔ (pixelAt s x y).owner = none ∨ ∀ l, (tile, l) ∉ s.px.tiles)
          ∧ (z.ownership = .foreign ↔ (∃ l, (tile, l) ∈ s.px.tiles)
              ∧ ∃ l ln, (pixelAt s x y).owner = some l ∧ laneAt s l = some ln ∧ ln.tag ≠ r.tag)
          ∧ (w.mode = .blank ∨ w.mode = .clear → z.target = none)
          ∧ (w.mode ≠ .blank → w.mode ≠ .clear →
              z.target = some (targetLevel s r.source (w.pages.getD []) r.rect x y)))
    -- what owning pixels and entering tiles write
    ∧ (∀ (s : State) (l : LaneId) (rect : Rect) (drive : List Nat) (x y : Nat), storeLaw s → 0 < rect.area →
        rect.col + rect.width ≤ panelWidth s → x < panelWidth s →
        pixelAt (addToTiles l rect (ownPixels l rect drive s)) x y =
          if ∃ i ∈ drive, x = rect.col + i % rect.width ∧ y = rect.row + i / rect.width then
            { pixelAt s x y with owner := some l }
          else pixelAt s x y)
    ∧ (∀ (s : State) (l : LaneId) (rect : Rect) (drive : List Nat) (e : Nat × LaneId), 0 < rect.area →
        (e ∈ (addToTiles l rect (ownPixels l rect drive s)).px.tiles ↔ e ∈ s.px.tiles
          ∨ e.2 = l ∧ ∃ x y, rect.contains x y = true ∧ e.1 = y / 32 * ((panelWidth s + 31) / 32) + x / 32))
    -- the natural drive set and the collision
    ∧ (∀ (x : Reading) (m : Mode),
        (x.ownership = .sibling → x.natural m = false) ∧ (x.ownership = .foreign → x.natural m = true)
          ∧ (x.ownership = .free →
              (m = .blank ∨ m = .clear → x.natural m = true)
                ∧ (m = .settle ∨ m = .quick →
                    (x.natural m = true ↔ x.indeterminate = true ∨ x.target ≠ some x.shown))
                ∧ (m = .stroke →
                    (x.natural m = true ↔ x.indeterminate = true ∨ ∃ t, x.target = some t ∧ t < x.shown))))
    ∧ (∀ (m : Mode) (xs : List Reading) (x : Reading),
        (collision .pixel m xs = true ↔ ∃ z ∈ xs, z.ownership = .foreign)
          ∧ (collision .tile m xs = true ↔ ∃ z ∈ xs, z.tileForeign = true)
          ∧ (x.collides .pixel (blockedTiles xs) = true ↔ x.ownership = .foreign)
          ∧ (x.collides .tile (blockedTiles xs) = true ↔ ∃ z ∈ xs, z.tileForeign = true ∧ z.tile = x.tile)
          ∧ (rectBlocked .pixel xs = true ↔ ∃ z ∈ xs, z.ownership ≠ .free)
          ∧ (rectBlocked .tile xs = true ↔ ∃ z ∈ xs, z.ownership ≠ .free ∨ z.tileForeign = true))
    ∧ (∀ (g : Granularity) (r : Request) (e : QueueEntry) (m : Mode) (xs : List Reading),
        (e.upgradePending = true → rectBlocked g xs = true → collisionStage g r e m xs = none)
          ∧ (e.upgradePending = false ∨ rectBlocked g xs = false →
              (collision g m xs = true →
                  (m = .blank ∨ m = .clear ∨ r.collision = .wait ∨ 8 ≤ r.partsUsed → collisionStage g r e m xs = none)
                    ∧ (m ≠ .blank → m ≠ .clear → r.collision = .split → r.partsUsed < 8 →
                        ∃ drive, collisionStage g r e m xs = some (drive, true)
                          ∧ ∀ i x, (i, x) ∈ drive ↔
                              xs[i]? = some x ∧ x.natural m = true ∧ x.collides g (blockedTiles xs) = false))
                ∧ (collision g m xs = false →
                    ∃ drive, collisionStage g r e m xs = some (drive, false)
                      ∧ ∀ i x, (i, x) ∈ drive ↔ xs[i]? = some x ∧ x.natural m = true)))
    -- the ghost check
    ∧ (∀ (residue balance : Nat) (m : Mode) (xs : List Reading),
        ((∃ x ∈ xs, x.indeterminate = true) → m ≠ .blank →
            ghostFailure residue balance m xs = some (.indeterminate, .blank))
          ∧ ((∀ x ∈ xs, x.indeterminate = false) ∨ m = .blank →
              (m = .blank ∨ m = .clear → ghostFailure residue balance m xs = none)
                ∧ (m ≠ .blank → m ≠ .clear →
                    ((∃ x ∈ xs, residue < x.residue + if m = .quick then 2 else 1) →
                        ghostFailure residue balance m xs = some (.residue, .clear))
                      ∧ ((∀ x ∈ xs, x.residue + (if m = .quick then 2 else 1) ≤ residue) →
                          ((∃ x ∈ xs, balance ≤ x.balance.natAbs) →
                              ghostFailure residue balance m xs = some (.balance, .clear))
                            ∧ ((∀ x ∈ xs, x.balance.natAbs < balance) →
                                ghostFailure residue balance m xs = none)))))
    -- the result of a walk
    ∧ (∀ (st : Settings) (lib : Library) (r : Request) (e : QueueEntry) (w : AdmissionWalk),
        (collisionStage st.granularity r e w.mode w.readings = none → judgeWalk st lib r e w = .stays)
          ∧ (collisionStage st.granularity r e w.mode w.readings = some ([], true) → judgeWalk st lib r e w = .stays)
          ∧ (collisionStage st.granularity r e w.mode w.readings = some ([], false) →
              judgeWalk st lib r e w = .resolves .noChange none)
          ∧ (∀ m, earlyDataPasses lib w.band w.dataReady m = true ↔ w.dataReady = true
              ∨ 0 < (lib.setOf m w.band).leads ∧ (lib.setOf m w.band).leads < (lib.setOf m w.band).frames)
          ∧ ∀ drive remainder failure,
              collisionStage st.granularity r e w.mode w.readings = some (drive, remainder) → drive ≠ [] →
              ghostFailure st.residueLimit st.balanceLimit w.mode (drive.map fun p => p.2) = failure →
              (failure = none ∨ r.ghost = .force ∧ (∀ mode, failure ≠ some (.indeterminate, mode)) →
                  judgeWalk st lib r e w =
                    if earlyDataPasses lib w.band w.dataReady w.mode = true then
                      .admits w.mode none (drive.map fun p => p.1) remainder
                    else .stays)
                ∧ ∀ reason mode, failure = some (reason, mode) →
                    (r.ghost = .refuse → judgeWalk st lib r e w = .resolves .ghostRefused (some reason))
                      ∧ (r.ghost = .upgrade ∨ r.ghost = .force ∧ reason = .indeterminate →
                          judgeWalk st lib r e w =
                            if rectBlocked st.granularity w.readings = true
                                ∨ earlyDataPasses lib w.band w.dataReady mode = false then
                              .staysUpgraded reason mode
                            else .admits mode (some reason) (List.range w.readings.length) false))
    -- the result applied: lanes, pixels and counters, record and entry
    ∧ ∀ (s : State) (w : AdmissionWalk) (r : Request) (e : QueueEntry) (result : WalkResult),
      s.adm.walk = some w → findAge s w.age = some r → entryOf s w.age = some e →
      judgeWalk s.settings s.lib r e (advanceWalk s r r.rect.area w) = result →
      ∃ a v u, exec .admissionWalkEnd s = .next u ∧ u = finish s (resumePass r.age v)
        ∧ (∀ mode reason drive remainder l, result = .admits mode reason drive remainder → freeLane s = some l →
            laneAt a l = some
                { tag := r.tag, part := e.part, rect := r.rect, mode := mode, band := w.band,
                  frames := (s.lib.setOf mode w.band).frames, leads := (s.lib.setOf mode w.band).leads,
                  early := !w.dataReady, owned := drive.length, index := 0, state := .armed }
              ∧ (∀ m, m ≠ l → laneAt a m = laneAt s m)
              ∧ u.px = (addToTiles l r.rect (ownPixels l r.rect drive s)).px
              ∧ u.counters.lanesArmed = bump s.counters.lanesArmed
              ∧ (reason.isSome = true → u.counters.upgrades = bump s.counters.upgrades
                  ∧ u.notices.flags.getLsbD 9 = true))
        ∧ ((∀ mode reason drive remainder, result ≠ .admits mode reason drive remainder) →
            a.lanes = s.lanes ∧ u.px = s.px)
        ∧ (∀ reason mode, result = .staysUpgraded reason mode →
            u.counters.upgrades = bump s.counters.upgrades ∧ u.notices.flags.getLsbD 9 = true)
        ∧ (∀ outcome reason, result = .resolves outcome reason → reason.isSome = true →
            u.counters.ghostRefusals = bump s.counters.ghostRefusals ∧ u.notices.flags.getLsbD 9 = true)
        ∧ (∀ age, age ≠ r.age → findAge a age = findAge s age)
        ∧ (result = .stays →
            findAge a r.age = some r
              ∧ a.req.queue = s.req.queue.map fun o => if o.age = r.age then { o with admitting := false } else o)
        ∧ (∀ reason mode, result = .staysUpgraded reason mode →
            findAge a r.age = some { r with modeUsed := some mode, upgradeReason := some reason }
              ∧ a.req.queue = s.req.queue.map fun o =>
                  if o.age = r.age then { o with admitting := false, upgradePending := true } else o)
        ∧ (∀ mode reason drive remainder l, result = .admits mode reason drive remainder → freeLane s = some l →
            findAge a r.age = some { r with
                modeUsed := some mode, bandUsed := some w.band, upgradeReason := reason.or r.upgradeReason
                partsUsed := if remainder = true then r.partsUsed + 1 else r.partsUsed
                state := if r.state = .openState ∧ r.withdrawn = false then .running else r.state }
              ∧ a.req.queue =
                if remainder = true then
                  s.req.queue.map fun o =>
                    if o.age = r.age then
                      { age := r.age, part := r.partsUsed + 1, upgradePending := false, admitting := false }
                    else o
                else s.req.queue.filter fun o => o.age ≠ r.age)
        ∧ (∀ (outcome : ReqOutcome) (reason : Option UpgradeReason), result = .resolves outcome reason →
            findAge a r.age = some { r with
                partsFinished := r.partsFinished + 1, outcome := some (bringIn r.outcome outcome)
                upgradeReason := reason.or r.upgradeReason }
              ∧ a.req.queue = s.req.queue.filter fun o => o.age ≠ r.age)
        -- what was pending is taken
        ∧ v.adm.walk = none ∧ v.adm.passCut = s.adm.passCut
        ∧ (∀ release : Option ReqOutcome,
            release = (if r.withdrawn = true then some .aborted
              else match r.withdrawalPending, r.cancelPending with
                | some o, _ => some o
                | none, .plain => some .cancelled
                | none, .forced => some .aborted
                | none, .none => none) →
            (∀ l, laneAt u l = (laneAt a l).map fun ln =>
                if ln.tag ≠ r.tag then ln
                else match ln.state, release with
                  | .armed, some o => { ln with state := .retiring (.release o) 0 }
                  | .active, _ =>
                    if r.withdrawn = false ∧ r.cancelPending = .forced then
                      { ln with state := .retiring (.abort .cancelled) 0 }
                    else ln
                  | _, _ => ln)
              ∧ v.req.queue = (if release = none then a.req.queue else a.req.queue.filter fun o => o.age ≠ r.age)
              ∧ ∀ (q z : Request) (dropped : Bool), findAge a r.age = some q →
                dropped = (release.isSome && (entryOf a r.age).isSome) →
                z = { q with
                  partsFinished := if dropped = true then q.partsFinished + 1 else q.partsFinished
                  outcome :=
                    if r.withdrawn = false ∧ r.cancelPending ≠ .none then
                      some (bringIn
                        (if dropped = true ∧ r.withdrawalPending.isSome = true then
                          r.withdrawalPending.map (bringIn q.outcome) else q.outcome)
                        (if r.cancelPending = .forced then .aborted else .cancelled))
                    else if dropped = true then release.map (bringIn q.outcome)
                    else q.outcome
                  withdrawalPending := if r.withdrawn = true then r.withdrawalPending else none
                  cancelPending := if r.withdrawn = true then r.cancelPending else .none } →
                -- the request judged
                (r.withdrawn = false → z.partsFinished < z.partsUsed → findAge v r.age = some z)
                  ∧ (r.withdrawn = false → z.partsFinished = z.partsUsed → r.state ≠ .reporting →
                      (r.age :: s.req.line.map fun h => h.age).Nodup →
                      v.notices.log ++ (v.req.line.map fun h => h.record) =
                          s.notices.log ++ (s.req.line.map fun h => h.record) ++ [composeRecord z]
                        ∧ (findAge v r.age = none ∨ ∃ y, findAge v r.age = some y ∧ y.state = .reporting))
                  ∧ (r.withdrawn = true →
                      v.req.line = s.req.line ∧ v.notices.log = s.notices.log
                        ∧ ((∃ l ln, laneAt a l = some ln ∧ ln.tag = r.tag) → findAge v r.age = some z)
                        ∧ ((∀ l ln, laneAt a l = some ln → ln.tag ≠ r.tag) →
                            findAge v r.age = none ∧ ∀ page ∈ r.pages.getD [], page ∈ v.pool.free))
                  ∧ (r.withdrawn = true ∨ z.partsFinished < z.partsUsed →
                      ∀ age, age ≠ r.age → findAge v age = findAge s age)
                  ∧ ∀ age, age ≠ r.age → (∀ h ∈ s.req.line, h.age ≠ age) → findAge v age = findAge s age)
        -- the pass behind it
        ∧ (s.adm.passCut = false →
            resumePass r.age v = runPass ((v.req.queue.filter fun o => decide (r.age < o.age)).map fun o => o.age) v)
        ∧ (s.adm.passCut = true →
            resumePass r.age v = { v with adm := { v.adm with passRunning := false, passCut := false } }
              ∧ (held s = true → u.adm.passRunning = false ∧ u.req = v.req))

/-- At a frame start the frame is marked by the freeze state and the timer reloaded; in a DRIVEN frame every ARMED lane
becomes ACTIVE with index 0 and every other lane stays; in a FROZEN frame every lane stays (R102, R103). -/
def Obligations.FrameStartActivatesArmedLanes : Prop :=
  ∀ s : State, s.scan.timer ≠ none → s.scan.frame = none → powerLaw s →
    ∃ u, exec .frameStart s = .next u
      ∧ u.scan.frame = some { mark := if s.scan.freeze = true then .frozen else .driven, nextRow := 0 }
      ∧ u.scan.timer = some s.settings.framePeriod
      ∧ (s.scan.freeze = true → u.lanes = s.lanes)
      ∧ (s.scan.freeze = false → ∀ l, laneAt u l = (laneAt s l).map fun ln =>
          if ln.state = .armed then { ln with state := .active, index := 0 } else ln)
      ∧ u.px = s.px

/-- A frame completion counts the frame; a FROZEN one leaves every lane; in a DRIVEN one each ACTIVE lane completes where
its index reaches the frame count, starves where an early lane reaches its lead count with rows missing, keeping its index,
and else advances; RETIRING lanes stay, and so does an ARMED lane unless a lane of its request starves; starvations and
aborts count the lanes that starve, and the rest of their requests is withdrawn with STARVED; the rows not yet begun are put
out first (R54, R64, R104 to R106). That a completion ends the
frame whatever rows its bursts have begun is the model's choice (log 7), and so is NONE on the port between frames
(log 20). -/
def Obligations.FrameCompletionAdvancesActiveLanes : Prop :=
  ∀ (s : State) (f : Frame), s.scan.frame = some f →
    ∃ u, exec .frameCompletion s = .next u ∧ u.scan.frame = none ∧ u.scan.port = []
      ∧ u.counters.framesScanned = bump s.counters.framesScanned ∧ u.px = s.px
      ∧ u.scan.output = s.scan.output
          ++ (List.range' f.nextRow (panelHeight s - f.nextRow)).map (fun y =>
              (List.range (panelWidth s)).map fun x => pixelCode s f.mark x y)
      ∧ (f.mark = .frozen → u.lanes = s.lanes ∧ u.counters.starvations = s.counters.starvations
          ∧ u.counters.aborts = s.counters.aborts)
      ∧ (f.mark = .driven →
          u.counters.starvations = bump^[(allLanes.filter (starvesAt s)).length] s.counters.starvations
            ∧ u.counters.aborts = bump^[(allLanes.filter (starvesAt s)).length] s.counters.aborts)
      ∧ (f.mark = .driven → ∀ l ln, laneAt s l = some ln →
          (ln.state = .active → ln.index + 1 = ln.frames →
            laneAt u l = some { ln with index := ln.index + 1, state := .retiring .complete 0 })
          ∧ (ln.state = .active → ln.index + 1 ≠ ln.frames → ln.early = true → ln.index + 1 = ln.leads →
              rowsMissing s ln = true →
              laneAt u l = some { ln with state := .retiring (.abort .starved) 0 }
                ∧ u.notices.flags.getLsbD 1 = true)
          ∧ (ln.state = .active → ln.index + 1 ≠ ln.frames →
              ¬ (ln.early = true ∧ ln.index + 1 = ln.leads ∧ rowsMissing s ln = true) →
              laneAt u l = some { ln with index := ln.index + 1 })
          ∧ (ln.state = .armed → (∀ m n, laneAt s m = some n → starvesAt s m = true → n.tag ≠ ln.tag) →
              laneAt u l = some ln)
          ∧ (∀ kind done, ln.state = .retiring kind done → laneAt u l = some ln))
      ∧ (f.mark = .driven → ownershipLaw s → ∀ l ln r, laneAt s l = some ln → starvesAt s l = true → r ∈ s.req.table →
          r.tag = ln.tag → restWithdrawn s u r .starved)

/-- The end of a retirement walk: the lane is FREE and in no tile entry; every pixel it still owned, from where the walk
stood, has the record of its kind, and every other pixel stays: COMPLETE writes the target, clears the owner, and resets
residue and balance, or counts in the mode's weight and the imbalance stored for the entry of shown level and target; RELEASE
clears the owner; ABORT clears it and makes the pixel indeterminate. The request is told: a part more finished with the walk's
outcome, which behind a cancel of R50 is CANCELLED for a RELEASE, pixels driven and largest frame count counted but for a
RELEASE. With its last part it enters REPORTING, behind the line: the log takes the line's records in order while it has room
and their pages have gone back, each request leaving with its record, and the rest wait; pages go back at once but for a chunk
write in flight. A withdrawn one leaves with its last lane, unrecorded. This is said of a state v with the trigger of a pass
given, from which `finish` ends the event; where no pass can start (`passBarred`) that leaves requests, log and pages as they
are in v (R4, R5, R23, R43, R44, R50, R56, R57, R59, R62, R80, R110 to R112, R176). The end does what the bursts have left
undone: the model's choice (log 7). That R50's CANCELLED is the part outcome where R114 has the lane hold ABORTED is how the
model reads the two rules (log 31). -/
def Obligations.RetirementWritesTheLanesPixels : Prop :=
  (∀ (s : State) (l : LaneId) (ln : Lane) (kind : WalkKind) (done : Nat),
      laneAt s l = some ln → ln.state = .retiring kind done → storeLaw s → ln.rect.col + ln.rect.width ≤ panelWidth s →
      ∃ u, exec (.retirementWalkEnd l) s = .next u ∧ laneAt u l = none
        ∧ (∀ m, m ≠ l → laneAt u m = laneAt s m)
        ∧ u.px.tiles = (s.px.tiles.filter fun e => e.2 ≠ l)
        ∧ ∀ x y, x < panelWidth s →
            pixelAt u x y =
              (if (pixelAt s x y).owner = some l ∧ ln.rect.reaches done (ln.rect.area - done) x y = true then
                retiredRecord s ln kind x y (pixelAt s x y)
              else pixelAt s x y))
    ∧ (∀ (s : State) (ln : Lane) (x y : Nat) (q : PixelRecord), ln.mode.clearing = true →
        retiredRecord s ln .complete x y q =
          { shown := laneTarget s ln x y, owner := none, residue := 0, balance := 0, indeterminate := false })
    ∧ (∀ (s : State) (ln : Lane) (x y : Nat) (q : PixelRecord), ln.mode.clearing = false →
        retiredRecord s ln .complete x y q =
          { shown := laneTarget s ln x y, owner := none
            residue := min 15 (q.residue + if ln.mode = .quick then 2 else 1)
            balance := max (-127) (min 127
              (q.balance + s.lib.imbalance ln.mode ln.band q.shown (laneTarget s ln x y)))
            indeterminate := q.indeterminate })
    ∧ (∀ (lib : Library) (m : Mode) (band : Nat) (shown target : Level),
        lib.imbalance m band shown target =
          (lib.imbalances.getD (m.code * lib.bandCount + band) []).getD
            (if m = .blank then target.toNat else shown.toNat * 16 + target.toNat) 0)
    ∧ (∀ (r : Rect) (done n x y : Nat), r.reaches done n x y = true ↔
        r.col ≤ x ∧ x < r.col + r.width ∧ r.row ≤ y ∧ y < r.row + r.height
          ∧ done ≤ (y - r.row) * r.width + (x - r.col) ∧ (y - r.row) * r.width + (x - r.col) < done + n)
    ∧ (∀ (s : State) (ln : Lane) (o : ReqOutcome) (x y : Nat) (q : PixelRecord),
        retiredRecord s ln (.release o) x y q = { q with owner := none })
    ∧ (∀ (s : State) (ln : Lane) (reason : AbortReason) (x y : Nat) (q : PixelRecord),
        retiredRecord s ln (.abort reason) x y q = { q with owner := none, indeterminate := true })
    ∧ (WalkKind.outcome .complete = .done ∧ (∀ o, WalkKind.outcome (.release o) = o)
        ∧ WalkKind.outcome (.abort .cancelled) = .aborted ∧ WalkKind.outcome (.abort .starved) = .starved
        ∧ WalkKind.outcome (.abort .railLost) = .railLost ∧ WalkKind.outcome (.abort .restarted) = .aborted)
    ∧ (∀ r : Request, composeRecord r =
        { tag := r.tag, outcome := r.outcome.getD .noChange, requestedMode := r.requestedMode
          modeUsed := r.modeUsed.getD r.requestedMode, upgradeReason := r.upgradeReason, band := r.bandUsed
          partsUsed := r.partsUsed, pixelsDriven := r.pixelsDriven, largestFrames := r.largestFrames })
    -- the request is told, in a state v from which the event comes to its end
    ∧ ∀ (s : State) (l : LaneId) (ln : Lane) (kind : WalkKind) (done : Nat) (r q : Request) (line : List Reporting),
        laneAt s l = some ln → ln.state = .retiring kind done →
        findTag s ln.tag = some r → findAge s r.age = some r →
        q = { r with
          partsFinished := r.partsFinished + 1
          outcome := some (match kind with
            | .release o => bringIn r.outcome (if r.cancelled = true then .cancelled else o)
            | .complete | .abort _ => bringIn r.outcome kind.outcome)
          pixelsDriven := match kind with | .release _ => r.pixelsDriven | _ => r.pixelsDriven + ln.owned
          largestFrames := match kind with | .release _ => r.largestFrames | _ => max r.largestFrames ln.frames } →
        line = s.req.line ++ [{ age := r.age, record := composeRecord q }] →
        ∃ v u, exec (.retirementWalkEnd l) s = .next u ∧ u = finish s v
          ∧ v.adm.passWanted = true ∧ v.adm.walk = s.adm.walk ∧ v.req.queue = s.req.queue
          ∧ (passBarred s → u.req = v.req ∧ u.notices.log = v.notices.log ∧ u.pool = v.pool)
          ∧ (∀ age, age ≠ r.age → (∀ h ∈ s.req.line, h.age ≠ age) → findAge v age = findAge s age)
          ∧ (r.withdrawn = false →
              q.partsFinished ≠ q.partsUsed ∨ r.cancelPending ≠ .none ∨ r.withdrawalPending ≠ none →
              findAge v r.age = some q ∧ v.req.line = s.req.line ∧ v.notices.log = s.notices.log)
          ∧ (r.withdrawn = false → q.partsFinished = q.partsUsed → r.cancelPending = .none →
              r.withdrawalPending = none → r.state ≠ .reporting → (line.map fun h => h.age).Nodup →
              (writingFor s r.age = false → ∀ page ∈ r.pages.getD [], page ∈ v.pool.free)
              -- the first n records of the line go into the log, and their requests leave
              ∧ ∃ n, n ≤ line.length
                ∧ v.notices.log = s.notices.log ++ ((line.take n).map fun h => h.record) ∧ v.req.line = line.drop n
                ∧ (∀ h ∈ line.take n, findAge v h.age = none)
                ∧ (∀ h ∈ s.req.line.drop n, findAge v h.age = findAge s h.age)
                ∧ (n < line.length → findAge v r.age = some { q with
                    state := .reporting
                    tally := q.tally.map fun t => { t with closed := true }
                    pages := if writingFor s r.age = true then q.pages else none })
                -- those for which the log has room and whose pages have gone back, up to the first that has to wait
                ∧ (∀ i, i < n → s.notices.log.length + i < 32)
                ∧ (∀ h ∈ s.req.line.take n, readyToOffer s h = true)
                ∧ (n = line.length → writingFor s r.age = false ∨ r.pages = none)
                ∧ (n < line.length → s.notices.log.length + n < 32 →
                    (∀ h, s.req.line[n]? = some h → readyToOffer s h = false)
                      ∧ (n = s.req.line.length → writingFor s r.age = true ∧ r.pages ≠ none)))
          ∧ (r.withdrawn = true → isAdmitting s r.age = false →
              (∀ m n, m ≠ l → laneAt s m = some n → n.tag ≠ ln.tag) →
              findAge v r.age = none ∧ v.req.line = s.req.line ∧ v.notices.log = s.notices.log
                ∧ ∀ page ∈ r.pages.getD [], page ∈ v.pool.free)
          ∧ (r.withdrawn = true →
              (isAdmitting s r.age = true ∨ ∃ m n, m ≠ l ∧ laneAt s m = some n ∧ n.tag = ln.tag) →
              findAge v r.age = some q ∧ v.req.line = s.req.line ∧ v.notices.log = s.notices.log)

/-- The code of a pixel is NONE in a FROZEN frame, without an owner, and with an owner that is not ACTIVE; with an ACTIVE
owner it is the lookup at the lane's mode, band and index from the shown level to the target. Below the lead count the lookup
reads the lead entry, entry 0 in BLANK and from × 16 + from otherwise, and so does not depend on the target; from there on the
entry of the transition, the target in BLANK and from × 16 + to otherwise. The entry is of set m × B + band, and position i of
it is bits 2 × (i mod 4) and the next of its byte ⌊i / 4⌋, behind the sets and entries before it: 1 is DARKEN, 2 is LIGHTEN,
any other NONE. The target is the request's fill level, or the level in its staging pages (R20 to R22, R28, R61, R104). -/
def Obligations.DriveCodesFollowTheOwner : Prop :=
  ∀ (s : State) (x y : Nat),
    pixelCode s .frozen x y = .none
      ∧ ((pixelAt s x y).owner = none → pixelCode s .driven x y = .none)
      ∧ (∀ l ln, (pixelAt s x y).owner = some l → laneAt s l = some ln → ln.state ≠ .active →
          pixelCode s .driven x y = .none)
      ∧ (∀ l ln, (pixelAt s x y).owner = some l → laneAt s l = some ln → ln.state = .active →
          pixelCode s .driven x y =
            s.lib.driveCode ln.mode ln.band (pixelAt s x y).shown (laneTarget s ln x y) ln.index)
      ∧ (∀ (lib : Library) (m : Mode) (band : Nat) (shown a b : Level) (i : Nat), i < (lib.setOf m band).leads →
          lib.driveCode m band shown a i = lib.driveCode m band shown b i)
      ∧ (∀ (lib : Library) (m : Mode) (band : Nat) (shown target : Level) (i set entry : Nat) (w : WaveSet),
          set = m.code * lib.bandCount + band → 1 ≤ lib.bandCount → lib.directory[set]? = some w → i < w.frames →
          entry = (if i < w.leads then (if m = .blank then 0 else shown.toNat * 16 + shown.toNat)
            else if m = .blank then target.toNat else shown.toNat * 16 + target.toNat) →
          lib.driveCode m band shown target i =
            match storedCode lib set w entry i with | 1 => .darken | 2 => .lighten | _ => .none)
      ∧ [Mode.blank, .clear, .settle, .quick, .stroke].map Mode.code = [0, 1, 2, 3, 4]
      ∧ (∀ (lib : Library) (m : Mode) (band : Nat), lib.bandCount = lib.bounds.length - 1
          ∧ lib.setOf m band = lib.directory.getD (m.code * lib.bandCount + band) { frames := 0, leads := 0 })
      ∧ ∀ (ln : Lane) (r : Request), findTag s ln.tag = some r →
          (∀ level, r.source = .fill level → laneTarget s ln x y = level)
            ∧ ((∀ level, r.source ≠ .fill level) → ∀ pages b page, r.pages = some pages →
                b = (y - r.rect.row) * (r.rect.width / 2) + (x - r.rect.col) / 2 → pages[b / 4096]? = some page →
                (laneTarget s ln x y).toNat =
                  (stagingByte s (page * 4096 + b % 4096)).toNat / 16 ^ ((x - r.rect.col) % 2) % 16)

/-! ### The frame memory -/

/-- A grant decision makes none while the calibration or a grant is in progress, gives refresh the grant while debt is owed,
and else serves the waiting client that stands first in the order: scanner, the retirement walks in turn behind the lane
granted last, admission walk, initialisation, inflow writer, copier, library. Refresh requests are served at once by an idle
memory and counted up to 8 by a busy one, and the timer runs again; the ends of refresh, burst and
calibration decide the next grant; a live burst moves its units for its client, which waits no longer with none left, and
one of an abandoned operation nothing. Of clients that become ready while the memory is idle, the first
is granted, whatever its place; with the memory busy they wait. The row for an operation's end first waits for the grant
where units are left: the refresh owed and whoever stands before it are served, so that at its grant no refresh is owed and no
client waits that stands before it, and only then is the rest moved. What a burst moves is said of each client: the pixel
records a retirement or an assume walk writes, the staging bytes of a chunk write and of a snapshot, the row of codes the
scanner puts out, the readings of an admission walk, the bytes a library chunk stores; it leaves everything else, its own
position apart (R14, R30, R68, R84, R104, R110, R111, R121, R151 to R155). The model's choices: how much a burst moves is an operand (log 6), and what goes with a walk's records takes no burst
of its own (log 38); the bursts served before an operation's end and not named move nothing that State shows (log 7); the
row a scan begins follows its burst (log 20); what an admission burst reads, and in which order, is as log 30 has it; bursts
of the initialisation walk and of the commit walk move nothing that State shows but the walk's position, and a library
chunk's bytes go in their order (logs 9 and 19); bursts of abandoned operations move nothing at all (log 32). -/
def Obligations.FrameMemoryServesInOrder : Prop :=
  (∀ last : LaneId, precedence last =
      .scanner :: (List.range 16).map (fun i => .retirement (Fin.ofNat 16 (last.val + 1 + i)))
        ++ [.admission, .initialisation, .inflow, .copier, .library])
    ∧ (∀ m : FrameMemory, (m.calibrating = true ∨ m.granted ≠ none → decideGrant m = m)
      ∧ (m.calibrating = false → m.granted = none → 0 < m.debt →
          decideGrant m = { m with granted := some .refresh, debt := m.debt - 1 })
      ∧ (m.calibrating = false → m.granted = none → m.debt = 0 → m.waiting = [] → decideGrant m = m)
      ∧ ∀ first who rest, m.calibrating = false → m.granted = none → m.debt = 0 →
          precedence m.lastLane = first ++ who :: rest → (∀ q ∈ first, q ∉ m.waiting) → who ∈ m.waiting →
          decideGrant m = { m with
            granted := some (.burst who true)
            waiting := m.waiting.filter fun q => q ≠ who
            lastLane := match who with | .retirement l => l | _ => m.lastLane })
    ∧ (∀ s : State, settled s →
        (s.mem.calibrating = false → s.mem.granted = none →
            ∃ u, exec (.refreshRequest []) s = .next u
              ∧ u.mem = { s.mem with granted := some .refresh, refreshTimer := 3900 })
          ∧ (s.mem.calibrating = true ∨ s.mem.granted ≠ none →
              ∃ u, exec (.refreshRequest []) s = .next u
                ∧ u.mem = { s.mem with debt := min 8 (s.mem.debt + 1), refreshTimer := 3900 })
          ∧ (s.mem.granted = some .refresh →
              ∃ u, exec (.refreshEnd []) s = .next u ∧ u.mem = decideGrant { s.mem with granted := none })
          ∧ (s.mem.calibrating = true →
              ∃ u, exec .calibrationEnd s = .next u ∧ u.mem = decideGrant { s.mem with calibrating := false }))
    ∧ (∀ (s : State) (first : List Requester) (who : Requester) (rest : List Requester),
        (∀ q ∈ first, restOf s q = 0) → 0 < restOf s who →
        s.mem.calibrating = false → s.mem.granted = none → s.mem.debt = 0 → s.mem.waiting = [] →
        (becomeReady (first ++ who :: rest) s).mem.granted = some (.burst who true)
          ∧ (becomeReady (first ++ who :: rest) s).mem.lastLane =
              (match who with | .retirement l => l | _ => s.mem.lastLane)
          ∧ ∀ q, q ∈ (becomeReady (first ++ who :: rest) s).mem.waiting ↔ q ∈ rest ∧ 0 < restOf s q)
    ∧ (∀ (s : State) (ready : List Requester), s.mem.calibrating = true ∨ s.mem.granted ≠ none →
        (becomeReady ready s).mem.granted = s.mem.granted
          ∧ ∀ q, q ∈ (becomeReady ready s).mem.waiting ↔ q ∈ s.mem.waiting ∨ q ∈ ready ∧ 0 < restOf s q)
    ∧ (∀ (s : State) (ready : List Requester) (units : Nat),
        exec (.refreshRequest ready) s = exec (.refreshRequest []) (becomeReady ready s)
          ∧ exec (.refreshEnd ready) s = exec (.refreshEnd []) (becomeReady ready s)
          ∧ exec (.burstEnd units ready) s = exec (.burstEnd units []) (becomeReady ready s))
    -- what is left to an operation, the last bursts of an operation, and the rows for the ends of operations
    ∧ (∀ (s : State) (l : LaneId),
        (restOf s .scanner = match s.scan.frame with | some f => panelHeight s - f.nextRow | none => 0)
        ∧ (laneAt s l = none → restOf s (.retirement l) = 0)
        ∧ (∀ ln, laneAt s l = some ln → restOf s (.retirement l) =
            match ln.state with | .retiring _ done => ln.rect.area - done | .armed | .active => 0)
        ∧ (s.adm.walk = none → restOf s .admission = 0)
        ∧ (∀ w r, s.adm.walk = some w → findAge s w.age = some r →
            restOf s .admission = r.rect.area - w.readings.length)
        ∧ (restOf s .initialisation = match s.px.walk with
            | some (.initialise done) => panelWidth s * panelHeight s - done
            | some (.assume r _ done) => r.area - done
            | none => 0)
        ∧ (s.inflow.writing = none ∨ s.inflow.buffer = [] → restOf s .inflow = 0)
        ∧ (∀ done c later, s.inflow.writing = some done → s.inflow.buffer = c :: later →
            restOf s .inflow = c.data.length - done)
        ∧ (currentJob s = none → restOf s .copier = 0)
        ∧ (∀ j done half, currentJob s = some (j, done, half) → restOf s .copier = j.rect.area - done)
        ∧ [.scanner, .retirement l, .admission, .initialisation, .inflow, .copier, .library].map burstUnits
            = [1, 23, 23, 23, 64, 128, 64])
    ∧ (∀ r : Rect, r.area = r.width * r.height)
    ∧ (∀ s : State,
        (∀ c, s.lib.write = some c →
            restOf s .library = min (s.lib.expected - c.offset) c.bytes.length - s.lib.moved)
        ∧ (s.lib.write = none → s.lib.commit = .walking → restOf s .library = s.lib.commitReads - s.lib.moved)
        ∧ (s.lib.write = none → s.lib.commit ≠ .walking → restOf s .library = 0)
        ∧ (s.lib.received ≠ s.lib.expected ∨ s.lib.crc ≠ s.lib.hostCrc → s.lib.commitReads = 0))
    ∧ (∀ (s : State) (who : Requester), s.mem.calibrating = false →
        (restOf s who = 0 → lastBursts who s = s)
          ∧ (0 < restOf s who →
              lastBursts who s = { s with mem := (lastBursts who s).mem }
                ∧ (lastBursts who s).mem.granted = some (.burst who true)
                ∧ (s.mem.granted ≠ some (.burst who true) ∨ burstUnits who < restOf s who →
                    (lastBursts who s).mem.debt = 0
                      ∧ ∃ m first rest, (lastBursts who s).mem = decideGrant m
                        ∧ m.calibrating = false ∧ m.granted = none ∧ m.debt = 0 ∧ who ∈ m.waiting
                        ∧ precedence m.lastLane = first ++ who :: rest ∧ (∀ q ∈ first, q ∉ m.waiting)
                        ∧ (∀ q ∈ m.waiting, q = who ∨ q ∈ s.mem.waiting)
                        ∧ ∀ q ∈ s.mem.waiting, q ≠ who → q ∉ m.waiting →
                            ∃ last before after, precedence last = before ++ who :: after ∧ q ∈ before)))
    ∧ (∀ s : State,
        (∀ f, s.scan.frame = some f →
            exec .frameCompletion s = .next (finish s (completeFrame f (lastBursts .scanner s))))
          ∧ (∀ l ln kind done, laneAt s l = some ln → ln.state = .retiring kind done →
              exec (.retirementWalkEnd l) s
                = .next (finish s (endRetirement l ln kind (lastBursts (.retirement l) s))))
          ∧ (∀ w, s.adm.walk = some w →
              exec .admissionWalkEnd s = .next (finish s (endWalk w (lastBursts .admission s))))
          ∧ (∀ done, s.px.walk = some (.initialise done) →
              exec .initialisationWalkEnd s = .next (finish s (endPixelWalk (lastBursts .initialisation s))))
          ∧ (∀ r level done, s.px.walk = some (.assume r level done) →
              exec .assumeWalkEnd s
                = .next (finish s (endPixelWalk (advancePixelWalk r.area (lastBursts .initialisation s)))))
          ∧ (∀ done c later, s.inflow.writing = some done → s.inflow.buffer = c :: later →
              exec .inflowChunkWriteEnd s = .next (finish s (endChunkWrite c (lastBursts .inflow s))))
          ∧ (∀ j done half, currentJob s = some (j, done, half) →
              exec .copierJobEnd s = .next (finish s (endSnapshot j (lastBursts .copier s))))
          ∧ (∀ c, s.lib.write = some c →
              exec .libChunkWriteEnd s = .next (finish s (endLibWrite (lastBursts .library s))))
          ∧ (s.lib.commit = .walking →
              exec .commitWalkEnd s = .next (finish s (raise .libraryDone
                (setLibrary (committedLibrary s.lib) (clientDone .library (lastBursts .library s)))))))
    -- bursts
    ∧ ∀ (s : State) (units : Nat) (who : Requester),
        (s.mem.granted = some (.burst who true) →
            ∃ u, exec (.burstEnd units []) s = .next u
              ∧ u.px = (serveBurst who units s).px ∧ u.pool.bytes = (serveBurst who units s).pool.bytes
              ∧ u.lanes = (serveBurst who units s).lanes ∧ u.inflow = (serveBurst who units s).inflow
              ∧ u.lib = (serveBurst who units s).lib
              ∧ u.scan.frame = (serveBurst who units s).scan.frame ∧ u.scan.port = (serveBurst who units s).scan.port
              ∧ u.scan.output = (serveBurst who units s).scan.output
              ∧ (settled s → u.adm = (serveBurst who units s).adm ∧ u.copier = (serveBurst who units s).copier
                  ∧ (restOf (serveBurst who units s) who = 0 →
                      who ∉ u.mem.waiting ∧ u.mem.granted ≠ some (.burst who true))))
          ∧ (serveBurst .library units s).lib = { s.lib with
              data := match s.lib.write with
                | some c =>
                  s.lib.data ++ ((c.bytes.take (s.lib.expected - c.offset)).drop s.lib.moved).take (min units 64)
                | none => s.lib.data
              moved := s.lib.moved + min (min units 64) (restOf s .library) }
          ∧ (∀ w r, s.adm.walk = some w → findAge s w.age = some r →
              (serveBurst .admission units s).adm = { s.adm with walk := some { w with
                readings := w.readings
                  ++ (List.range' w.readings.length (min (min units 23) (r.rect.area - w.readings.length))).map
                      (readPixel s w r) } })
          ∧ (∀ j done half n, currentJob s = some (j, done, half) → (half.isSome = true ↔ done % 2 = 1) →
              n = min (min units 128) (j.rect.area - done) →
              (serveBurst .copier units s).copier = { s.copier with
                  jobs := s.copier.jobs.map fun k =>
                    if k.age = j.age then
                      { k with state := .running (done + n) (if (done + n) % 2 = 0 then none
                          else if n = 0 then half else some (snapshotLevel s j (done + n - 1))) }
                    else k }
                ∧ (j.pages.Nodup → ∀ b a left, done ≤ 2 * b + 1 → 2 * b + 1 < done + n →
                    imageAddress j.pages b = some a →
                    (if done = 2 * b + 1 then half = some left else left = snapshotLevel s j (2 * b)) →
                    stagingByte (serveBurst .copier units s) a = packLevels left (snapshotLevel s j (2 * b + 1)))
                ∧ ∀ a, (∀ b, done ≤ 2 * b + 1 → 2 * b + 1 < done + n → imageAddress j.pages b ≠ some a) →
                    stagingByte (serveBurst .copier units s) a = stagingByte s a)
          ∧ (∀ done c later r pages, s.inflow.writing = some done → s.inflow.buffer = c :: later →
              findAge s c.age = some r → r.pages = some pages →
              (serveBurst .inflow units s).inflow
                  = { s.inflow with writing := some (min c.data.length (done + min units 64)) }
                ∧ (pages.Nodup → ∀ i a b, done ≤ i → i < done + min units 64 → (writtenBytes r c)[i]? = some b →
                    imageAddress pages (c.firstRow * (r.rect.width / 2) + i) = some a →
                    stagingByte (serveBurst .inflow units s) a = b)
                ∧ ∀ a, (∀ i, done ≤ i → i < done + min units 64 → i < c.data.length →
                    imageAddress pages (c.firstRow * (r.rect.width / 2) + i) ≠ some a) →
                    stagingByte (serveBurst .inflow units s) a = stagingByte s a)
          ∧ (∀ l ln kind done n, laneAt s l = some ln → ln.state = .retiring kind done → storeLaw s →
              ln.rect.col + ln.rect.width ≤ panelWidth s → n = min (min units 23) (ln.rect.area - done) →
              laneAt (serveBurst (.retirement l) units s) l = some { ln with state := .retiring kind (done + n) }
                ∧ (∀ m, m ≠ l → laneAt (serveBurst (.retirement l) units s) m = laneAt s m)
                ∧ (serveBurst (.retirement l) units s).px.tiles = s.px.tiles
                ∧ ∀ x y, x < panelWidth s →
                    pixelAt (serveBurst (.retirement l) units s) x y =
                      (if (pixelAt s x y).owner = some l ∧ ln.rect.reaches done n x y = true then
                        retiredRecord s ln kind x y (pixelAt s x y)
                      else pixelAt s x y))
          ∧ (∀ r level done n, s.px.walk = some (.assume r level done) → r.col + r.width ≤ panelWidth s →
              n = min (min units 23) (r.area - done) →
              (serveBurst .initialisation units s).px.walk = some (.assume r level (done + n))
                ∧ (serveBurst .initialisation units s).px.tiles = s.px.tiles
                ∧ ∀ x y, x < panelWidth s →
                    pixelAt (serveBurst .initialisation units s) x y =
                      (if r.reaches done n x y = true then
                        { shown := level, owner := (pixelAt s x y).owner, residue := 0, balance := 0
                          indeterminate := false }
                      else pixelAt s x y))
          ∧ (∀ done, s.px.walk = some (.initialise done) →
              (serveBurst .initialisation units s).px
                = { s.px with walk := some (.initialise (min (panelRecords s) (done + min units 23))) })
          ∧ (∀ f codes, s.scan.frame = some f →
              codes = (List.range (panelWidth s)).map (fun x => pixelCode s f.mark x f.nextRow) →
              (serveBurst .scanner units s).scan =
                if 0 < units ∧ f.nextRow < panelHeight s then
                  { s.scan with
                    frame := some { f with nextRow := f.nextRow + 1 }, port := codes, output := s.scan.output ++ [codes] }
                else s.scan)
          -- a burst of one client leaves what the others write
          ∧ (who ≠ .initialisation → (∀ l, who ≠ .retirement l) → (serveBurst who units s).px = s.px)
          ∧ ((∀ l, who ≠ .retirement l) → (serveBurst who units s).lanes = s.lanes)
          ∧ (who ≠ .inflow → who ≠ .copier → (serveBurst who units s).pool = s.pool)
          ∧ (who ≠ .inflow → (serveBurst who units s).inflow = s.inflow)
          ∧ (who ≠ .copier → (serveBurst who units s).copier = s.copier)
          ∧ (who ≠ .scanner → (serveBurst who units s).scan = s.scan)
          ∧ (who ≠ .admission → (serveBurst who units s).adm = s.adm)
          ∧ (who ≠ .library → (serveBurst who units s).lib = s.lib)
          ∧ (serveBurst who units s).req = s.req
          ∧ (s.mem.granted = some (.burst who false) →
              ∃ u, exec (.burstEnd units []) s = .next u
                ∧ u.px = s.px ∧ u.pool.bytes = s.pool.bytes ∧ u.lanes = s.lanes ∧ u.inflow = s.inflow ∧ u.lib = s.lib
                ∧ u.scan.frame = s.scan.frame ∧ u.scan.port = s.scan.port ∧ u.scan.output = s.scan.output)

/-- An outcome is kept as the worst brought in, by the ranking RAIL_LOST, STARVED, ABORTED, CANCELLED, FLUSHED,
GHOST_REFUSED, UNSUPPORTED, DONE, NO_CHANGE; the order of bringing in does not matter; and the completion record carries the
outcome so far (R55). -/
def Obligations.OutcomesKeepTheWorst : Prop :=
  ([ReqOutcome.railLost, .starved, .aborted, .cancelled, .flushed, .ghostRefused, .unsupported, .done, .noChange].map
      ReqOutcome.rank = [1, 2, 3, 4, 5, 6, 7, 8, 9])
    ∧ (∀ o : ReqOutcome, bringIn none o = o)
    ∧ (∀ old o : ReqOutcome, old.rank ≤ o.rank → bringIn (some old) o = old)
    ∧ (∀ old o : ReqOutcome, o.rank < old.rank → bringIn (some old) o = o)
    ∧ (∀ (soFar : Option ReqOutcome) (a b : ReqOutcome),
        bringIn (some (bringIn soFar a)) b = bringIn (some (bringIn soFar b)) a)
    ∧ (bringIn (some .done) .noChange = .done ∧ bringIn (some .noChange) .noChange = .noChange)
    ∧ ∀ (r : Request) (o : ReqOutcome), r.outcome = some o → (composeRecord r).outcome = o

/-! ### What commands leave as it was -/

/-- Pixel records and tile entries change only at CONFIGURE, admission, assume and retirement walks, bursts and resets
(R2 to R5, R11). That the end of the initialisation walk writes no record is the model's reading of R9 (log 9). -/
def Obligations.PixelStoreFrame : Prop :=
  ∀ (c : Instr) (s u : State), exec c s = .next u →
    (writesPixels c = false → u.px.geometry = s.px.geometry ∧ ∀ x y, pixelAt u x y = pixelAt s x y)
      ∧ (writesTiles c = false → u.px.tiles = s.px.tiles)

/-- The library changes only at the commands and events of chapter 02, at the bursts of its chunk writes and commit walk, and at
resets (R24, R30, R36, R151). -/
def Obligations.LibraryFrame : Prop :=
  ∀ (c : Instr) (s u : State), exec c s = .next u → writesLibrary c = false → u.lib = s.lib

/-- Staging bytes change only at the ends of chunk writes and snapshots, at bursts and at resets (R68, R121, R150). -/
def Obligations.StagingFrame : Prop :=
  ∀ (c : Instr) (s u : State), exec c s = .next u → writesStaging c = false → ∀ a, stagingByte u a = stagingByte s a

/-- Settings change only at CONFIGURE and resets, notice masks and priorities only at NOTICE_SET and resets, the
temperature record only at its own events, CONFIGURE, changes of library state and resets (R145 to R149, R166, R174). -/
def Obligations.SettingsMasksAndTemperatureFrame : Prop :=
  ∀ (c : Instr) (s u : State), exec c s = .next u → resets c = false →
    ((∀ t, c ≠ .configure t) → u.settings = s.settings)
      ∧ ((∀ t, c ≠ .noticeSet t) → u.notices.masks = s.notices.masks ∧ u.notices.priorities = s.notices.priorities)
      ∧ (writesTemperature c = false → u.temp = s.temp)

/-- Lane records, the freeze state, and the frame in flight with the output port change only at their own commands and
events and at resets (R100, R103, R105, R107, R108). -/
def Obligations.LanesAndScanFrame : Prop :=
  ∀ (c : Instr) (s u : State), exec c s = .next u →
    (writesLanes c = false → u.lanes = s.lanes)
      ∧ (writesFreeze c = false → u.scan.freeze = s.scan.freeze)
      ∧ (writesFrame c = false →
          u.scan.frame = s.scan.frame ∧ u.scan.port = s.scan.port ∧ u.scan.output = s.scan.output)

/-- The Inflow Unit's buffer, write, discard flag and latch, and the overlay stack, change only at their own commands and
events, CONFIGURE, RESTART and resets (R66 to R77, R128). -/
def Obligations.InflowAndOverlayFrame : Prop :=
  ∀ (c : Instr) (s u : State), exec c s = .next u →
    (writesInflow c = false → u.inflow = s.inflow) ∧ (writesOverlays c = false → u.copier.overlays = s.copier.overlays)

/-- Counters change only where R117, R160 and R168 count or clear; the link changes only at transactions, RESET_RELEASE
and resets (R158, R163, R170). -/
def Obligations.CountersAndLinkFrame : Prop :=
  ∀ (c : Instr) (s u : State), exec c s = .next u →
    (writesCounters c = false → u.counters = s.counters)
      ∧ (endsTransaction c = false → resets c = false → c ≠ .transactionStart → c ≠ .resetRelease → u.link = s.link)

/-! ### Laws every step keeps -/

/-- Every step leaves nothing to do: no pass due, rails and timers as the lanes ask, no grant due, ATTN at its level. -/
def Obligations.EveryStepEndsSettled : Prop :=
  ∀ s u : State, settled s → step s = .next u → settled u

/-- Every step keeps ATTN asserted exactly when a pending source lies in an unmasked group (R171 to R173). -/
def Obligations.EveryStepKeepsAttn : Prop :=
  ∀ s u : State, attnLaw s → step s = .next u → attnLaw u

/-- Every step keeps the enable line, the timers and the ACTIVE lanes in keeping with the rail state (R100, R102, R135,
R137 to R139). -/
def Obligations.EveryStepKeepsPower : Prop :=
  ∀ s u : State, powerLaw s → step s = .next u → powerLaw u

/-- Every step keeps the capacities, the generation number, the 32-bit counters and the settings within their limits (R26, R37,
R67, R119, R128, R154, R164, R168). -/
def Obligations.EveryStepKeepsTheLimits : Prop :=
  ∀ s u : State, capacityLaw s ∧ counterLaw s ∧ settingsLaw s → step s = .next u →
    capacityLaw u ∧ counterLaw u ∧ settingsLaw u

/-- Every step keeps every pixel's residue in 0 to 15 and its balance in -127 to +127 (R4). -/
def Obligations.EveryStepKeepsResidueAndBalance : Prop :=
  ∀ s u : State, pixelLaw s → step s = .next u → pixelLaw u

/-- Every step keeps the staging memory and the pixel table in canonical form and the free page list rising without
duplicates; the jobs in keeping with their requests and overlay entries; and free pages, pages held by requests and pages held
by overlay entries, with those of a discarded entry's RUNNING job, the 3584 pages, none with two holders (R60 to R62, R119 to
R124, R128, R130). The canonical forms (logs 8 and 9), the order of the free page list (log 33) and the return of the pages
of a discarded entry whose job a RESTART or CONFIGURE abandons (log 15) are the model's own. -/
def Obligations.EveryStepKeepsTheStores : Prop :=
  (∀ s u : State, storeLaw s ∧ freePagesLaw s → step s = .next u → storeLaw u ∧ freePagesLaw u)
    ∧ (∀ s u : State, ownershipLaw s ∧ jobLaw s → step s = .next u → jobLaw u)
    ∧ ∀ s u : State, ownershipLaw s ∧ freePagesLaw s ∧ jobLaw s ∧ pagesLaw s → step s = .next u → pagesLaw u

/-- Every step keeps band and temperature state those of reading, counter and library, and the counter at most 3, and the
bounds of the bands, on which the lookup of a band rests, strictly ascending (R19, R145). -/
def Obligations.EveryStepKeepsTheTemperature : Prop :=
  (∀ s u : State, temperatureLaw s → step s = .next u → temperatureLaw u)
    ∧ ∀ s u : State, boundsLaw s → step s = .next u → boundsLaw u

/-- Every step keeps the request table empty and every lane FREE while the library is LOADING (R35). -/
def Obligations.EveryStepKeepsLoadingAlone : Prop :=
  ∀ s u : State, loadingLaw s → step s = .next u → loadingLaw u

/-- Every step keeps what ties requests, queue, parts, lanes, the line, the walk and the owners together: tags are
distinct, no request has two queue entries, every lane in use belongs to a live request, every part is an entry, a lane or
finished, an owner is a lane in use whose rectangle contains the pixel and whose tile entry names it, and no indeterminate
pixel is owned by a SETTLE, QUICK or STROKE lane. Every step keeps that no lane belongs to a request posted later than that of
a queue entry whose rectangle intersects the lane's; that rows accepted and written stay in step with the rows in the buffer;
and that an ACTIVE lane at or beyond its lead count has a request with all its rows written (R3, R5, R11, R37, R41, R43, R57,
R64, R68, R82, R93, R95, R103). What the law says of a walk's readings
is the model's own (log 30), and so are the canonical forms in it (logs 8 and 9). -/
def Obligations.EveryStepKeepsOwnersAndRequests : Prop :=
  (∀ s u : State, ownershipLaw s → step s = .next u → ownershipLaw u)
    ∧ (∀ s u : State, ownershipLaw s ∧ orderLaw s → step s = .next u → orderLaw u)
    ∧ (∀ s u : State, ownershipLaw s ∧ jobLaw s ∧ rowsLaw s → step s = .next u → rowsLaw u)
    ∧ ∀ s u : State, ownershipLaw s ∧ jobLaw s ∧ rowsLaw s ∧ startLaw s → step s = .next u → startLaw u

/-- Every law holds at reset. -/
def Obligations.LawsHoldAtReset : Prop :=
  attnLaw State.reset ∧ powerLaw State.reset ∧ capacityLaw State.reset ∧ counterLaw State.reset
    ∧ settingsLaw State.reset ∧ pixelLaw State.reset ∧ storeLaw State.reset ∧ freePagesLaw State.reset
    ∧ temperatureLaw State.reset ∧ boundsLaw State.reset ∧ loadingLaw State.reset ∧ settled State.reset ∧ ownershipLaw State.reset
    ∧ jobLaw State.reset ∧ pagesLaw State.reset ∧ orderLaw State.reset ∧ rowsLaw State.reset ∧ startLaw State.reset

end
end

