-- ==== Sys2Proof/Laws/State.lean ====
section
/-!
SUPPORT. What each plain update of the state leaves as it was: one lemma for each update, a conjunct for each field, true by
rfl.
-/

namespace Sys2Proof.Machine

@[simp] theorem raise_keeps (src : NoticeSource) (s : State) :
    (raise src s).settings = s.settings ∧ (raise src s).px = s.px ∧ (raise src s).lib = s.lib
      ∧ (raise src s).req = s.req ∧ (raise src s).inflow = s.inflow ∧ (raise src s).pool = s.pool
      ∧ (raise src s).adm = s.adm ∧ (raise src s).lanes = s.lanes ∧ (raise src s).scan = s.scan
      ∧ (raise src s).copier = s.copier ∧ (raise src s).rails = s.rails ∧ (raise src s).temp = s.temp
      ∧ (raise src s).notices.masks = s.notices.masks ∧ (raise src s).notices.priorities = s.notices.priorities
      ∧ (raise src s).notices.attn = s.notices.attn ∧ (raise src s).notices.log = s.notices.log
      ∧ (raise src s).counters = s.counters ∧ (raise src s).link = s.link ∧ (raise src s).mem = s.mem
      ∧ (raise src s).pending = s.pending := by
  and_intros <;> rfl

@[simp] theorem syncAttn_keeps (s : State) :
    (syncAttn s).settings = s.settings ∧ (syncAttn s).px = s.px ∧ (syncAttn s).lib = s.lib
      ∧ (syncAttn s).req = s.req ∧ (syncAttn s).inflow = s.inflow ∧ (syncAttn s).pool = s.pool
      ∧ (syncAttn s).adm = s.adm ∧ (syncAttn s).lanes = s.lanes ∧ (syncAttn s).scan = s.scan
      ∧ (syncAttn s).copier = s.copier ∧ (syncAttn s).rails = s.rails ∧ (syncAttn s).temp = s.temp
      ∧ (syncAttn s).notices.flags = s.notices.flags ∧ (syncAttn s).notices.masks = s.notices.masks
      ∧ (syncAttn s).notices.priorities = s.notices.priorities ∧ (syncAttn s).notices.log = s.notices.log
      ∧ (syncAttn s).counters = s.counters ∧ (syncAttn s).link = s.link ∧ (syncAttn s).mem = s.mem
      ∧ (syncAttn s).pending = s.pending := by
  and_intros <;> rfl

@[simp] theorem writeStaging_keeps (a : Nat) (b : Byte) (s : State) :
    (writeStaging a b s).settings = s.settings ∧ (writeStaging a b s).px = s.px ∧ (writeStaging a b s).lib = s.lib
      ∧ (writeStaging a b s).req = s.req ∧ (writeStaging a b s).inflow = s.inflow
      ∧ (writeStaging a b s).pool.free = s.pool.free ∧ (writeStaging a b s).adm = s.adm
      ∧ (writeStaging a b s).lanes = s.lanes ∧ (writeStaging a b s).scan = s.scan
      ∧ (writeStaging a b s).copier = s.copier ∧ (writeStaging a b s).rails = s.rails
      ∧ (writeStaging a b s).temp = s.temp ∧ (writeStaging a b s).notices = s.notices
      ∧ (writeStaging a b s).counters = s.counters ∧ (writeStaging a b s).link = s.link
      ∧ (writeStaging a b s).mem = s.mem ∧ (writeStaging a b s).pending = s.pending := by
  and_intros <;> rfl

@[simp] theorem updatePixel_keeps (x y : Nat) (f : PixelRecord → PixelRecord) (s : State) :
    (updatePixel x y f s).settings = s.settings ∧ (updatePixel x y f s).px.geometry = s.px.geometry
      ∧ (updatePixel x y f s).px.tiles = s.px.tiles ∧ (updatePixel x y f s).px.walk = s.px.walk
      ∧ (updatePixel x y f s).lib = s.lib ∧ (updatePixel x y f s).req = s.req
      ∧ (updatePixel x y f s).inflow = s.inflow ∧ (updatePixel x y f s).pool = s.pool
      ∧ (updatePixel x y f s).adm = s.adm ∧ (updatePixel x y f s).lanes = s.lanes
      ∧ (updatePixel x y f s).scan = s.scan ∧ (updatePixel x y f s).copier = s.copier
      ∧ (updatePixel x y f s).rails = s.rails ∧ (updatePixel x y f s).temp = s.temp
      ∧ (updatePixel x y f s).notices = s.notices ∧ (updatePixel x y f s).counters = s.counters
      ∧ (updatePixel x y f s).link = s.link ∧ (updatePixel x y f s).mem = s.mem
      ∧ (updatePixel x y f s).pending = s.pending := by
  and_intros <;> rfl

@[simp] theorem addToTiles_keeps (l : LaneId) (r : Rect) (s : State) :
    (addToTiles l r s).settings = s.settings ∧ (addToTiles l r s).px.geometry = s.px.geometry
      ∧ (addToTiles l r s).px.pixels = s.px.pixels ∧ (addToTiles l r s).px.walk = s.px.walk
      ∧ (addToTiles l r s).lib = s.lib ∧ (addToTiles l r s).req = s.req ∧ (addToTiles l r s).inflow = s.inflow
      ∧ (addToTiles l r s).pool = s.pool ∧ (addToTiles l r s).adm = s.adm ∧ (addToTiles l r s).lanes = s.lanes
      ∧ (addToTiles l r s).scan = s.scan ∧ (addToTiles l r s).copier = s.copier
      ∧ (addToTiles l r s).rails = s.rails ∧ (addToTiles l r s).temp = s.temp
      ∧ (addToTiles l r s).notices = s.notices ∧ (addToTiles l r s).counters = s.counters
      ∧ (addToTiles l r s).link = s.link ∧ (addToTiles l r s).mem = s.mem ∧ (addToTiles l r s).pending = s.pending := by
  and_intros <;> rfl

@[simp] theorem removeFromTiles_keeps (l : LaneId) (s : State) :
    (removeFromTiles l s).settings = s.settings ∧ (removeFromTiles l s).px.geometry = s.px.geometry
      ∧ (removeFromTiles l s).px.pixels = s.px.pixels ∧ (removeFromTiles l s).px.walk = s.px.walk
      ∧ (removeFromTiles l s).lib = s.lib ∧ (removeFromTiles l s).req = s.req
      ∧ (removeFromTiles l s).inflow = s.inflow ∧ (removeFromTiles l s).pool = s.pool
      ∧ (removeFromTiles l s).adm = s.adm ∧ (removeFromTiles l s).lanes = s.lanes
      ∧ (removeFromTiles l s).scan = s.scan ∧ (removeFromTiles l s).copier = s.copier
      ∧ (removeFromTiles l s).rails = s.rails ∧ (removeFromTiles l s).temp = s.temp
      ∧ (removeFromTiles l s).notices = s.notices ∧ (removeFromTiles l s).counters = s.counters
      ∧ (removeFromTiles l s).link = s.link ∧ (removeFromTiles l s).mem = s.mem
      ∧ (removeFromTiles l s).pending = s.pending := by
  and_intros <;> rfl

@[simp] theorem clientDone_keeps (r : Requester) (s : State) :
    (clientDone r s).settings = s.settings ∧ (clientDone r s).px = s.px ∧ (clientDone r s).lib = s.lib
      ∧ (clientDone r s).req = s.req ∧ (clientDone r s).inflow = s.inflow ∧ (clientDone r s).pool = s.pool
      ∧ (clientDone r s).adm = s.adm ∧ (clientDone r s).lanes = s.lanes ∧ (clientDone r s).scan = s.scan
      ∧ (clientDone r s).copier = s.copier ∧ (clientDone r s).rails = s.rails ∧ (clientDone r s).temp = s.temp
      ∧ (clientDone r s).notices = s.notices ∧ (clientDone r s).counters = s.counters
      ∧ (clientDone r s).link = s.link ∧ (clientDone r s).mem.calibrating = s.mem.calibrating
      ∧ (clientDone r s).mem.debt = s.mem.debt ∧ (clientDone r s).mem.lastLane = s.mem.lastLane
      ∧ (clientDone r s).mem.epoch = s.mem.epoch ∧ (clientDone r s).pending = s.pending := by
  and_intros <;> rfl

@[simp] theorem clientAbandon_keeps (r : Requester) (s : State) :
    (clientAbandon r s).settings = s.settings ∧ (clientAbandon r s).px = s.px ∧ (clientAbandon r s).lib = s.lib
      ∧ (clientAbandon r s).req = s.req ∧ (clientAbandon r s).inflow = s.inflow ∧ (clientAbandon r s).pool = s.pool
      ∧ (clientAbandon r s).adm = s.adm ∧ (clientAbandon r s).lanes = s.lanes ∧ (clientAbandon r s).scan = s.scan
      ∧ (clientAbandon r s).copier = s.copier ∧ (clientAbandon r s).rails = s.rails
      ∧ (clientAbandon r s).temp = s.temp ∧ (clientAbandon r s).notices = s.notices
      ∧ (clientAbandon r s).counters = s.counters ∧ (clientAbandon r s).link = s.link
      ∧ (clientAbandon r s).mem.calibrating = s.mem.calibrating ∧ (clientAbandon r s).mem.debt = s.mem.debt
      ∧ (clientAbandon r s).mem.lastLane = s.mem.lastLane ∧ (clientAbandon r s).mem.epoch = s.mem.epoch
      ∧ (clientAbandon r s).pending = s.pending := by
  and_intros <;> rfl

@[simp] theorem setLane_keeps (l : LaneId) (v : Option Lane) (s : State) :
    (setLane l v s).settings = s.settings ∧ (setLane l v s).px = s.px ∧ (setLane l v s).lib = s.lib
      ∧ (setLane l v s).req = s.req ∧ (setLane l v s).inflow = s.inflow ∧ (setLane l v s).pool = s.pool
      ∧ (setLane l v s).adm = s.adm ∧ (setLane l v s).scan = s.scan ∧ (setLane l v s).copier = s.copier
      ∧ (setLane l v s).rails = s.rails ∧ (setLane l v s).temp = s.temp ∧ (setLane l v s).notices = s.notices
      ∧ (setLane l v s).counters = s.counters ∧ (setLane l v s).link = s.link ∧ (setLane l v s).mem = s.mem
      ∧ (setLane l v s).pending = s.pending := by
  and_intros <;> rfl

@[simp] theorem updateRequest_keeps (age : Nat) (f : Request → Request) (s : State) :
    (updateRequest age f s).settings = s.settings ∧ (updateRequest age f s).px = s.px
      ∧ (updateRequest age f s).lib = s.lib ∧ (updateRequest age f s).req.queue = s.req.queue
      ∧ (updateRequest age f s).req.line = s.req.line ∧ (updateRequest age f s).req.nextAge = s.req.nextAge
      ∧ (updateRequest age f s).inflow = s.inflow ∧ (updateRequest age f s).pool = s.pool
      ∧ (updateRequest age f s).adm = s.adm ∧ (updateRequest age f s).lanes = s.lanes
      ∧ (updateRequest age f s).scan = s.scan ∧ (updateRequest age f s).copier = s.copier
      ∧ (updateRequest age f s).rails = s.rails ∧ (updateRequest age f s).temp = s.temp
      ∧ (updateRequest age f s).notices = s.notices ∧ (updateRequest age f s).counters = s.counters
      ∧ (updateRequest age f s).link = s.link ∧ (updateRequest age f s).mem = s.mem
      ∧ (updateRequest age f s).pending = s.pending := by
  and_intros <;> rfl

@[simp] theorem updateEntry_keeps (age : Nat) (f : QueueEntry → QueueEntry) (s : State) :
    (updateEntry age f s).settings = s.settings ∧ (updateEntry age f s).px = s.px
      ∧ (updateEntry age f s).lib = s.lib ∧ (updateEntry age f s).req.table = s.req.table
      ∧ (updateEntry age f s).req.line = s.req.line ∧ (updateEntry age f s).req.nextAge = s.req.nextAge
      ∧ (updateEntry age f s).inflow = s.inflow ∧ (updateEntry age f s).pool = s.pool
      ∧ (updateEntry age f s).adm = s.adm ∧ (updateEntry age f s).lanes = s.lanes
      ∧ (updateEntry age f s).scan = s.scan ∧ (updateEntry age f s).copier = s.copier
      ∧ (updateEntry age f s).rails = s.rails ∧ (updateEntry age f s).temp = s.temp
      ∧ (updateEntry age f s).notices = s.notices ∧ (updateEntry age f s).counters = s.counters
      ∧ (updateEntry age f s).link = s.link ∧ (updateEntry age f s).mem = s.mem
      ∧ (updateEntry age f s).pending = s.pending := by
  and_intros <;> rfl

@[simp] theorem removeEntry_keeps (age : Nat) (s : State) :
    (removeEntry age s).settings = s.settings ∧ (removeEntry age s).px = s.px ∧ (removeEntry age s).lib = s.lib
      ∧ (removeEntry age s).req.table = s.req.table ∧ (removeEntry age s).req.line = s.req.line
      ∧ (removeEntry age s).req.nextAge = s.req.nextAge ∧ (removeEntry age s).inflow = s.inflow
      ∧ (removeEntry age s).pool = s.pool ∧ (removeEntry age s).adm = s.adm ∧ (removeEntry age s).lanes = s.lanes
      ∧ (removeEntry age s).scan = s.scan ∧ (removeEntry age s).copier = s.copier
      ∧ (removeEntry age s).rails = s.rails ∧ (removeEntry age s).temp = s.temp
      ∧ (removeEntry age s).notices = s.notices ∧ (removeEntry age s).counters = s.counters
      ∧ (removeEntry age s).link = s.link ∧ (removeEntry age s).mem = s.mem
      ∧ (removeEntry age s).pending = s.pending := by
  and_intros <;> rfl

@[simp] theorem wantPass_keeps (s : State) :
    (wantPass s).settings = s.settings ∧ (wantPass s).px = s.px ∧ (wantPass s).lib = s.lib
      ∧ (wantPass s).req = s.req ∧ (wantPass s).inflow = s.inflow ∧ (wantPass s).pool = s.pool
      ∧ (wantPass s).adm.passRunning = s.adm.passRunning ∧ (wantPass s).adm.passCut = s.adm.passCut
      ∧ (wantPass s).adm.holdReported = s.adm.holdReported ∧ (wantPass s).adm.walk = s.adm.walk
      ∧ (wantPass s).lanes = s.lanes ∧ (wantPass s).scan = s.scan ∧ (wantPass s).copier = s.copier
      ∧ (wantPass s).rails = s.rails ∧ (wantPass s).temp = s.temp ∧ (wantPass s).notices = s.notices
      ∧ (wantPass s).counters = s.counters ∧ (wantPass s).link = s.link ∧ (wantPass s).mem = s.mem
      ∧ (wantPass s).pending = s.pending := by
  and_intros <;> rfl

@[simp] theorem returnPages_keeps (pages : List Nat) (s : State) :
    (returnPages pages s).settings = s.settings ∧ (returnPages pages s).px = s.px
      ∧ (returnPages pages s).lib = s.lib ∧ (returnPages pages s).req = s.req
      ∧ (returnPages pages s).inflow = s.inflow ∧ (returnPages pages s).pool.bytes = s.pool.bytes
      ∧ (returnPages pages s).adm = s.adm ∧ (returnPages pages s).lanes = s.lanes
      ∧ (returnPages pages s).scan = s.scan ∧ (returnPages pages s).copier = s.copier
      ∧ (returnPages pages s).rails = s.rails ∧ (returnPages pages s).temp = s.temp
      ∧ (returnPages pages s).notices = s.notices ∧ (returnPages pages s).counters = s.counters
      ∧ (returnPages pages s).link = s.link ∧ (returnPages pages s).mem = s.mem
      ∧ (returnPages pages s).pending = s.pending := by
  and_intros <;> rfl

@[simp] theorem takePages_keeps (r : Rect) (s : State) :
    (takePages r s).settings = s.settings ∧ (takePages r s).px = s.px ∧ (takePages r s).lib = s.lib
      ∧ (takePages r s).req = s.req ∧ (takePages r s).inflow = s.inflow ∧ (takePages r s).pool.bytes = s.pool.bytes
      ∧ (takePages r s).adm = s.adm ∧ (takePages r s).lanes = s.lanes ∧ (takePages r s).scan = s.scan
      ∧ (takePages r s).copier = s.copier ∧ (takePages r s).rails = s.rails ∧ (takePages r s).temp = s.temp
      ∧ (takePages r s).notices = s.notices ∧ (takePages r s).counters = s.counters ∧ (takePages r s).link = s.link
      ∧ (takePages r s).mem = s.mem ∧ (takePages r s).pending = s.pending := by
  and_intros <;> rfl

@[simp] theorem riseRails_keeps (s : State) :
    (riseRails s).settings = s.settings ∧ (riseRails s).px = s.px ∧ (riseRails s).lib = s.lib
      ∧ (riseRails s).req = s.req ∧ (riseRails s).inflow = s.inflow ∧ (riseRails s).pool = s.pool
      ∧ (riseRails s).adm = s.adm ∧ (riseRails s).lanes = s.lanes ∧ (riseRails s).scan = s.scan
      ∧ (riseRails s).copier = s.copier ∧ (riseRails s).rails.idleTimer = s.rails.idleTimer
      ∧ (riseRails s).rails.fallTime = s.rails.fallTime ∧ (riseRails s).rails.accepted = s.rails.accepted
      ∧ (riseRails s).rails.lastSample = s.rails.lastSample ∧ (riseRails s).temp = s.temp
      ∧ (riseRails s).notices = s.notices ∧ (riseRails s).counters = s.counters ∧ (riseRails s).link = s.link
      ∧ (riseRails s).mem = s.mem ∧ (riseRails s).pending = s.pending := by
  and_intros <;> rfl

@[simp] theorem fallRails_keeps (s : State) :
    (fallRails s).settings = s.settings ∧ (fallRails s).px = s.px ∧ (fallRails s).lib = s.lib
      ∧ (fallRails s).req = s.req ∧ (fallRails s).inflow = s.inflow ∧ (fallRails s).pool = s.pool
      ∧ (fallRails s).adm = s.adm ∧ (fallRails s).lanes = s.lanes ∧ (fallRails s).scan = s.scan
      ∧ (fallRails s).copier = s.copier ∧ (fallRails s).rails.accepted = s.rails.accepted
      ∧ (fallRails s).rails.lastSample = s.rails.lastSample ∧ (fallRails s).temp = s.temp
      ∧ (fallRails s).notices = s.notices ∧ (fallRails s).counters = s.counters ∧ (fallRails s).link = s.link
      ∧ (fallRails s).mem = s.mem ∧ (fallRails s).pending = s.pending := by
  and_intros <;> rfl

@[simp] theorem faultRails_keeps (s : State) :
    (faultRails s).settings = s.settings ∧ (faultRails s).px = s.px ∧ (faultRails s).lib = s.lib
      ∧ (faultRails s).req = s.req ∧ (faultRails s).inflow = s.inflow ∧ (faultRails s).pool = s.pool
      ∧ (faultRails s).adm = s.adm ∧ (faultRails s).lanes = s.lanes ∧ (faultRails s).scan = s.scan
      ∧ (faultRails s).copier = s.copier ∧ (faultRails s).rails.fallTime = s.rails.fallTime
      ∧ (faultRails s).rails.accepted = s.rails.accepted ∧ (faultRails s).rails.lastSample = s.rails.lastSample
      ∧ (faultRails s).temp = s.temp ∧ (faultRails s).notices = s.notices ∧ (faultRails s).counters = s.counters
      ∧ (faultRails s).link = s.link ∧ (faultRails s).mem = s.mem ∧ (faultRails s).pending = s.pending := by
  and_intros <;> rfl

@[simp] theorem endPass_keeps (s : State) :
    (endPass s).settings = s.settings ∧ (endPass s).px = s.px ∧ (endPass s).lib = s.lib ∧ (endPass s).req = s.req
      ∧ (endPass s).inflow = s.inflow ∧ (endPass s).pool = s.pool ∧ (endPass s).adm.passWanted = s.adm.passWanted
      ∧ (endPass s).adm.holdReported = s.adm.holdReported ∧ (endPass s).adm.walk = s.adm.walk
      ∧ (endPass s).lanes = s.lanes ∧ (endPass s).scan = s.scan ∧ (endPass s).copier = s.copier
      ∧ (endPass s).rails = s.rails ∧ (endPass s).temp = s.temp ∧ (endPass s).notices = s.notices
      ∧ (endPass s).counters = s.counters ∧ (endPass s).link = s.link ∧ (endPass s).mem = s.mem
      ∧ (endPass s).pending = s.pending := by
  and_intros <;> rfl

end Sys2Proof.Machine
end

