-- ==== Sys2Proof/Laws/Shared.lean ====
section
/-!
SUPPORT. What each shared operation leaves as it was: one lemma for each operation, a conjunct for each field, up to `finish`,
which every event ends with.
-/

namespace Sys2Proof.Machine

set_option linter.unusedTactic false
set_option linter.unreachableTactic false

@[simp] theorem writeImage_keeps (pages : List Nat) (b : Nat) (v : Byte) (s : State) :
    (writeImage pages b v s).settings = s.settings ∧ (writeImage pages b v s).px = s.px
      ∧ (writeImage pages b v s).lib = s.lib ∧ (writeImage pages b v s).req = s.req
      ∧ (writeImage pages b v s).inflow = s.inflow ∧ (writeImage pages b v s).pool.free = s.pool.free
      ∧ (writeImage pages b v s).adm = s.adm ∧ (writeImage pages b v s).lanes = s.lanes
      ∧ (writeImage pages b v s).scan = s.scan ∧ (writeImage pages b v s).copier = s.copier
      ∧ (writeImage pages b v s).rails = s.rails ∧ (writeImage pages b v s).temp = s.temp
      ∧ (writeImage pages b v s).notices = s.notices ∧ (writeImage pages b v s).counters = s.counters
      ∧ (writeImage pages b v s).link = s.link ∧ (writeImage pages b v s).mem = s.mem
      ∧ (writeImage pages b v s).pending = s.pending := by
  unfold writeImage
  (try dsimp only)
  and_intros <;> (repeat' split) <;> first | (simp; done) | rfl

@[simp] theorem writeImageBytes_keeps (pages : List Nat) (vs : List Byte) (b : Nat) (s : State) :
    (writeImageBytes pages b vs s).settings = s.settings ∧ (writeImageBytes pages b vs s).px = s.px
      ∧ (writeImageBytes pages b vs s).lib = s.lib ∧ (writeImageBytes pages b vs s).req = s.req
      ∧ (writeImageBytes pages b vs s).inflow = s.inflow ∧ (writeImageBytes pages b vs s).pool.free = s.pool.free
      ∧ (writeImageBytes pages b vs s).adm = s.adm ∧ (writeImageBytes pages b vs s).lanes = s.lanes
      ∧ (writeImageBytes pages b vs s).scan = s.scan ∧ (writeImageBytes pages b vs s).copier = s.copier
      ∧ (writeImageBytes pages b vs s).rails = s.rails ∧ (writeImageBytes pages b vs s).temp = s.temp
      ∧ (writeImageBytes pages b vs s).notices = s.notices ∧ (writeImageBytes pages b vs s).counters = s.counters
      ∧ (writeImageBytes pages b vs s).link = s.link ∧ (writeImageBytes pages b vs s).mem = s.mem
      ∧ (writeImageBytes pages b vs s).pending = s.pending := by
  induction vs generalizing b s with
  | nil => simp [writeImageBytes]
  | cons v vs ih => simp [writeImageBytes, ih]

@[simp] theorem beginWait_keeps (r : Requester) (s : State) :
    (beginWait r s).settings = s.settings ∧ (beginWait r s).px = s.px ∧ (beginWait r s).lib = s.lib
      ∧ (beginWait r s).req = s.req ∧ (beginWait r s).inflow = s.inflow ∧ (beginWait r s).pool = s.pool
      ∧ (beginWait r s).adm = s.adm ∧ (beginWait r s).lanes = s.lanes ∧ (beginWait r s).scan = s.scan
      ∧ (beginWait r s).copier = s.copier ∧ (beginWait r s).rails = s.rails ∧ (beginWait r s).temp = s.temp
      ∧ (beginWait r s).notices = s.notices ∧ (beginWait r s).counters = s.counters ∧ (beginWait r s).link = s.link
      ∧ (beginWait r s).mem.calibrating = s.mem.calibrating ∧ (beginWait r s).mem.granted = s.mem.granted
      ∧ (beginWait r s).mem.debt = s.mem.debt ∧ (beginWait r s).mem.lastLane = s.mem.lastLane
      ∧ (beginWait r s).mem.epoch = s.mem.epoch ∧ (beginWait r s).pending = s.pending := by
  unfold beginWait
  (try dsimp only)
  and_intros <;> (repeat' split) <;> first | (simp; done) | rfl

@[simp] theorem beginRetire_keeps (l : LaneId) (kind : WalkKind) (s : State) :
    (beginRetire l kind s).settings = s.settings ∧ (beginRetire l kind s).px = s.px
      ∧ (beginRetire l kind s).lib = s.lib ∧ (beginRetire l kind s).req = s.req
      ∧ (beginRetire l kind s).inflow = s.inflow ∧ (beginRetire l kind s).pool = s.pool
      ∧ (beginRetire l kind s).adm = s.adm ∧ (beginRetire l kind s).scan = s.scan
      ∧ (beginRetire l kind s).copier = s.copier ∧ (beginRetire l kind s).rails = s.rails
      ∧ (beginRetire l kind s).temp = s.temp ∧ (beginRetire l kind s).notices = s.notices
      ∧ (beginRetire l kind s).counters = s.counters ∧ (beginRetire l kind s).link = s.link
      ∧ (beginRetire l kind s).mem.calibrating = s.mem.calibrating
      ∧ (beginRetire l kind s).mem.granted = s.mem.granted ∧ (beginRetire l kind s).mem.debt = s.mem.debt
      ∧ (beginRetire l kind s).mem.lastLane = s.mem.lastLane ∧ (beginRetire l kind s).mem.epoch = s.mem.epoch
      ∧ (beginRetire l kind s).pending = s.pending := by
  unfold beginRetire
  (try dsimp only)
  and_intros <;> (repeat' split) <;> first | (simp; done) | rfl

@[simp] theorem releaseLane_keeps (o : ReqOutcome) (s : State) (l : LaneId) :
    (releaseLane o s l).settings = s.settings ∧ (releaseLane o s l).px = s.px ∧ (releaseLane o s l).lib = s.lib
      ∧ (releaseLane o s l).req = s.req ∧ (releaseLane o s l).inflow = s.inflow ∧ (releaseLane o s l).pool = s.pool
      ∧ (releaseLane o s l).adm = s.adm ∧ (releaseLane o s l).scan = s.scan ∧ (releaseLane o s l).copier = s.copier
      ∧ (releaseLane o s l).rails = s.rails ∧ (releaseLane o s l).temp = s.temp
      ∧ (releaseLane o s l).notices = s.notices ∧ (releaseLane o s l).counters = s.counters
      ∧ (releaseLane o s l).link = s.link ∧ (releaseLane o s l).mem.calibrating = s.mem.calibrating
      ∧ (releaseLane o s l).mem.granted = s.mem.granted ∧ (releaseLane o s l).mem.debt = s.mem.debt
      ∧ (releaseLane o s l).mem.lastLane = s.mem.lastLane ∧ (releaseLane o s l).mem.epoch = s.mem.epoch
      ∧ (releaseLane o s l).pending = s.pending := by
  unfold releaseLane
  (try dsimp only)
  and_intros <;> (repeat' split) <;> first | (simp; done) | rfl

@[simp] theorem abortLane_keeps (reason : AbortReason) (s : State) (l : LaneId) :
    (abortLane reason s l).settings = s.settings ∧ (abortLane reason s l).px = s.px
      ∧ (abortLane reason s l).lib = s.lib ∧ (abortLane reason s l).req = s.req
      ∧ (abortLane reason s l).inflow = s.inflow ∧ (abortLane reason s l).pool = s.pool
      ∧ (abortLane reason s l).adm = s.adm ∧ (abortLane reason s l).scan = s.scan
      ∧ (abortLane reason s l).copier = s.copier ∧ (abortLane reason s l).rails = s.rails
      ∧ (abortLane reason s l).temp = s.temp ∧ (abortLane reason s l).notices = s.notices
      ∧ (abortLane reason s l).counters.framesScanned = s.counters.framesScanned
      ∧ (abortLane reason s l).counters.lanesArmed = s.counters.lanesArmed
      ∧ (abortLane reason s l).counters.upgrades = s.counters.upgrades
      ∧ (abortLane reason s l).counters.ghostRefusals = s.counters.ghostRefusals
      ∧ (abortLane reason s l).counters.starvations = s.counters.starvations
      ∧ (abortLane reason s l).counters.frameErrors = s.counters.frameErrors
      ∧ (abortLane reason s l).counters.inflowRefusals = s.counters.inflowRefusals
      ∧ (abortLane reason s l).link = s.link ∧ (abortLane reason s l).mem.calibrating = s.mem.calibrating
      ∧ (abortLane reason s l).mem.granted = s.mem.granted ∧ (abortLane reason s l).mem.debt = s.mem.debt
      ∧ (abortLane reason s l).mem.lastLane = s.mem.lastLane ∧ (abortLane reason s l).mem.epoch = s.mem.epoch
      ∧ (abortLane reason s l).pending = s.pending := by
  unfold abortLane
  (try dsimp only)
  and_intros <;> (repeat' split) <;> first | (simp; done) | rfl

@[simp] theorem releaseArmed_keeps (tag : Nat) (o : ReqOutcome) (s : State) :
    (releaseArmed tag o s).settings = s.settings ∧ (releaseArmed tag o s).px = s.px
      ∧ (releaseArmed tag o s).lib = s.lib ∧ (releaseArmed tag o s).req = s.req
      ∧ (releaseArmed tag o s).inflow = s.inflow ∧ (releaseArmed tag o s).pool = s.pool
      ∧ (releaseArmed tag o s).adm = s.adm ∧ (releaseArmed tag o s).scan = s.scan
      ∧ (releaseArmed tag o s).copier = s.copier ∧ (releaseArmed tag o s).rails = s.rails
      ∧ (releaseArmed tag o s).temp = s.temp ∧ (releaseArmed tag o s).notices = s.notices
      ∧ (releaseArmed tag o s).counters = s.counters ∧ (releaseArmed tag o s).link = s.link
      ∧ (releaseArmed tag o s).mem.calibrating = s.mem.calibrating
      ∧ (releaseArmed tag o s).mem.granted = s.mem.granted ∧ (releaseArmed tag o s).mem.debt = s.mem.debt
      ∧ (releaseArmed tag o s).mem.lastLane = s.mem.lastLane ∧ (releaseArmed tag o s).mem.epoch = s.mem.epoch
      ∧ (releaseArmed tag o s).pending = s.pending := by
  unfold releaseArmed
  generalize (allLanes.filter (laneOf s tag fun st => decide (st = .armed))) = l
  induction l generalizing s with
  | nil => simp
  | cons a l ih => simp [ih]

@[simp] theorem abortActive_keeps (tag : Nat) (reason : AbortReason) (s : State) :
    (abortActive tag reason s).settings = s.settings ∧ (abortActive tag reason s).px = s.px
      ∧ (abortActive tag reason s).lib = s.lib ∧ (abortActive tag reason s).req = s.req
      ∧ (abortActive tag reason s).inflow = s.inflow ∧ (abortActive tag reason s).pool = s.pool
      ∧ (abortActive tag reason s).adm = s.adm ∧ (abortActive tag reason s).scan = s.scan
      ∧ (abortActive tag reason s).copier = s.copier ∧ (abortActive tag reason s).rails = s.rails
      ∧ (abortActive tag reason s).temp = s.temp ∧ (abortActive tag reason s).notices = s.notices
      ∧ (abortActive tag reason s).counters.framesScanned = s.counters.framesScanned
      ∧ (abortActive tag reason s).counters.lanesArmed = s.counters.lanesArmed
      ∧ (abortActive tag reason s).counters.upgrades = s.counters.upgrades
      ∧ (abortActive tag reason s).counters.ghostRefusals = s.counters.ghostRefusals
      ∧ (abortActive tag reason s).counters.starvations = s.counters.starvations
      ∧ (abortActive tag reason s).counters.frameErrors = s.counters.frameErrors
      ∧ (abortActive tag reason s).counters.inflowRefusals = s.counters.inflowRefusals
      ∧ (abortActive tag reason s).link = s.link ∧ (abortActive tag reason s).mem.calibrating = s.mem.calibrating
      ∧ (abortActive tag reason s).mem.granted = s.mem.granted ∧ (abortActive tag reason s).mem.debt = s.mem.debt
      ∧ (abortActive tag reason s).mem.lastLane = s.mem.lastLane
      ∧ (abortActive tag reason s).mem.epoch = s.mem.epoch ∧ (abortActive tag reason s).pending = s.pending := by
  unfold abortActive
  generalize (allLanes.filter (laneOf s tag fun st => decide (st = .active))) = l
  induction l generalizing s with
  | nil => simp
  | cons a l ih => simp [ih]

@[simp] theorem bringOutcome_keeps (age : Nat) (o : ReqOutcome) (s : State) :
    (bringOutcome age o s).settings = s.settings ∧ (bringOutcome age o s).px = s.px
      ∧ (bringOutcome age o s).lib = s.lib ∧ (bringOutcome age o s).req.queue = s.req.queue
      ∧ (bringOutcome age o s).req.line = s.req.line ∧ (bringOutcome age o s).req.nextAge = s.req.nextAge
      ∧ (bringOutcome age o s).inflow = s.inflow ∧ (bringOutcome age o s).pool = s.pool
      ∧ (bringOutcome age o s).adm = s.adm ∧ (bringOutcome age o s).lanes = s.lanes
      ∧ (bringOutcome age o s).scan = s.scan ∧ (bringOutcome age o s).copier = s.copier
      ∧ (bringOutcome age o s).rails = s.rails ∧ (bringOutcome age o s).temp = s.temp
      ∧ (bringOutcome age o s).notices = s.notices ∧ (bringOutcome age o s).counters = s.counters
      ∧ (bringOutcome age o s).link = s.link ∧ (bringOutcome age o s).mem = s.mem
      ∧ (bringOutcome age o s).pending = s.pending := by
  unfold bringOutcome
  (try dsimp only)
  and_intros <;> (repeat' split) <;> first | (simp; done) | rfl

@[simp] theorem finishPart_keeps (age : Nat) (o : ReqOutcome) (s : State) :
    (finishPart age o s).settings = s.settings ∧ (finishPart age o s).px = s.px ∧ (finishPart age o s).lib = s.lib
      ∧ (finishPart age o s).req.queue = s.req.queue ∧ (finishPart age o s).req.line = s.req.line
      ∧ (finishPart age o s).req.nextAge = s.req.nextAge ∧ (finishPart age o s).inflow = s.inflow
      ∧ (finishPart age o s).pool = s.pool ∧ (finishPart age o s).adm = s.adm
      ∧ (finishPart age o s).lanes = s.lanes ∧ (finishPart age o s).scan = s.scan
      ∧ (finishPart age o s).copier = s.copier ∧ (finishPart age o s).rails = s.rails
      ∧ (finishPart age o s).temp = s.temp ∧ (finishPart age o s).notices = s.notices
      ∧ (finishPart age o s).counters = s.counters ∧ (finishPart age o s).link = s.link
      ∧ (finishPart age o s).mem = s.mem ∧ (finishPart age o s).pending = s.pending := by
  unfold finishPart
  (try dsimp only)
  and_intros <;> (repeat' split) <;> first | (simp; done) | rfl

@[simp] theorem dropEntry_keeps (age : Nat) (o : ReqOutcome) (s : State) :
    (dropEntry age o s).settings = s.settings ∧ (dropEntry age o s).px = s.px ∧ (dropEntry age o s).lib = s.lib
      ∧ (dropEntry age o s).req.line = s.req.line ∧ (dropEntry age o s).req.nextAge = s.req.nextAge
      ∧ (dropEntry age o s).inflow = s.inflow ∧ (dropEntry age o s).pool = s.pool ∧ (dropEntry age o s).adm = s.adm
      ∧ (dropEntry age o s).lanes = s.lanes ∧ (dropEntry age o s).scan = s.scan
      ∧ (dropEntry age o s).copier = s.copier ∧ (dropEntry age o s).rails = s.rails
      ∧ (dropEntry age o s).temp = s.temp ∧ (dropEntry age o s).notices = s.notices
      ∧ (dropEntry age o s).counters = s.counters ∧ (dropEntry age o s).link = s.link
      ∧ (dropEntry age o s).mem = s.mem ∧ (dropEntry age o s).pending = s.pending := by
  unfold dropEntry
  (try dsimp only)
  and_intros <;> (repeat' split) <;> first | (simp; done) | rfl

@[simp] theorem dropEntryTriggering_keeps (age : Nat) (o : ReqOutcome) (s : State) :
    (dropEntryTriggering age o s).settings = s.settings ∧ (dropEntryTriggering age o s).px = s.px
      ∧ (dropEntryTriggering age o s).lib = s.lib ∧ (dropEntryTriggering age o s).req.line = s.req.line
      ∧ (dropEntryTriggering age o s).req.nextAge = s.req.nextAge ∧ (dropEntryTriggering age o s).inflow = s.inflow
      ∧ (dropEntryTriggering age o s).pool = s.pool
      ∧ (dropEntryTriggering age o s).adm.passRunning = s.adm.passRunning
      ∧ (dropEntryTriggering age o s).adm.passCut = s.adm.passCut
      ∧ (dropEntryTriggering age o s).adm.holdReported = s.adm.holdReported
      ∧ (dropEntryTriggering age o s).adm.walk = s.adm.walk ∧ (dropEntryTriggering age o s).lanes = s.lanes
      ∧ (dropEntryTriggering age o s).scan = s.scan ∧ (dropEntryTriggering age o s).copier = s.copier
      ∧ (dropEntryTriggering age o s).rails = s.rails ∧ (dropEntryTriggering age o s).temp = s.temp
      ∧ (dropEntryTriggering age o s).notices = s.notices ∧ (dropEntryTriggering age o s).counters = s.counters
      ∧ (dropEntryTriggering age o s).link = s.link ∧ (dropEntryTriggering age o s).mem = s.mem
      ∧ (dropEntryTriggering age o s).pending = s.pending := by
  unfold dropEntryTriggering
  (try dsimp only)
  and_intros <;> (repeat' split) <;> first | (simp; done) | rfl

@[simp] theorem closeTally_keeps (age : Nat) (s : State) :
    (closeTally age s).settings = s.settings ∧ (closeTally age s).px = s.px ∧ (closeTally age s).lib = s.lib
      ∧ (closeTally age s).req.queue = s.req.queue ∧ (closeTally age s).req.line = s.req.line
      ∧ (closeTally age s).req.nextAge = s.req.nextAge ∧ (closeTally age s).inflow = s.inflow
      ∧ (closeTally age s).pool = s.pool ∧ (closeTally age s).adm = s.adm ∧ (closeTally age s).lanes = s.lanes
      ∧ (closeTally age s).scan = s.scan ∧ (closeTally age s).copier = s.copier
      ∧ (closeTally age s).rails = s.rails ∧ (closeTally age s).temp = s.temp
      ∧ (closeTally age s).notices = s.notices ∧ (closeTally age s).counters = s.counters
      ∧ (closeTally age s).link = s.link ∧ (closeTally age s).mem = s.mem ∧ (closeTally age s).pending = s.pending := by
  unfold closeTally
  (try dsimp only)
  and_intros <;> (repeat' split) <;> first | (simp; done) | rfl

@[simp] theorem freeRequestPages_keeps (age : Nat) (s : State) :
    (freeRequestPages age s).settings = s.settings ∧ (freeRequestPages age s).px = s.px
      ∧ (freeRequestPages age s).lib = s.lib ∧ (freeRequestPages age s).req.queue = s.req.queue
      ∧ (freeRequestPages age s).req.line = s.req.line ∧ (freeRequestPages age s).req.nextAge = s.req.nextAge
      ∧ (freeRequestPages age s).inflow = s.inflow ∧ (freeRequestPages age s).pool.bytes = s.pool.bytes
      ∧ (freeRequestPages age s).adm = s.adm ∧ (freeRequestPages age s).lanes = s.lanes
      ∧ (freeRequestPages age s).scan = s.scan ∧ (freeRequestPages age s).copier = s.copier
      ∧ (freeRequestPages age s).rails = s.rails ∧ (freeRequestPages age s).temp = s.temp
      ∧ (freeRequestPages age s).notices = s.notices ∧ (freeRequestPages age s).counters = s.counters
      ∧ (freeRequestPages age s).link = s.link ∧ (freeRequestPages age s).mem = s.mem
      ∧ (freeRequestPages age s).pending = s.pending := by
  unfold freeRequestPages
  (try dsimp only)
  and_intros <;> (repeat' split) <;> first | (simp; done) | rfl

@[simp] theorem judgeJobs_keeps (s : State) :
    (judgeJobs s).settings = s.settings ∧ (judgeJobs s).px = s.px ∧ (judgeJobs s).lib = s.lib
      ∧ (judgeJobs s).req = s.req ∧ (judgeJobs s).inflow = s.inflow ∧ (judgeJobs s).pool = s.pool
      ∧ (judgeJobs s).adm = s.adm ∧ (judgeJobs s).lanes = s.lanes ∧ (judgeJobs s).scan = s.scan
      ∧ (judgeJobs s).copier.overlays = s.copier.overlays ∧ (judgeJobs s).rails = s.rails
      ∧ (judgeJobs s).temp = s.temp ∧ (judgeJobs s).notices = s.notices ∧ (judgeJobs s).counters = s.counters
      ∧ (judgeJobs s).link = s.link ∧ (judgeJobs s).mem.calibrating = s.mem.calibrating
      ∧ (judgeJobs s).mem.granted = s.mem.granted ∧ (judgeJobs s).mem.debt = s.mem.debt
      ∧ (judgeJobs s).mem.lastLane = s.mem.lastLane ∧ (judgeJobs s).mem.epoch = s.mem.epoch
      ∧ (judgeJobs s).pending = s.pending := by
  unfold judgeJobs
  (try dsimp only)
  and_intros <;> (repeat' split) <;> first | (simp; done) | rfl

@[simp] theorem dropJobs_keeps (p : Job → Bool) (s : State) :
    (dropJobs p s).settings = s.settings ∧ (dropJobs p s).px = s.px ∧ (dropJobs p s).lib = s.lib
      ∧ (dropJobs p s).req = s.req ∧ (dropJobs p s).inflow = s.inflow ∧ (dropJobs p s).pool = s.pool
      ∧ (dropJobs p s).adm = s.adm ∧ (dropJobs p s).lanes = s.lanes ∧ (dropJobs p s).scan = s.scan
      ∧ (dropJobs p s).copier.overlays = s.copier.overlays ∧ (dropJobs p s).rails = s.rails
      ∧ (dropJobs p s).temp = s.temp ∧ (dropJobs p s).notices = s.notices ∧ (dropJobs p s).counters = s.counters
      ∧ (dropJobs p s).link = s.link ∧ (dropJobs p s).mem.calibrating = s.mem.calibrating
      ∧ (dropJobs p s).mem.debt = s.mem.debt ∧ (dropJobs p s).mem.lastLane = s.mem.lastLane
      ∧ (dropJobs p s).mem.epoch = s.mem.epoch ∧ (dropJobs p s).pending = s.pending := by
  unfold dropJobs
  (try dsimp only)
  and_intros <;> (repeat' split) <;> first | (simp; done) | rfl

@[simp] theorem leaveTable_keeps (age : Nat) (s : State) :
    (leaveTable age s).settings = s.settings ∧ (leaveTable age s).px = s.px ∧ (leaveTable age s).lib = s.lib
      ∧ (leaveTable age s).req.queue = s.req.queue ∧ (leaveTable age s).req.line = s.req.line
      ∧ (leaveTable age s).req.nextAge = s.req.nextAge ∧ (leaveTable age s).inflow = s.inflow
      ∧ (leaveTable age s).pool = s.pool ∧ (leaveTable age s).adm = s.adm ∧ (leaveTable age s).lanes = s.lanes
      ∧ (leaveTable age s).scan = s.scan ∧ (leaveTable age s).copier = s.copier
      ∧ (leaveTable age s).rails = s.rails ∧ (leaveTable age s).temp = s.temp
      ∧ (leaveTable age s).notices.masks = s.notices.masks
      ∧ (leaveTable age s).notices.priorities = s.notices.priorities
      ∧ (leaveTable age s).notices.attn = s.notices.attn ∧ (leaveTable age s).notices.log = s.notices.log
      ∧ (leaveTable age s).counters = s.counters ∧ (leaveTable age s).link = s.link
      ∧ (leaveTable age s).mem = s.mem ∧ (leaveTable age s).pending = s.pending := by
  unfold leaveTable
  (try dsimp only)
  and_intros <;> (repeat' split) <;> first | (simp; done) | rfl

@[simp] theorem acceptRecord_keeps (h : Reporting) (s : State) :
    (acceptRecord h s).settings = s.settings ∧ (acceptRecord h s).px = s.px ∧ (acceptRecord h s).lib = s.lib
      ∧ (acceptRecord h s).req.queue = s.req.queue ∧ (acceptRecord h s).req.nextAge = s.req.nextAge
      ∧ (acceptRecord h s).inflow = s.inflow ∧ (acceptRecord h s).pool = s.pool ∧ (acceptRecord h s).adm = s.adm
      ∧ (acceptRecord h s).lanes = s.lanes ∧ (acceptRecord h s).scan = s.scan
      ∧ (acceptRecord h s).copier = s.copier ∧ (acceptRecord h s).rails = s.rails
      ∧ (acceptRecord h s).temp = s.temp ∧ (acceptRecord h s).notices.masks = s.notices.masks
      ∧ (acceptRecord h s).notices.priorities = s.notices.priorities
      ∧ (acceptRecord h s).notices.attn = s.notices.attn ∧ (acceptRecord h s).counters = s.counters
      ∧ (acceptRecord h s).link = s.link ∧ (acceptRecord h s).mem = s.mem ∧ (acceptRecord h s).pending = s.pending := by
  unfold acceptRecord
  (try dsimp only)
  and_intros <;> (repeat' split) <;> first | (simp; done) | rfl

@[simp] theorem offerFrom_keeps (line : List Reporting) (s : State) :
    (offerFrom line s).settings = s.settings ∧ (offerFrom line s).px = s.px ∧ (offerFrom line s).lib = s.lib
      ∧ (offerFrom line s).req.queue = s.req.queue ∧ (offerFrom line s).req.nextAge = s.req.nextAge
      ∧ (offerFrom line s).inflow = s.inflow ∧ (offerFrom line s).pool = s.pool ∧ (offerFrom line s).adm = s.adm
      ∧ (offerFrom line s).lanes = s.lanes ∧ (offerFrom line s).scan = s.scan
      ∧ (offerFrom line s).copier = s.copier ∧ (offerFrom line s).rails = s.rails
      ∧ (offerFrom line s).temp = s.temp ∧ (offerFrom line s).notices.masks = s.notices.masks
      ∧ (offerFrom line s).notices.priorities = s.notices.priorities
      ∧ (offerFrom line s).notices.attn = s.notices.attn ∧ (offerFrom line s).counters = s.counters
      ∧ (offerFrom line s).link = s.link ∧ (offerFrom line s).mem = s.mem ∧ (offerFrom line s).pending = s.pending := by
  induction line generalizing s with
  | nil => simp [offerFrom]
  | cons h rest ih => unfold offerFrom; split <;> simp [ih]

@[simp] theorem offerRecords_keeps (s : State) :
    (offerRecords s).settings = s.settings ∧ (offerRecords s).px = s.px ∧ (offerRecords s).lib = s.lib
      ∧ (offerRecords s).req.queue = s.req.queue ∧ (offerRecords s).req.nextAge = s.req.nextAge
      ∧ (offerRecords s).inflow = s.inflow ∧ (offerRecords s).pool = s.pool ∧ (offerRecords s).adm = s.adm
      ∧ (offerRecords s).lanes = s.lanes ∧ (offerRecords s).scan = s.scan ∧ (offerRecords s).copier = s.copier
      ∧ (offerRecords s).rails = s.rails ∧ (offerRecords s).temp = s.temp
      ∧ (offerRecords s).notices.masks = s.notices.masks
      ∧ (offerRecords s).notices.priorities = s.notices.priorities ∧ (offerRecords s).notices.attn = s.notices.attn
      ∧ (offerRecords s).counters = s.counters ∧ (offerRecords s).link = s.link ∧ (offerRecords s).mem = s.mem
      ∧ (offerRecords s).pending = s.pending := by
  unfold offerRecords
  (try dsimp only)
  and_intros <;> (repeat' split) <;> first | (simp; done) | rfl

@[simp] theorem enterReporting_keeps (r : Request) (s : State) :
    (enterReporting r s).settings = s.settings ∧ (enterReporting r s).px = s.px ∧ (enterReporting r s).lib = s.lib
      ∧ (enterReporting r s).req.queue = s.req.queue ∧ (enterReporting r s).req.nextAge = s.req.nextAge
      ∧ (enterReporting r s).inflow = s.inflow ∧ (enterReporting r s).pool.bytes = s.pool.bytes
      ∧ (enterReporting r s).adm = s.adm ∧ (enterReporting r s).lanes = s.lanes
      ∧ (enterReporting r s).scan = s.scan ∧ (enterReporting r s).copier.overlays = s.copier.overlays
      ∧ (enterReporting r s).rails = s.rails ∧ (enterReporting r s).temp = s.temp
      ∧ (enterReporting r s).notices.masks = s.notices.masks
      ∧ (enterReporting r s).notices.priorities = s.notices.priorities
      ∧ (enterReporting r s).notices.attn = s.notices.attn ∧ (enterReporting r s).counters = s.counters
      ∧ (enterReporting r s).link = s.link ∧ (enterReporting r s).mem.calibrating = s.mem.calibrating
      ∧ (enterReporting r s).mem.debt = s.mem.debt ∧ (enterReporting r s).mem.lastLane = s.mem.lastLane
      ∧ (enterReporting r s).mem.epoch = s.mem.epoch ∧ (enterReporting r s).pending = s.pending := by
  unfold enterReporting
  (try dsimp only)
  and_intros <;> (repeat' split) <;> first | (simp; done) | rfl

@[simp] theorem leaveIfDone_keeps (r : Request) (s : State) :
    (leaveIfDone r s).settings = s.settings ∧ (leaveIfDone r s).px = s.px ∧ (leaveIfDone r s).lib = s.lib
      ∧ (leaveIfDone r s).req.queue = s.req.queue ∧ (leaveIfDone r s).req.line = s.req.line
      ∧ (leaveIfDone r s).req.nextAge = s.req.nextAge ∧ (leaveIfDone r s).inflow = s.inflow
      ∧ (leaveIfDone r s).pool.bytes = s.pool.bytes ∧ (leaveIfDone r s).adm = s.adm
      ∧ (leaveIfDone r s).lanes = s.lanes ∧ (leaveIfDone r s).scan = s.scan ∧ (leaveIfDone r s).copier = s.copier
      ∧ (leaveIfDone r s).rails = s.rails ∧ (leaveIfDone r s).temp = s.temp
      ∧ (leaveIfDone r s).notices.masks = s.notices.masks
      ∧ (leaveIfDone r s).notices.priorities = s.notices.priorities
      ∧ (leaveIfDone r s).notices.attn = s.notices.attn ∧ (leaveIfDone r s).notices.log = s.notices.log
      ∧ (leaveIfDone r s).counters = s.counters ∧ (leaveIfDone r s).link = s.link ∧ (leaveIfDone r s).mem = s.mem
      ∧ (leaveIfDone r s).pending = s.pending := by
  unfold leaveIfDone
  (try dsimp only)
  and_intros <;> (repeat' split) <;> first | (simp; done) | rfl

@[simp] theorem judgeFinish_keeps (age : Nat) (s : State) :
    (judgeFinish age s).settings = s.settings ∧ (judgeFinish age s).px = s.px ∧ (judgeFinish age s).lib = s.lib
      ∧ (judgeFinish age s).req.queue = s.req.queue ∧ (judgeFinish age s).req.nextAge = s.req.nextAge
      ∧ (judgeFinish age s).inflow = s.inflow ∧ (judgeFinish age s).pool.bytes = s.pool.bytes
      ∧ (judgeFinish age s).adm = s.adm ∧ (judgeFinish age s).lanes = s.lanes ∧ (judgeFinish age s).scan = s.scan
      ∧ (judgeFinish age s).copier.overlays = s.copier.overlays ∧ (judgeFinish age s).rails = s.rails
      ∧ (judgeFinish age s).temp = s.temp ∧ (judgeFinish age s).notices.masks = s.notices.masks
      ∧ (judgeFinish age s).notices.priorities = s.notices.priorities
      ∧ (judgeFinish age s).notices.attn = s.notices.attn ∧ (judgeFinish age s).counters = s.counters
      ∧ (judgeFinish age s).link = s.link ∧ (judgeFinish age s).mem.calibrating = s.mem.calibrating
      ∧ (judgeFinish age s).mem.debt = s.mem.debt ∧ (judgeFinish age s).mem.lastLane = s.mem.lastLane
      ∧ (judgeFinish age s).mem.epoch = s.mem.epoch ∧ (judgeFinish age s).pending = s.pending := by
  unfold judgeFinish
  (try dsimp only)
  and_intros <;> (repeat' split) <;> first | (simp; done) | rfl

@[simp] theorem judgeAll_keeps (s : State) :
    (judgeAll s).settings = s.settings ∧ (judgeAll s).px = s.px ∧ (judgeAll s).lib = s.lib
      ∧ (judgeAll s).req.queue = s.req.queue ∧ (judgeAll s).req.nextAge = s.req.nextAge
      ∧ (judgeAll s).inflow = s.inflow ∧ (judgeAll s).pool.bytes = s.pool.bytes ∧ (judgeAll s).adm = s.adm
      ∧ (judgeAll s).lanes = s.lanes ∧ (judgeAll s).scan = s.scan
      ∧ (judgeAll s).copier.overlays = s.copier.overlays ∧ (judgeAll s).rails = s.rails
      ∧ (judgeAll s).temp = s.temp ∧ (judgeAll s).notices.masks = s.notices.masks
      ∧ (judgeAll s).notices.priorities = s.notices.priorities ∧ (judgeAll s).notices.attn = s.notices.attn
      ∧ (judgeAll s).counters = s.counters ∧ (judgeAll s).link = s.link
      ∧ (judgeAll s).mem.calibrating = s.mem.calibrating ∧ (judgeAll s).mem.debt = s.mem.debt
      ∧ (judgeAll s).mem.lastLane = s.mem.lastLane ∧ (judgeAll s).mem.epoch = s.mem.epoch
      ∧ (judgeAll s).pending = s.pending := by
  unfold judgeAll
  generalize (s.req.table.map fun r => r.age) = l
  induction l generalizing s with
  | nil => simp
  | cons a l ih => simp [ih]

@[simp] theorem withdrawRest_keeps (r : Request) (o : ReqOutcome) (s : State) :
    (withdrawRest r o s).settings = s.settings ∧ (withdrawRest r o s).px = s.px ∧ (withdrawRest r o s).lib = s.lib
      ∧ (withdrawRest r o s).req.line = s.req.line ∧ (withdrawRest r o s).req.nextAge = s.req.nextAge
      ∧ (withdrawRest r o s).inflow = s.inflow ∧ (withdrawRest r o s).pool = s.pool
      ∧ (withdrawRest r o s).adm.passRunning = s.adm.passRunning ∧ (withdrawRest r o s).adm.passCut = s.adm.passCut
      ∧ (withdrawRest r o s).adm.holdReported = s.adm.holdReported ∧ (withdrawRest r o s).adm.walk = s.adm.walk
      ∧ (withdrawRest r o s).scan = s.scan ∧ (withdrawRest r o s).copier = s.copier
      ∧ (withdrawRest r o s).rails = s.rails ∧ (withdrawRest r o s).temp = s.temp
      ∧ (withdrawRest r o s).notices = s.notices ∧ (withdrawRest r o s).counters = s.counters
      ∧ (withdrawRest r o s).link = s.link ∧ (withdrawRest r o s).mem.calibrating = s.mem.calibrating
      ∧ (withdrawRest r o s).mem.granted = s.mem.granted ∧ (withdrawRest r o s).mem.debt = s.mem.debt
      ∧ (withdrawRest r o s).mem.lastLane = s.mem.lastLane ∧ (withdrawRest r o s).mem.epoch = s.mem.epoch
      ∧ (withdrawRest r o s).pending = s.pending := by
  unfold withdrawRest
  (try dsimp only)
  and_intros <;> (repeat' split) <;> first | (simp; done) | rfl

@[simp] theorem reportAbort_keeps (tag : Nat) (reason : AbortReason) (s : State) :
    (reportAbort tag reason s).settings = s.settings ∧ (reportAbort tag reason s).px = s.px
      ∧ (reportAbort tag reason s).lib = s.lib ∧ (reportAbort tag reason s).req.line = s.req.line
      ∧ (reportAbort tag reason s).req.nextAge = s.req.nextAge ∧ (reportAbort tag reason s).inflow = s.inflow
      ∧ (reportAbort tag reason s).pool = s.pool ∧ (reportAbort tag reason s).adm.passRunning = s.adm.passRunning
      ∧ (reportAbort tag reason s).adm.passCut = s.adm.passCut
      ∧ (reportAbort tag reason s).adm.holdReported = s.adm.holdReported
      ∧ (reportAbort tag reason s).adm.walk = s.adm.walk ∧ (reportAbort tag reason s).scan = s.scan
      ∧ (reportAbort tag reason s).copier = s.copier ∧ (reportAbort tag reason s).rails = s.rails
      ∧ (reportAbort tag reason s).temp = s.temp ∧ (reportAbort tag reason s).notices = s.notices
      ∧ (reportAbort tag reason s).counters = s.counters ∧ (reportAbort tag reason s).link = s.link
      ∧ (reportAbort tag reason s).mem.calibrating = s.mem.calibrating
      ∧ (reportAbort tag reason s).mem.granted = s.mem.granted ∧ (reportAbort tag reason s).mem.debt = s.mem.debt
      ∧ (reportAbort tag reason s).mem.lastLane = s.mem.lastLane
      ∧ (reportAbort tag reason s).mem.epoch = s.mem.epoch ∧ (reportAbort tag reason s).pending = s.pending := by
  unfold reportAbort
  (try dsimp only)
  and_intros <;> (repeat' split) <;> first | (simp; done) | rfl

@[simp] theorem cancelQueued_keeps (release : ReqOutcome) (r : Request) (s : State) :
    (cancelQueued release r s).settings = s.settings ∧ (cancelQueued release r s).px = s.px ∧ (cancelQueued release r s).lib = s.lib
      ∧ (cancelQueued release r s).req.line = s.req.line ∧ (cancelQueued release r s).req.nextAge = s.req.nextAge
      ∧ (cancelQueued release r s).inflow = s.inflow ∧ (cancelQueued release r s).pool = s.pool
      ∧ (cancelQueued release r s).adm.passRunning = s.adm.passRunning ∧ (cancelQueued release r s).adm.passCut = s.adm.passCut
      ∧ (cancelQueued release r s).adm.holdReported = s.adm.holdReported ∧ (cancelQueued release r s).adm.walk = s.adm.walk
      ∧ (cancelQueued release r s).scan = s.scan ∧ (cancelQueued release r s).copier = s.copier ∧ (cancelQueued release r s).rails = s.rails
      ∧ (cancelQueued release r s).temp = s.temp ∧ (cancelQueued release r s).notices = s.notices
      ∧ (cancelQueued release r s).counters = s.counters ∧ (cancelQueued release r s).link = s.link
      ∧ (cancelQueued release r s).mem.calibrating = s.mem.calibrating ∧ (cancelQueued release r s).mem.granted = s.mem.granted
      ∧ (cancelQueued release r s).mem.debt = s.mem.debt ∧ (cancelQueued release r s).mem.lastLane = s.mem.lastLane
      ∧ (cancelQueued release r s).mem.epoch = s.mem.epoch ∧ (cancelQueued release r s).pending = s.pending := by
  unfold cancelQueued
  (try dsimp only)
  and_intros <;> (repeat' split) <;> first | (simp; done) | rfl

@[simp] theorem plainCancel_keeps (r : Request) (s : State) :
    (plainCancel r s).settings = s.settings ∧ (plainCancel r s).px = s.px ∧ (plainCancel r s).lib = s.lib
      ∧ (plainCancel r s).req.line = s.req.line ∧ (plainCancel r s).req.nextAge = s.req.nextAge
      ∧ (plainCancel r s).inflow = s.inflow ∧ (plainCancel r s).pool = s.pool
      ∧ (plainCancel r s).adm.passRunning = s.adm.passRunning ∧ (plainCancel r s).adm.passCut = s.adm.passCut
      ∧ (plainCancel r s).adm.holdReported = s.adm.holdReported ∧ (plainCancel r s).adm.walk = s.adm.walk
      ∧ (plainCancel r s).scan = s.scan ∧ (plainCancel r s).copier = s.copier ∧ (plainCancel r s).rails = s.rails
      ∧ (plainCancel r s).temp = s.temp ∧ (plainCancel r s).notices = s.notices
      ∧ (plainCancel r s).counters = s.counters ∧ (plainCancel r s).link = s.link
      ∧ (plainCancel r s).mem.calibrating = s.mem.calibrating ∧ (plainCancel r s).mem.granted = s.mem.granted
      ∧ (plainCancel r s).mem.debt = s.mem.debt ∧ (plainCancel r s).mem.lastLane = s.mem.lastLane
      ∧ (plainCancel r s).mem.epoch = s.mem.epoch ∧ (plainCancel r s).pending = s.pending := by
  unfold plainCancel
  (try dsimp only)
  and_intros <;> (repeat' split) <;> first | (simp; done) | rfl

@[simp] theorem cleanCancel_keeps (force : Bool) (r : Request) (s : State) :
    (cleanCancel force r s).settings = s.settings ∧ (cleanCancel force r s).px = s.px ∧ (cleanCancel force r s).lib = s.lib
      ∧ (cleanCancel force r s).req.line = s.req.line ∧ (cleanCancel force r s).req.nextAge = s.req.nextAge
      ∧ (cleanCancel force r s).inflow = s.inflow ∧ (cleanCancel force r s).pool = s.pool
      ∧ (cleanCancel force r s).adm.passRunning = s.adm.passRunning ∧ (cleanCancel force r s).adm.passCut = s.adm.passCut
      ∧ (cleanCancel force r s).adm.holdReported = s.adm.holdReported ∧ (cleanCancel force r s).adm.walk = s.adm.walk
      ∧ (cleanCancel force r s).scan = s.scan ∧ (cleanCancel force r s).copier = s.copier ∧ (cleanCancel force r s).rails = s.rails
      ∧ (cleanCancel force r s).temp = s.temp ∧ (cleanCancel force r s).notices = s.notices
      ∧ (cleanCancel force r s).counters = s.counters ∧ (cleanCancel force r s).link = s.link
      ∧ (cleanCancel force r s).mem.calibrating = s.mem.calibrating ∧ (cleanCancel force r s).mem.granted = s.mem.granted
      ∧ (cleanCancel force r s).mem.debt = s.mem.debt ∧ (cleanCancel force r s).mem.lastLane = s.mem.lastLane
      ∧ (cleanCancel force r s).mem.epoch = s.mem.epoch ∧ (cleanCancel force r s).pending = s.pending := by
  unfold cleanCancel
  (try dsimp only)
  and_intros <;> (repeat' split) <;> first | (simp; done) | rfl

@[simp] theorem forcedCancel_keeps (r : Request) (s : State) :
    (forcedCancel r s).settings = s.settings ∧ (forcedCancel r s).px = s.px ∧ (forcedCancel r s).lib = s.lib
      ∧ (forcedCancel r s).req.line = s.req.line ∧ (forcedCancel r s).req.nextAge = s.req.nextAge
      ∧ (forcedCancel r s).inflow = s.inflow ∧ (forcedCancel r s).pool = s.pool
      ∧ (forcedCancel r s).adm.passRunning = s.adm.passRunning ∧ (forcedCancel r s).adm.passCut = s.adm.passCut
      ∧ (forcedCancel r s).adm.holdReported = s.adm.holdReported ∧ (forcedCancel r s).adm.walk = s.adm.walk
      ∧ (forcedCancel r s).scan = s.scan ∧ (forcedCancel r s).copier = s.copier
      ∧ (forcedCancel r s).rails = s.rails ∧ (forcedCancel r s).temp = s.temp
      ∧ (forcedCancel r s).notices = s.notices
      ∧ (forcedCancel r s).counters.framesScanned = s.counters.framesScanned
      ∧ (forcedCancel r s).counters.lanesArmed = s.counters.lanesArmed
      ∧ (forcedCancel r s).counters.upgrades = s.counters.upgrades
      ∧ (forcedCancel r s).counters.ghostRefusals = s.counters.ghostRefusals
      ∧ (forcedCancel r s).counters.starvations = s.counters.starvations
      ∧ (forcedCancel r s).counters.frameErrors = s.counters.frameErrors
      ∧ (forcedCancel r s).counters.inflowRefusals = s.counters.inflowRefusals ∧ (forcedCancel r s).link = s.link
      ∧ (forcedCancel r s).mem.calibrating = s.mem.calibrating ∧ (forcedCancel r s).mem.granted = s.mem.granted
      ∧ (forcedCancel r s).mem.debt = s.mem.debt ∧ (forcedCancel r s).mem.lastLane = s.mem.lastLane
      ∧ (forcedCancel r s).mem.epoch = s.mem.epoch ∧ (forcedCancel r s).pending = s.pending := by
  unfold forcedCancel
  (try dsimp only)
  and_intros <;> (repeat' split) <;> first | (simp; done) | rfl

@[simp] theorem takePendingWithdrawal_keeps (age : Nat) (s : State) :
    (takePendingWithdrawal age s).settings = s.settings ∧ (takePendingWithdrawal age s).px = s.px
      ∧ (takePendingWithdrawal age s).lib = s.lib ∧ (takePendingWithdrawal age s).req.line = s.req.line
      ∧ (takePendingWithdrawal age s).req.nextAge = s.req.nextAge ∧ (takePendingWithdrawal age s).inflow = s.inflow
      ∧ (takePendingWithdrawal age s).pool = s.pool
      ∧ (takePendingWithdrawal age s).adm.passRunning = s.adm.passRunning
      ∧ (takePendingWithdrawal age s).adm.passCut = s.adm.passCut
      ∧ (takePendingWithdrawal age s).adm.holdReported = s.adm.holdReported
      ∧ (takePendingWithdrawal age s).adm.walk = s.adm.walk ∧ (takePendingWithdrawal age s).scan = s.scan
      ∧ (takePendingWithdrawal age s).copier = s.copier ∧ (takePendingWithdrawal age s).rails = s.rails
      ∧ (takePendingWithdrawal age s).temp = s.temp ∧ (takePendingWithdrawal age s).notices = s.notices
      ∧ (takePendingWithdrawal age s).counters = s.counters ∧ (takePendingWithdrawal age s).link = s.link
      ∧ (takePendingWithdrawal age s).mem.calibrating = s.mem.calibrating
      ∧ (takePendingWithdrawal age s).mem.granted = s.mem.granted
      ∧ (takePendingWithdrawal age s).mem.debt = s.mem.debt
      ∧ (takePendingWithdrawal age s).mem.lastLane = s.mem.lastLane
      ∧ (takePendingWithdrawal age s).mem.epoch = s.mem.epoch ∧ (takePendingWithdrawal age s).pending = s.pending := by
  unfold takePendingWithdrawal
  (try dsimp only)
  and_intros <;> (repeat' split) <;> first | (simp; done) | rfl

@[simp] theorem takePendingCancel_keeps (age : Nat) (s : State) :
    (takePendingCancel age s).settings = s.settings ∧ (takePendingCancel age s).px = s.px
      ∧ (takePendingCancel age s).lib = s.lib ∧ (takePendingCancel age s).req.line = s.req.line
      ∧ (takePendingCancel age s).req.nextAge = s.req.nextAge ∧ (takePendingCancel age s).inflow = s.inflow
      ∧ (takePendingCancel age s).pool = s.pool ∧ (takePendingCancel age s).adm.passRunning = s.adm.passRunning
      ∧ (takePendingCancel age s).adm.passCut = s.adm.passCut
      ∧ (takePendingCancel age s).adm.holdReported = s.adm.holdReported
      ∧ (takePendingCancel age s).adm.walk = s.adm.walk ∧ (takePendingCancel age s).scan = s.scan
      ∧ (takePendingCancel age s).copier = s.copier ∧ (takePendingCancel age s).rails = s.rails
      ∧ (takePendingCancel age s).temp = s.temp ∧ (takePendingCancel age s).notices = s.notices
      ∧ (takePendingCancel age s).counters.framesScanned = s.counters.framesScanned
      ∧ (takePendingCancel age s).counters.lanesArmed = s.counters.lanesArmed
      ∧ (takePendingCancel age s).counters.upgrades = s.counters.upgrades
      ∧ (takePendingCancel age s).counters.ghostRefusals = s.counters.ghostRefusals
      ∧ (takePendingCancel age s).counters.starvations = s.counters.starvations
      ∧ (takePendingCancel age s).counters.frameErrors = s.counters.frameErrors
      ∧ (takePendingCancel age s).counters.inflowRefusals = s.counters.inflowRefusals
      ∧ (takePendingCancel age s).link = s.link ∧ (takePendingCancel age s).mem.calibrating = s.mem.calibrating
      ∧ (takePendingCancel age s).mem.granted = s.mem.granted ∧ (takePendingCancel age s).mem.debt = s.mem.debt
      ∧ (takePendingCancel age s).mem.lastLane = s.mem.lastLane ∧ (takePendingCancel age s).mem.epoch = s.mem.epoch
      ∧ (takePendingCancel age s).pending = s.pending := by
  unfold takePendingCancel
  (try dsimp only)
  and_intros <;> (repeat' split) <;> first | (simp; done) | rfl

@[simp] theorem afterWalk_keeps (age : Nat) (s : State) :
    (afterWalk age s).settings = s.settings ∧ (afterWalk age s).px = s.px ∧ (afterWalk age s).lib = s.lib
      ∧ (afterWalk age s).req.line = s.req.line ∧ (afterWalk age s).req.nextAge = s.req.nextAge
      ∧ (afterWalk age s).inflow = s.inflow ∧ (afterWalk age s).pool = s.pool
      ∧ (afterWalk age s).adm.passRunning = s.adm.passRunning ∧ (afterWalk age s).adm.passCut = s.adm.passCut
      ∧ (afterWalk age s).adm.holdReported = s.adm.holdReported ∧ (afterWalk age s).adm.walk = s.adm.walk
      ∧ (afterWalk age s).scan = s.scan ∧ (afterWalk age s).copier = s.copier ∧ (afterWalk age s).rails = s.rails
      ∧ (afterWalk age s).temp = s.temp ∧ (afterWalk age s).notices = s.notices
      ∧ (afterWalk age s).counters.framesScanned = s.counters.framesScanned
      ∧ (afterWalk age s).counters.lanesArmed = s.counters.lanesArmed
      ∧ (afterWalk age s).counters.upgrades = s.counters.upgrades
      ∧ (afterWalk age s).counters.ghostRefusals = s.counters.ghostRefusals
      ∧ (afterWalk age s).counters.starvations = s.counters.starvations
      ∧ (afterWalk age s).counters.frameErrors = s.counters.frameErrors
      ∧ (afterWalk age s).counters.inflowRefusals = s.counters.inflowRefusals ∧ (afterWalk age s).link = s.link
      ∧ (afterWalk age s).mem.calibrating = s.mem.calibrating ∧ (afterWalk age s).mem.granted = s.mem.granted
      ∧ (afterWalk age s).mem.debt = s.mem.debt ∧ (afterWalk age s).mem.lastLane = s.mem.lastLane
      ∧ (afterWalk age s).mem.epoch = s.mem.epoch ∧ (afterWalk age s).pending = s.pending := by
  unfold afterWalk
  (try dsimp only)
  and_intros <;> (repeat' split) <;> first | (simp; done) | rfl

@[simp] theorem reportHold_keeps (s : State) :
    (reportHold s).settings = s.settings ∧ (reportHold s).px = s.px ∧ (reportHold s).lib = s.lib
      ∧ (reportHold s).req = s.req ∧ (reportHold s).inflow = s.inflow ∧ (reportHold s).pool = s.pool
      ∧ (reportHold s).adm.passRunning = s.adm.passRunning ∧ (reportHold s).adm.passWanted = s.adm.passWanted
      ∧ (reportHold s).adm.passCut = s.adm.passCut ∧ (reportHold s).adm.walk = s.adm.walk
      ∧ (reportHold s).lanes = s.lanes ∧ (reportHold s).scan = s.scan ∧ (reportHold s).copier = s.copier
      ∧ (reportHold s).rails = s.rails ∧ (reportHold s).temp = s.temp
      ∧ (reportHold s).notices.masks = s.notices.masks ∧ (reportHold s).notices.priorities = s.notices.priorities
      ∧ (reportHold s).notices.attn = s.notices.attn ∧ (reportHold s).notices.log = s.notices.log
      ∧ (reportHold s).counters = s.counters ∧ (reportHold s).link = s.link ∧ (reportHold s).mem = s.mem
      ∧ (reportHold s).pending = s.pending := by
  unfold reportHold
  (try dsimp only)
  and_intros <;> (repeat' split) <;> first | (simp; done) | rfl

@[simp] theorem createRequest_keeps (mk : Nat → Request) (s : State) :
    (createRequest mk s).settings = s.settings ∧ (createRequest mk s).px = s.px ∧ (createRequest mk s).lib = s.lib
      ∧ (createRequest mk s).req.line = s.req.line ∧ (createRequest mk s).inflow = s.inflow
      ∧ (createRequest mk s).pool = s.pool ∧ (createRequest mk s).adm.passRunning = s.adm.passRunning
      ∧ (createRequest mk s).adm.passCut = s.adm.passCut ∧ (createRequest mk s).adm.walk = s.adm.walk
      ∧ (createRequest mk s).lanes = s.lanes ∧ (createRequest mk s).scan = s.scan
      ∧ (createRequest mk s).copier = s.copier ∧ (createRequest mk s).rails = s.rails
      ∧ (createRequest mk s).temp = s.temp ∧ (createRequest mk s).notices.masks = s.notices.masks
      ∧ (createRequest mk s).notices.priorities = s.notices.priorities
      ∧ (createRequest mk s).notices.attn = s.notices.attn ∧ (createRequest mk s).notices.log = s.notices.log
      ∧ (createRequest mk s).counters = s.counters ∧ (createRequest mk s).link = s.link
      ∧ (createRequest mk s).mem = s.mem ∧ (createRequest mk s).pending = s.pending := by
  unfold createRequest
  (try dsimp only)
  and_intros <;> (repeat' split) <;> first | (simp; done) | rfl

@[simp] theorem createJob_keeps (mk : Nat → Job) (s : State) :
    (createJob mk s).settings = s.settings ∧ (createJob mk s).px = s.px ∧ (createJob mk s).lib = s.lib
      ∧ (createJob mk s).req.table = s.req.table ∧ (createJob mk s).req.queue = s.req.queue
      ∧ (createJob mk s).req.line = s.req.line ∧ (createJob mk s).inflow = s.inflow
      ∧ (createJob mk s).pool = s.pool ∧ (createJob mk s).adm = s.adm ∧ (createJob mk s).lanes = s.lanes
      ∧ (createJob mk s).scan = s.scan ∧ (createJob mk s).copier.overlays = s.copier.overlays
      ∧ (createJob mk s).rails = s.rails ∧ (createJob mk s).temp = s.temp ∧ (createJob mk s).notices = s.notices
      ∧ (createJob mk s).counters = s.counters ∧ (createJob mk s).link = s.link ∧ (createJob mk s).mem = s.mem
      ∧ (createJob mk s).pending = s.pending := by
  unfold createJob
  (try dsimp only)
  and_intros <;> (repeat' split) <;> first | (simp; done) | rfl

@[simp] theorem arbitrate_keeps (s : State) :
    (arbitrate s).settings = s.settings ∧ (arbitrate s).px = s.px ∧ (arbitrate s).lib = s.lib
      ∧ (arbitrate s).req = s.req ∧ (arbitrate s).inflow = s.inflow ∧ (arbitrate s).pool = s.pool
      ∧ (arbitrate s).adm = s.adm ∧ (arbitrate s).lanes = s.lanes ∧ (arbitrate s).scan = s.scan
      ∧ (arbitrate s).copier = s.copier ∧ (arbitrate s).rails = s.rails ∧ (arbitrate s).temp = s.temp
      ∧ (arbitrate s).notices = s.notices ∧ (arbitrate s).counters = s.counters ∧ (arbitrate s).link = s.link
      ∧ (arbitrate s).mem.calibrating = s.mem.calibrating ∧ (arbitrate s).mem.epoch = s.mem.epoch
      ∧ (arbitrate s).pending = s.pending := by
  unfold arbitrate decideGrant
  and_intros <;> (repeat' split) <;> rfl

@[simp] theorem becomeReady_keeps (ready : List Requester) (s : State) :
    (becomeReady ready s).settings = s.settings ∧ (becomeReady ready s).px = s.px
      ∧ (becomeReady ready s).lib = s.lib ∧ (becomeReady ready s).req = s.req
      ∧ (becomeReady ready s).inflow = s.inflow ∧ (becomeReady ready s).pool = s.pool
      ∧ (becomeReady ready s).adm = s.adm ∧ (becomeReady ready s).lanes = s.lanes
      ∧ (becomeReady ready s).scan = s.scan ∧ (becomeReady ready s).copier = s.copier
      ∧ (becomeReady ready s).rails = s.rails ∧ (becomeReady ready s).temp = s.temp
      ∧ (becomeReady ready s).notices = s.notices ∧ (becomeReady ready s).counters = s.counters
      ∧ (becomeReady ready s).link = s.link ∧ (becomeReady ready s).mem.calibrating = s.mem.calibrating
      ∧ (becomeReady ready s).mem.epoch = s.mem.epoch ∧ (becomeReady ready s).pending = s.pending := by
  unfold becomeReady
  induction ready generalizing s with
  | nil => simp
  | cons a l ih =>
    rw [List.foldl_cons]
    split
    · simpa only [arbitrate_keeps, beginWait_keeps] using ih (arbitrate (beginWait a s))
    · exact ih s

/-- The grants a client waits for write grant, waiting clients, debt and turn alone. -/
@[simp] theorem decideGrant_keeps (m : FrameMemory) :
    (decideGrant m).calibrating = m.calibrating ∧ (decideGrant m).refreshTimer = m.refreshTimer
      ∧ (decideGrant m).epoch = m.epoch := by
  unfold decideGrant
  and_intros <;> (repeat' split) <;> rfl

@[simp] theorem passGrants_keeps (who : Requester) (n : Nat) (m : FrameMemory) :
    (passGrants who n m).calibrating = m.calibrating ∧ (passGrants who n m).refreshTimer = m.refreshTimer
      ∧ (passGrants who n m).epoch = m.epoch := by
  induction n generalizing m with
  | zero => exact ⟨rfl, rfl, rfl⟩
  | succ n ih =>
    rw [passGrants]
    split
    · exact ⟨rfl, rfl, rfl⟩
    · simpa only [decideGrant_keeps] using ih (decideGrant { m with granted := none })

@[simp] theorem reachGrant_keeps (who : Requester) (m : FrameMemory) :
    (reachGrant who m).calibrating = m.calibrating ∧ (reachGrant who m).refreshTimer = m.refreshTimer
      ∧ (reachGrant who m).epoch = m.epoch := by
  unfold reachGrant
  split
  · exact ⟨rfl, rfl, rfl⟩
  · simp only [passGrants_keeps, and_self]

/-- The last bursts of an operation write the frame memory's arbiter alone. -/
@[simp] theorem lastBursts_keeps (who : Requester) (s : State) :
    (lastBursts who s).settings = s.settings ∧ (lastBursts who s).px = s.px
      ∧ (lastBursts who s).lib = s.lib ∧ (lastBursts who s).req = s.req
      ∧ (lastBursts who s).inflow = s.inflow ∧ (lastBursts who s).pool = s.pool
      ∧ (lastBursts who s).adm = s.adm ∧ (lastBursts who s).lanes = s.lanes
      ∧ (lastBursts who s).scan = s.scan ∧ (lastBursts who s).copier = s.copier
      ∧ (lastBursts who s).rails = s.rails ∧ (lastBursts who s).temp = s.temp
      ∧ (lastBursts who s).notices = s.notices ∧ (lastBursts who s).counters = s.counters
      ∧ (lastBursts who s).link = s.link ∧ (lastBursts who s).mem.calibrating = s.mem.calibrating
      ∧ (lastBursts who s).mem.refreshTimer = s.mem.refreshTimer
      ∧ (lastBursts who s).mem.epoch = s.mem.epoch ∧ (lastBursts who s).pending = s.pending := by
  unfold lastBursts
  and_intros <;> (repeat' split) <;> first | rfl | simp only [reachGrant_keeps]

@[simp] theorem syncRise_keeps (s : State) :
    (syncRise s).settings = s.settings ∧ (syncRise s).px = s.px ∧ (syncRise s).lib = s.lib
      ∧ (syncRise s).req = s.req ∧ (syncRise s).inflow = s.inflow ∧ (syncRise s).pool = s.pool
      ∧ (syncRise s).adm = s.adm ∧ (syncRise s).lanes = s.lanes ∧ (syncRise s).scan = s.scan
      ∧ (syncRise s).copier = s.copier ∧ (syncRise s).rails.idleTimer = s.rails.idleTimer
      ∧ (syncRise s).rails.fallTime = s.rails.fallTime ∧ (syncRise s).rails.accepted = s.rails.accepted
      ∧ (syncRise s).rails.lastSample = s.rails.lastSample ∧ (syncRise s).temp = s.temp
      ∧ (syncRise s).notices = s.notices ∧ (syncRise s).counters = s.counters ∧ (syncRise s).link = s.link
      ∧ (syncRise s).mem = s.mem ∧ (syncRise s).pending = s.pending := by
  unfold syncRise
  (try dsimp only)
  and_intros <;> (repeat' split) <;> first | (simp; done) | rfl

@[simp] theorem syncIdle_keeps (s : State) :
    (syncIdle s).settings = s.settings ∧ (syncIdle s).px = s.px ∧ (syncIdle s).lib = s.lib
      ∧ (syncIdle s).req = s.req ∧ (syncIdle s).inflow = s.inflow ∧ (syncIdle s).pool = s.pool
      ∧ (syncIdle s).adm = s.adm ∧ (syncIdle s).lanes = s.lanes ∧ (syncIdle s).scan = s.scan
      ∧ (syncIdle s).copier = s.copier ∧ (syncIdle s).rails.accepted = s.rails.accepted
      ∧ (syncIdle s).rails.lastSample = s.rails.lastSample ∧ (syncIdle s).temp = s.temp
      ∧ (syncIdle s).notices = s.notices ∧ (syncIdle s).counters = s.counters ∧ (syncIdle s).link = s.link
      ∧ (syncIdle s).mem = s.mem ∧ (syncIdle s).pending = s.pending := by
  unfold syncIdle
  (try dsimp only)
  and_intros <;> (repeat' split) <;> first | (simp; done) | rfl

@[simp] theorem syncFrameTimer_keeps (s : State) :
    (syncFrameTimer s).settings = s.settings ∧ (syncFrameTimer s).px = s.px ∧ (syncFrameTimer s).lib = s.lib
      ∧ (syncFrameTimer s).req = s.req ∧ (syncFrameTimer s).inflow = s.inflow ∧ (syncFrameTimer s).pool = s.pool
      ∧ (syncFrameTimer s).adm = s.adm ∧ (syncFrameTimer s).lanes = s.lanes
      ∧ (syncFrameTimer s).scan.freeze = s.scan.freeze ∧ (syncFrameTimer s).scan.frame = s.scan.frame
      ∧ (syncFrameTimer s).scan.port = s.scan.port
      ∧ (syncFrameTimer s).scan.output = s.scan.output ∧ (syncFrameTimer s).copier = s.copier
      ∧ (syncFrameTimer s).rails = s.rails ∧ (syncFrameTimer s).temp = s.temp
      ∧ (syncFrameTimer s).notices = s.notices ∧ (syncFrameTimer s).counters = s.counters
      ∧ (syncFrameTimer s).link = s.link ∧ (syncFrameTimer s).mem = s.mem ∧ (syncFrameTimer s).pending = s.pending := by
  unfold syncFrameTimer
  (try dsimp only)
  and_intros <;> (repeat' split) <;> first | (simp; done) | rfl

@[simp] theorem syncPower_keeps (s : State) :
    (syncPower s).settings = s.settings ∧ (syncPower s).px = s.px ∧ (syncPower s).lib = s.lib
      ∧ (syncPower s).req = s.req ∧ (syncPower s).inflow = s.inflow ∧ (syncPower s).pool = s.pool
      ∧ (syncPower s).adm = s.adm ∧ (syncPower s).lanes = s.lanes ∧ (syncPower s).scan.freeze = s.scan.freeze
      ∧ (syncPower s).scan.frame = s.scan.frame ∧ (syncPower s).scan.port = s.scan.port
      ∧ (syncPower s).scan.output = s.scan.output
      ∧ (syncPower s).copier = s.copier ∧ (syncPower s).rails.accepted = s.rails.accepted
      ∧ (syncPower s).rails.lastSample = s.rails.lastSample ∧ (syncPower s).temp = s.temp
      ∧ (syncPower s).notices = s.notices ∧ (syncPower s).counters = s.counters ∧ (syncPower s).link = s.link
      ∧ (syncPower s).mem = s.mem ∧ (syncPower s).pending = s.pending := by
  unfold syncPower
  (try dsimp only)
  and_intros <;> (repeat' split) <;> first | (simp; done) | rfl

@[simp] theorem loseLane_keeps (s : State) (l : LaneId) :
    (loseLane s l).settings = s.settings ∧ (loseLane s l).px = s.px ∧ (loseLane s l).lib = s.lib
      ∧ (loseLane s l).req.line = s.req.line ∧ (loseLane s l).req.nextAge = s.req.nextAge
      ∧ (loseLane s l).inflow = s.inflow ∧ (loseLane s l).pool = s.pool
      ∧ (loseLane s l).adm.passRunning = s.adm.passRunning ∧ (loseLane s l).adm.passCut = s.adm.passCut
      ∧ (loseLane s l).adm.holdReported = s.adm.holdReported ∧ (loseLane s l).adm.walk = s.adm.walk
      ∧ (loseLane s l).scan = s.scan ∧ (loseLane s l).copier = s.copier ∧ (loseLane s l).rails = s.rails
      ∧ (loseLane s l).temp = s.temp ∧ (loseLane s l).notices = s.notices
      ∧ (loseLane s l).counters.framesScanned = s.counters.framesScanned
      ∧ (loseLane s l).counters.lanesArmed = s.counters.lanesArmed
      ∧ (loseLane s l).counters.upgrades = s.counters.upgrades
      ∧ (loseLane s l).counters.ghostRefusals = s.counters.ghostRefusals
      ∧ (loseLane s l).counters.starvations = s.counters.starvations
      ∧ (loseLane s l).counters.frameErrors = s.counters.frameErrors
      ∧ (loseLane s l).counters.inflowRefusals = s.counters.inflowRefusals ∧ (loseLane s l).link = s.link
      ∧ (loseLane s l).mem.calibrating = s.mem.calibrating ∧ (loseLane s l).mem.granted = s.mem.granted
      ∧ (loseLane s l).mem.debt = s.mem.debt ∧ (loseLane s l).mem.lastLane = s.mem.lastLane
      ∧ (loseLane s l).mem.epoch = s.mem.epoch ∧ (loseLane s l).pending = s.pending := by
  unfold loseLane
  (try dsimp only)
  and_intros <;> (repeat' split) <;> first | (simp; done) | rfl

@[simp] theorem flushRequest_keeps (s : State) (age : Nat) :
    (flushRequest s age).settings = s.settings ∧ (flushRequest s age).px = s.px ∧ (flushRequest s age).lib = s.lib
      ∧ (flushRequest s age).req.line = s.req.line ∧ (flushRequest s age).req.nextAge = s.req.nextAge
      ∧ (flushRequest s age).inflow = s.inflow ∧ (flushRequest s age).pool = s.pool
      ∧ (flushRequest s age).adm.passRunning = s.adm.passRunning ∧ (flushRequest s age).adm.passCut = s.adm.passCut
      ∧ (flushRequest s age).adm.holdReported = s.adm.holdReported ∧ (flushRequest s age).adm.walk = s.adm.walk
      ∧ (flushRequest s age).scan = s.scan ∧ (flushRequest s age).copier = s.copier
      ∧ (flushRequest s age).rails = s.rails ∧ (flushRequest s age).temp = s.temp
      ∧ (flushRequest s age).notices = s.notices ∧ (flushRequest s age).counters = s.counters
      ∧ (flushRequest s age).link = s.link ∧ (flushRequest s age).mem.calibrating = s.mem.calibrating
      ∧ (flushRequest s age).mem.granted = s.mem.granted ∧ (flushRequest s age).mem.debt = s.mem.debt
      ∧ (flushRequest s age).mem.lastLane = s.mem.lastLane ∧ (flushRequest s age).mem.epoch = s.mem.epoch
      ∧ (flushRequest s age).pending = s.pending := by
  unfold flushRequest
  (try dsimp only)
  and_intros <;> (repeat' split) <;> first | (simp; done) | rfl

@[simp] theorem flushAll_keeps (s : State) :
    (flushAll s).settings = s.settings ∧ (flushAll s).px = s.px ∧ (flushAll s).lib = s.lib
      ∧ (flushAll s).req.line = s.req.line ∧ (flushAll s).req.nextAge = s.req.nextAge
      ∧ (flushAll s).inflow = s.inflow ∧ (flushAll s).pool = s.pool
      ∧ (flushAll s).adm.passRunning = s.adm.passRunning ∧ (flushAll s).adm.passCut = s.adm.passCut
      ∧ (flushAll s).adm.holdReported = s.adm.holdReported ∧ (flushAll s).adm.walk = s.adm.walk
      ∧ (flushAll s).scan = s.scan ∧ (flushAll s).copier = s.copier ∧ (flushAll s).rails = s.rails
      ∧ (flushAll s).temp = s.temp ∧ (flushAll s).notices = s.notices ∧ (flushAll s).counters = s.counters
      ∧ (flushAll s).link = s.link ∧ (flushAll s).mem.calibrating = s.mem.calibrating
      ∧ (flushAll s).mem.granted = s.mem.granted ∧ (flushAll s).mem.debt = s.mem.debt
      ∧ (flushAll s).mem.lastLane = s.mem.lastLane ∧ (flushAll s).mem.epoch = s.mem.epoch
      ∧ (flushAll s).pending = s.pending := by
  unfold flushAll
  generalize (s.req.table.map fun r => r.age) = l
  suffices h : ∀ (l : List Nat) (t : State),
      (l.foldl flushRequest t).settings = t.settings ∧ (l.foldl flushRequest t).px = t.px
      ∧ (l.foldl flushRequest t).lib = t.lib ∧ (l.foldl flushRequest t).req.line = t.req.line
      ∧ (l.foldl flushRequest t).req.nextAge = t.req.nextAge ∧ (l.foldl flushRequest t).inflow = t.inflow
      ∧ (l.foldl flushRequest t).pool = t.pool ∧ (l.foldl flushRequest t).adm.passRunning = t.adm.passRunning
      ∧ (l.foldl flushRequest t).adm.passCut = t.adm.passCut
      ∧ (l.foldl flushRequest t).adm.holdReported = t.adm.holdReported
      ∧ (l.foldl flushRequest t).adm.walk = t.adm.walk ∧ (l.foldl flushRequest t).scan = t.scan
      ∧ (l.foldl flushRequest t).copier = t.copier ∧ (l.foldl flushRequest t).rails = t.rails
      ∧ (l.foldl flushRequest t).temp = t.temp ∧ (l.foldl flushRequest t).notices = t.notices
      ∧ (l.foldl flushRequest t).counters = t.counters ∧ (l.foldl flushRequest t).link = t.link
      ∧ (l.foldl flushRequest t).mem.calibrating = t.mem.calibrating
      ∧ (l.foldl flushRequest t).mem.granted = t.mem.granted ∧ (l.foldl flushRequest t).mem.debt = t.mem.debt
      ∧ (l.foldl flushRequest t).mem.lastLane = t.mem.lastLane ∧ (l.foldl flushRequest t).mem.epoch = t.mem.epoch
      ∧ (l.foldl flushRequest t).pending = t.pending by
    split
    · have h := h l s
      simp_all
    · simp
  intro l
  induction l with
  | nil => simp
  | cons a l ih => intro t; simpa using ih (flushRequest t a)

@[simp] theorem reportTempChange_keeps (old : TempState) (s : State) :
    (reportTempChange old s).settings = s.settings ∧ (reportTempChange old s).px = s.px
      ∧ (reportTempChange old s).lib = s.lib ∧ (reportTempChange old s).req = s.req
      ∧ (reportTempChange old s).inflow = s.inflow ∧ (reportTempChange old s).pool = s.pool
      ∧ (reportTempChange old s).adm.passRunning = s.adm.passRunning
      ∧ (reportTempChange old s).adm.passWanted = s.adm.passWanted
      ∧ (reportTempChange old s).adm.passCut = s.adm.passCut ∧ (reportTempChange old s).adm.walk = s.adm.walk
      ∧ (reportTempChange old s).lanes = s.lanes ∧ (reportTempChange old s).scan = s.scan
      ∧ (reportTempChange old s).copier = s.copier ∧ (reportTempChange old s).rails = s.rails
      ∧ (reportTempChange old s).temp = s.temp ∧ (reportTempChange old s).notices.masks = s.notices.masks
      ∧ (reportTempChange old s).notices.priorities = s.notices.priorities
      ∧ (reportTempChange old s).notices.attn = s.notices.attn
      ∧ (reportTempChange old s).notices.log = s.notices.log ∧ (reportTempChange old s).counters = s.counters
      ∧ (reportTempChange old s).link = s.link ∧ (reportTempChange old s).mem = s.mem
      ∧ (reportTempChange old s).pending = s.pending := by
  unfold reportTempChange
  (try dsimp only)
  and_intros <;> (repeat' split) <;> first | (simp; done) | rfl

@[simp] theorem recomputeTemp_keeps (s : State) :
    (recomputeTemp s).settings = s.settings ∧ (recomputeTemp s).px = s.px ∧ (recomputeTemp s).lib = s.lib
      ∧ (recomputeTemp s).req = s.req ∧ (recomputeTemp s).inflow = s.inflow ∧ (recomputeTemp s).pool = s.pool
      ∧ (recomputeTemp s).adm.passRunning = s.adm.passRunning ∧ (recomputeTemp s).adm.passWanted = s.adm.passWanted
      ∧ (recomputeTemp s).adm.passCut = s.adm.passCut ∧ (recomputeTemp s).adm.walk = s.adm.walk
      ∧ (recomputeTemp s).lanes = s.lanes ∧ (recomputeTemp s).scan = s.scan ∧ (recomputeTemp s).copier = s.copier
      ∧ (recomputeTemp s).rails = s.rails ∧ (recomputeTemp s).temp.reading = s.temp.reading
      ∧ (recomputeTemp s).temp.staleness = s.temp.staleness ∧ (recomputeTemp s).temp.timer = s.temp.timer
      ∧ (recomputeTemp s).notices.masks = s.notices.masks
      ∧ (recomputeTemp s).notices.priorities = s.notices.priorities
      ∧ (recomputeTemp s).notices.attn = s.notices.attn ∧ (recomputeTemp s).notices.log = s.notices.log
      ∧ (recomputeTemp s).counters = s.counters ∧ (recomputeTemp s).link = s.link ∧ (recomputeTemp s).mem = s.mem
      ∧ (recomputeTemp s).pending = s.pending := by
  unfold recomputeTemp
  (try dsimp only)
  and_intros <;> (repeat' split) <;> first | (simp; done) | rfl

@[simp] theorem noteUpgrade_keeps (age : Nat) (reason : UpgradeReason) (mode : Mode) (s : State) :
    (noteUpgrade age reason mode s).settings = s.settings ∧ (noteUpgrade age reason mode s).px = s.px
      ∧ (noteUpgrade age reason mode s).lib = s.lib ∧ (noteUpgrade age reason mode s).req.queue = s.req.queue
      ∧ (noteUpgrade age reason mode s).req.line = s.req.line
      ∧ (noteUpgrade age reason mode s).req.nextAge = s.req.nextAge
      ∧ (noteUpgrade age reason mode s).inflow = s.inflow ∧ (noteUpgrade age reason mode s).pool = s.pool
      ∧ (noteUpgrade age reason mode s).adm = s.adm ∧ (noteUpgrade age reason mode s).lanes = s.lanes
      ∧ (noteUpgrade age reason mode s).scan = s.scan ∧ (noteUpgrade age reason mode s).copier = s.copier
      ∧ (noteUpgrade age reason mode s).rails = s.rails ∧ (noteUpgrade age reason mode s).temp = s.temp
      ∧ (noteUpgrade age reason mode s).notices.masks = s.notices.masks
      ∧ (noteUpgrade age reason mode s).notices.priorities = s.notices.priorities
      ∧ (noteUpgrade age reason mode s).notices.attn = s.notices.attn
      ∧ (noteUpgrade age reason mode s).notices.log = s.notices.log
      ∧ (noteUpgrade age reason mode s).counters.framesScanned = s.counters.framesScanned
      ∧ (noteUpgrade age reason mode s).counters.lanesArmed = s.counters.lanesArmed
      ∧ (noteUpgrade age reason mode s).counters.ghostRefusals = s.counters.ghostRefusals
      ∧ (noteUpgrade age reason mode s).counters.starvations = s.counters.starvations
      ∧ (noteUpgrade age reason mode s).counters.aborts = s.counters.aborts
      ∧ (noteUpgrade age reason mode s).counters.frameErrors = s.counters.frameErrors
      ∧ (noteUpgrade age reason mode s).counters.inflowRefusals = s.counters.inflowRefusals
      ∧ (noteUpgrade age reason mode s).link = s.link ∧ (noteUpgrade age reason mode s).mem = s.mem
      ∧ (noteUpgrade age reason mode s).pending = s.pending := by
  unfold noteUpgrade
  (try dsimp only)
  and_intros <;> (repeat' split) <;> first | (simp; done) | rfl

@[simp] theorem noteRefusal_keeps (age : Nat) (reason : UpgradeReason) (s : State) :
    (noteRefusal age reason s).settings = s.settings ∧ (noteRefusal age reason s).px = s.px
      ∧ (noteRefusal age reason s).lib = s.lib ∧ (noteRefusal age reason s).req.queue = s.req.queue
      ∧ (noteRefusal age reason s).req.line = s.req.line ∧ (noteRefusal age reason s).req.nextAge = s.req.nextAge
      ∧ (noteRefusal age reason s).inflow = s.inflow ∧ (noteRefusal age reason s).pool = s.pool
      ∧ (noteRefusal age reason s).adm = s.adm ∧ (noteRefusal age reason s).lanes = s.lanes
      ∧ (noteRefusal age reason s).scan = s.scan ∧ (noteRefusal age reason s).copier = s.copier
      ∧ (noteRefusal age reason s).rails = s.rails ∧ (noteRefusal age reason s).temp = s.temp
      ∧ (noteRefusal age reason s).notices.masks = s.notices.masks
      ∧ (noteRefusal age reason s).notices.priorities = s.notices.priorities
      ∧ (noteRefusal age reason s).notices.attn = s.notices.attn
      ∧ (noteRefusal age reason s).notices.log = s.notices.log
      ∧ (noteRefusal age reason s).counters.framesScanned = s.counters.framesScanned
      ∧ (noteRefusal age reason s).counters.lanesArmed = s.counters.lanesArmed
      ∧ (noteRefusal age reason s).counters.upgrades = s.counters.upgrades
      ∧ (noteRefusal age reason s).counters.starvations = s.counters.starvations
      ∧ (noteRefusal age reason s).counters.aborts = s.counters.aborts
      ∧ (noteRefusal age reason s).counters.frameErrors = s.counters.frameErrors
      ∧ (noteRefusal age reason s).counters.inflowRefusals = s.counters.inflowRefusals
      ∧ (noteRefusal age reason s).link = s.link ∧ (noteRefusal age reason s).mem = s.mem
      ∧ (noteRefusal age reason s).pending = s.pending := by
  unfold noteRefusal
  (try dsimp only)
  and_intros <;> (repeat' split) <;> first | (simp; done) | rfl

@[simp] theorem ownPixels_keeps (l : LaneId) (rect : Rect) (drive : List Nat) (s : State) :
    (ownPixels l rect drive s).settings = s.settings ∧ (ownPixels l rect drive s).px.geometry = s.px.geometry
      ∧ (ownPixels l rect drive s).px.tiles = s.px.tiles ∧ (ownPixels l rect drive s).px.walk = s.px.walk
      ∧ (ownPixels l rect drive s).lib = s.lib ∧ (ownPixels l rect drive s).req = s.req
      ∧ (ownPixels l rect drive s).inflow = s.inflow ∧ (ownPixels l rect drive s).pool = s.pool
      ∧ (ownPixels l rect drive s).adm = s.adm ∧ (ownPixels l rect drive s).lanes = s.lanes
      ∧ (ownPixels l rect drive s).scan = s.scan ∧ (ownPixels l rect drive s).copier = s.copier
      ∧ (ownPixels l rect drive s).rails = s.rails ∧ (ownPixels l rect drive s).temp = s.temp
      ∧ (ownPixels l rect drive s).notices = s.notices ∧ (ownPixels l rect drive s).counters = s.counters
      ∧ (ownPixels l rect drive s).link = s.link ∧ (ownPixels l rect drive s).mem = s.mem
      ∧ (ownPixels l rect drive s).pending = s.pending := by
  unfold ownPixels
  generalize (drive) = l
  induction l generalizing s with
  | nil => simp
  | cons a l ih => simp [ih]

@[simp] theorem settleEntry_keeps (r : Request) (rem : Bool) (s : State) :
    (settleEntry r rem s).settings = s.settings ∧ (settleEntry r rem s).px = s.px
      ∧ (settleEntry r rem s).lib = s.lib ∧ (settleEntry r rem s).req.line = s.req.line
      ∧ (settleEntry r rem s).req.nextAge = s.req.nextAge ∧ (settleEntry r rem s).inflow = s.inflow
      ∧ (settleEntry r rem s).pool = s.pool ∧ (settleEntry r rem s).adm.passRunning = s.adm.passRunning
      ∧ (settleEntry r rem s).adm.passCut = s.adm.passCut
      ∧ (settleEntry r rem s).adm.holdReported = s.adm.holdReported ∧ (settleEntry r rem s).adm.walk = s.adm.walk
      ∧ (settleEntry r rem s).lanes = s.lanes ∧ (settleEntry r rem s).scan = s.scan
      ∧ (settleEntry r rem s).copier = s.copier ∧ (settleEntry r rem s).rails = s.rails
      ∧ (settleEntry r rem s).temp = s.temp ∧ (settleEntry r rem s).notices = s.notices
      ∧ (settleEntry r rem s).counters = s.counters ∧ (settleEntry r rem s).link = s.link
      ∧ (settleEntry r rem s).mem = s.mem ∧ (settleEntry r rem s).pending = s.pending := by
  unfold settleEntry
  (try dsimp only)
  and_intros <;> (repeat' split) <;> first | (simp; done) | rfl

@[simp] theorem admit_keeps (l : LaneId) (r : Request) (e : QueueEntry) (w : AdmissionWalk) (m : Mode) (d : List Nat) (rem : Bool) (s : State) :
    (admitWalk l r e w m d rem s).settings = s.settings ∧ (admitWalk l r e w m d rem s).px.geometry = s.px.geometry
      ∧ (admitWalk l r e w m d rem s).px.walk = s.px.walk ∧ (admitWalk l r e w m d rem s).lib = s.lib
      ∧ (admitWalk l r e w m d rem s).req.line = s.req.line ∧ (admitWalk l r e w m d rem s).req.nextAge = s.req.nextAge
      ∧ (admitWalk l r e w m d rem s).inflow = s.inflow ∧ (admitWalk l r e w m d rem s).pool = s.pool
      ∧ (admitWalk l r e w m d rem s).adm.passRunning = s.adm.passRunning
      ∧ (admitWalk l r e w m d rem s).adm.passCut = s.adm.passCut
      ∧ (admitWalk l r e w m d rem s).adm.holdReported = s.adm.holdReported
      ∧ (admitWalk l r e w m d rem s).adm.walk = s.adm.walk ∧ (admitWalk l r e w m d rem s).scan = s.scan
      ∧ (admitWalk l r e w m d rem s).copier = s.copier ∧ (admitWalk l r e w m d rem s).rails = s.rails
      ∧ (admitWalk l r e w m d rem s).temp = s.temp ∧ (admitWalk l r e w m d rem s).notices = s.notices
      ∧ (admitWalk l r e w m d rem s).counters.framesScanned = s.counters.framesScanned
      ∧ (admitWalk l r e w m d rem s).counters.upgrades = s.counters.upgrades
      ∧ (admitWalk l r e w m d rem s).counters.ghostRefusals = s.counters.ghostRefusals
      ∧ (admitWalk l r e w m d rem s).counters.starvations = s.counters.starvations
      ∧ (admitWalk l r e w m d rem s).counters.aborts = s.counters.aborts
      ∧ (admitWalk l r e w m d rem s).counters.frameErrors = s.counters.frameErrors
      ∧ (admitWalk l r e w m d rem s).counters.inflowRefusals = s.counters.inflowRefusals
      ∧ (admitWalk l r e w m d rem s).link = s.link ∧ (admitWalk l r e w m d rem s).mem = s.mem
      ∧ (admitWalk l r e w m d rem s).pending = s.pending := by
  unfold admitWalk
  (try dsimp only)
  and_intros <;> (repeat' split) <;> first | (simp; done) | rfl

@[simp] theorem resolveEntry_keeps (age : Nat) (o : ReqOutcome) (s : State) :
    (resolveEntry age o s).settings = s.settings ∧ (resolveEntry age o s).px = s.px
      ∧ (resolveEntry age o s).lib = s.lib ∧ (resolveEntry age o s).req.line = s.req.line
      ∧ (resolveEntry age o s).req.nextAge = s.req.nextAge ∧ (resolveEntry age o s).inflow = s.inflow
      ∧ (resolveEntry age o s).pool = s.pool ∧ (resolveEntry age o s).adm = s.adm
      ∧ (resolveEntry age o s).lanes = s.lanes ∧ (resolveEntry age o s).scan = s.scan
      ∧ (resolveEntry age o s).copier = s.copier ∧ (resolveEntry age o s).rails = s.rails
      ∧ (resolveEntry age o s).temp = s.temp ∧ (resolveEntry age o s).notices = s.notices
      ∧ (resolveEntry age o s).counters = s.counters ∧ (resolveEntry age o s).link = s.link
      ∧ (resolveEntry age o s).mem = s.mem ∧ (resolveEntry age o s).pending = s.pending := by
  unfold resolveEntry
  (try dsimp only)
  and_intros <;> (repeat' split) <;> first | (simp; done) | rfl

@[simp] theorem applyResult_keeps (r : Request) (e : QueueEntry) (w : AdmissionWalk) (res : WalkResult) (s : State) :
    (applyResult r e w res s).settings = s.settings ∧ (applyResult r e w res s).px.geometry = s.px.geometry
      ∧ (applyResult r e w res s).px.walk = s.px.walk ∧ (applyResult r e w res s).lib = s.lib
      ∧ (applyResult r e w res s).req.line = s.req.line ∧ (applyResult r e w res s).req.nextAge = s.req.nextAge
      ∧ (applyResult r e w res s).inflow = s.inflow ∧ (applyResult r e w res s).pool = s.pool
      ∧ (applyResult r e w res s).adm.passRunning = s.adm.passRunning
      ∧ (applyResult r e w res s).adm.passCut = s.adm.passCut
      ∧ (applyResult r e w res s).adm.holdReported = s.adm.holdReported
      ∧ (applyResult r e w res s).adm.walk = s.adm.walk ∧ (applyResult r e w res s).scan = s.scan
      ∧ (applyResult r e w res s).copier = s.copier ∧ (applyResult r e w res s).rails = s.rails
      ∧ (applyResult r e w res s).temp = s.temp ∧ (applyResult r e w res s).notices.masks = s.notices.masks
      ∧ (applyResult r e w res s).notices.priorities = s.notices.priorities
      ∧ (applyResult r e w res s).notices.attn = s.notices.attn
      ∧ (applyResult r e w res s).notices.log = s.notices.log
      ∧ (applyResult r e w res s).counters.framesScanned = s.counters.framesScanned
      ∧ (applyResult r e w res s).counters.starvations = s.counters.starvations
      ∧ (applyResult r e w res s).counters.aborts = s.counters.aborts
      ∧ (applyResult r e w res s).counters.frameErrors = s.counters.frameErrors
      ∧ (applyResult r e w res s).counters.inflowRefusals = s.counters.inflowRefusals
      ∧ (applyResult r e w res s).link = s.link ∧ (applyResult r e w res s).mem = s.mem
      ∧ (applyResult r e w res s).pending = s.pending := by
  unfold applyResult
  (try dsimp only)
  and_intros <;> (repeat' split) <;> first | (simp; done) | rfl

@[simp] theorem beginWalk_keeps (r : Request) (band : Nat) (s : State) :
    (beginWalk r band s).settings = s.settings ∧ (beginWalk r band s).px = s.px ∧ (beginWalk r band s).lib = s.lib
      ∧ (beginWalk r band s).req.table = s.req.table ∧ (beginWalk r band s).req.line = s.req.line
      ∧ (beginWalk r band s).req.nextAge = s.req.nextAge ∧ (beginWalk r band s).inflow = s.inflow
      ∧ (beginWalk r band s).pool = s.pool ∧ (beginWalk r band s).adm.passRunning = s.adm.passRunning
      ∧ (beginWalk r band s).adm.passWanted = s.adm.passWanted ∧ (beginWalk r band s).adm.passCut = s.adm.passCut
      ∧ (beginWalk r band s).adm.holdReported = s.adm.holdReported ∧ (beginWalk r band s).lanes = s.lanes
      ∧ (beginWalk r band s).scan = s.scan ∧ (beginWalk r band s).copier = s.copier
      ∧ (beginWalk r band s).rails = s.rails ∧ (beginWalk r band s).temp = s.temp
      ∧ (beginWalk r band s).notices = s.notices ∧ (beginWalk r band s).counters = s.counters
      ∧ (beginWalk r band s).link = s.link ∧ (beginWalk r band s).mem.calibrating = s.mem.calibrating
      ∧ (beginWalk r band s).mem.granted = s.mem.granted ∧ (beginWalk r band s).mem.debt = s.mem.debt
      ∧ (beginWalk r band s).mem.lastLane = s.mem.lastLane ∧ (beginWalk r band s).mem.epoch = s.mem.epoch
      ∧ (beginWalk r band s).pending = s.pending := by
  unfold beginWalk
  (try dsimp only)
  and_intros <;> (repeat' split) <;> first | (simp; done) | rfl

@[simp] theorem resolveUnsupported_keeps (age : Nat) (s : State) :
    (resolveUnsupported age s).settings = s.settings ∧ (resolveUnsupported age s).px = s.px
      ∧ (resolveUnsupported age s).lib = s.lib ∧ (resolveUnsupported age s).req.nextAge = s.req.nextAge
      ∧ (resolveUnsupported age s).inflow = s.inflow ∧ (resolveUnsupported age s).pool.bytes = s.pool.bytes
      ∧ (resolveUnsupported age s).adm = s.adm ∧ (resolveUnsupported age s).lanes = s.lanes
      ∧ (resolveUnsupported age s).scan = s.scan ∧ (resolveUnsupported age s).copier.overlays = s.copier.overlays
      ∧ (resolveUnsupported age s).rails = s.rails ∧ (resolveUnsupported age s).temp = s.temp
      ∧ (resolveUnsupported age s).notices.masks = s.notices.masks
      ∧ (resolveUnsupported age s).notices.priorities = s.notices.priorities
      ∧ (resolveUnsupported age s).notices.attn = s.notices.attn ∧ (resolveUnsupported age s).counters = s.counters
      ∧ (resolveUnsupported age s).link = s.link ∧ (resolveUnsupported age s).mem.calibrating = s.mem.calibrating
      ∧ (resolveUnsupported age s).mem.debt = s.mem.debt ∧ (resolveUnsupported age s).mem.lastLane = s.mem.lastLane
      ∧ (resolveUnsupported age s).mem.epoch = s.mem.epoch ∧ (resolveUnsupported age s).pending = s.pending := by
  unfold resolveUnsupported
  (try dsimp only)
  and_intros <;> (repeat' split) <;> first | (simp; done) | rfl

@[simp] theorem runPass_keeps (ages : List Nat) (s : State) :
    (runPass ages s).settings = s.settings ∧ (runPass ages s).px = s.px ∧ (runPass ages s).lib = s.lib
      ∧ (runPass ages s).req.nextAge = s.req.nextAge ∧ (runPass ages s).inflow = s.inflow
      ∧ (runPass ages s).pool.bytes = s.pool.bytes ∧ (runPass ages s).adm.passWanted = s.adm.passWanted
      ∧ (runPass ages s).adm.holdReported = s.adm.holdReported ∧ (runPass ages s).lanes = s.lanes
      ∧ (runPass ages s).scan = s.scan ∧ (runPass ages s).copier.overlays = s.copier.overlays
      ∧ (runPass ages s).rails = s.rails ∧ (runPass ages s).temp = s.temp
      ∧ (runPass ages s).notices.masks = s.notices.masks
      ∧ (runPass ages s).notices.priorities = s.notices.priorities ∧ (runPass ages s).notices.attn = s.notices.attn
      ∧ (runPass ages s).counters = s.counters ∧ (runPass ages s).link = s.link
      ∧ (runPass ages s).mem.calibrating = s.mem.calibrating ∧ (runPass ages s).mem.debt = s.mem.debt
      ∧ (runPass ages s).mem.lastLane = s.mem.lastLane ∧ (runPass ages s).mem.epoch = s.mem.epoch
      ∧ (runPass ages s).pending = s.pending := by
  induction ages generalizing s with
  | nil => simp [runPass]
  | cons a rest ih => unfold runPass; (repeat' split) <;> simp [ih]

@[simp] theorem startPass_keeps (s : State) :
    (startPass s).settings = s.settings ∧ (startPass s).px = s.px ∧ (startPass s).lib = s.lib
      ∧ (startPass s).req.nextAge = s.req.nextAge ∧ (startPass s).inflow = s.inflow
      ∧ (startPass s).pool.bytes = s.pool.bytes ∧ (startPass s).adm.holdReported = s.adm.holdReported
      ∧ (startPass s).lanes = s.lanes ∧ (startPass s).scan = s.scan
      ∧ (startPass s).copier.overlays = s.copier.overlays ∧ (startPass s).rails = s.rails
      ∧ (startPass s).temp = s.temp ∧ (startPass s).notices.masks = s.notices.masks
      ∧ (startPass s).notices.priorities = s.notices.priorities ∧ (startPass s).notices.attn = s.notices.attn
      ∧ (startPass s).counters = s.counters ∧ (startPass s).link = s.link
      ∧ (startPass s).mem.calibrating = s.mem.calibrating ∧ (startPass s).mem.debt = s.mem.debt
      ∧ (startPass s).mem.lastLane = s.mem.lastLane ∧ (startPass s).mem.epoch = s.mem.epoch
      ∧ (startPass s).pending = s.pending := by
  unfold startPass
  (try dsimp only)
  and_intros <;> (repeat' split) <;> first | (simp; done) | rfl

@[simp] theorem tryPass_keeps (s : State) :
    (tryPass s).settings = s.settings ∧ (tryPass s).px = s.px ∧ (tryPass s).lib = s.lib
      ∧ (tryPass s).req.nextAge = s.req.nextAge ∧ (tryPass s).inflow = s.inflow
      ∧ (tryPass s).pool.bytes = s.pool.bytes ∧ (tryPass s).adm.holdReported = s.adm.holdReported
      ∧ (tryPass s).lanes = s.lanes ∧ (tryPass s).scan = s.scan ∧ (tryPass s).copier.overlays = s.copier.overlays
      ∧ (tryPass s).rails = s.rails ∧ (tryPass s).temp = s.temp ∧ (tryPass s).notices.masks = s.notices.masks
      ∧ (tryPass s).notices.priorities = s.notices.priorities ∧ (tryPass s).notices.attn = s.notices.attn
      ∧ (tryPass s).counters = s.counters ∧ (tryPass s).link = s.link
      ∧ (tryPass s).mem.calibrating = s.mem.calibrating ∧ (tryPass s).mem.debt = s.mem.debt
      ∧ (tryPass s).mem.lastLane = s.mem.lastLane ∧ (tryPass s).mem.epoch = s.mem.epoch
      ∧ (tryPass s).pending = s.pending := by
  unfold tryPass
  (try dsimp only)
  and_intros <;> (repeat' split) <;> first | (simp; done) | rfl

@[simp] theorem resumePass_keeps (age : Nat) (s : State) :
    (resumePass age s).settings = s.settings ∧ (resumePass age s).px = s.px ∧ (resumePass age s).lib = s.lib
      ∧ (resumePass age s).req.nextAge = s.req.nextAge ∧ (resumePass age s).inflow = s.inflow
      ∧ (resumePass age s).pool.bytes = s.pool.bytes ∧ (resumePass age s).adm.passWanted = s.adm.passWanted
      ∧ (resumePass age s).adm.holdReported = s.adm.holdReported ∧ (resumePass age s).lanes = s.lanes
      ∧ (resumePass age s).scan = s.scan ∧ (resumePass age s).copier.overlays = s.copier.overlays
      ∧ (resumePass age s).rails = s.rails ∧ (resumePass age s).temp = s.temp
      ∧ (resumePass age s).notices.masks = s.notices.masks
      ∧ (resumePass age s).notices.priorities = s.notices.priorities
      ∧ (resumePass age s).notices.attn = s.notices.attn ∧ (resumePass age s).counters = s.counters
      ∧ (resumePass age s).link = s.link ∧ (resumePass age s).mem.calibrating = s.mem.calibrating
      ∧ (resumePass age s).mem.debt = s.mem.debt ∧ (resumePass age s).mem.lastLane = s.mem.lastLane
      ∧ (resumePass age s).mem.epoch = s.mem.epoch ∧ (resumePass age s).pending = s.pending := by
  unfold resumePass
  (try dsimp only)
  and_intros <;> (repeat' split) <;> first | (simp; done) | rfl

@[simp] theorem noteHolds_keeps (before : State) (s : State) :
    (noteHolds before s).settings = s.settings ∧ (noteHolds before s).px = s.px ∧ (noteHolds before s).lib = s.lib
      ∧ (noteHolds before s).req = s.req ∧ (noteHolds before s).inflow = s.inflow
      ∧ (noteHolds before s).pool = s.pool ∧ (noteHolds before s).adm.passRunning = s.adm.passRunning
      ∧ (noteHolds before s).adm.holdReported = s.adm.holdReported ∧ (noteHolds before s).adm.walk = s.adm.walk
      ∧ (noteHolds before s).lanes = s.lanes ∧ (noteHolds before s).scan = s.scan
      ∧ (noteHolds before s).copier = s.copier ∧ (noteHolds before s).rails = s.rails
      ∧ (noteHolds before s).temp = s.temp ∧ (noteHolds before s).notices = s.notices
      ∧ (noteHolds before s).counters = s.counters ∧ (noteHolds before s).link = s.link
      ∧ (noteHolds before s).mem = s.mem ∧ (noteHolds before s).pending = s.pending := by
  unfold noteHolds
  (try dsimp only)
  and_intros <;> (repeat' split) <;> first | (simp; done) | rfl

@[simp] theorem finish_keeps (before : State) (s : State) :
    (finish before s).settings = s.settings ∧ (finish before s).px = s.px ∧ (finish before s).lib = s.lib
      ∧ (finish before s).req.nextAge = s.req.nextAge ∧ (finish before s).inflow = s.inflow
      ∧ (finish before s).pool.bytes = s.pool.bytes ∧ (finish before s).adm.holdReported = s.adm.holdReported
      ∧ (finish before s).lanes = s.lanes ∧ (finish before s).scan.freeze = s.scan.freeze
      ∧ (finish before s).scan.frame = s.scan.frame ∧ (finish before s).scan.port = s.scan.port
      ∧ (finish before s).scan.output = s.scan.output
      ∧ (finish before s).copier.overlays = s.copier.overlays ∧ (finish before s).rails.accepted = s.rails.accepted
      ∧ (finish before s).rails.lastSample = s.rails.lastSample ∧ (finish before s).temp = s.temp
      ∧ (finish before s).notices.masks = s.notices.masks
      ∧ (finish before s).notices.priorities = s.notices.priorities ∧ (finish before s).counters = s.counters
      ∧ (finish before s).link = s.link ∧ (finish before s).mem.calibrating = s.mem.calibrating
      ∧ (finish before s).mem.epoch = s.mem.epoch ∧ (finish before s).pending = s.pending := by
  unfold finish
  (try dsimp only)
  and_intros <;> (repeat' split) <;> first | (simp; done) | rfl

end Sys2Proof.Machine
end

