-- ==== Sys2Proof/Laws/Units.lean ====
section
/-!
SUPPORT. What each operation of the units leaves as it was: one lemma for each operation, a conjunct for each field.
-/

namespace Sys2Proof.Machine

set_option linter.unusedTactic false
set_option linter.unreachableTactic false

@[simp] theorem startTransaction_keeps (s : State) :
    (startTransaction s).settings = s.settings ∧ (startTransaction s).px = s.px ∧ (startTransaction s).lib = s.lib
      ∧ (startTransaction s).req = s.req ∧ (startTransaction s).inflow = s.inflow
      ∧ (startTransaction s).pool = s.pool ∧ (startTransaction s).adm = s.adm
      ∧ (startTransaction s).lanes = s.lanes ∧ (startTransaction s).scan = s.scan
      ∧ (startTransaction s).copier = s.copier ∧ (startTransaction s).rails = s.rails
      ∧ (startTransaction s).temp = s.temp ∧ (startTransaction s).notices = s.notices
      ∧ (startTransaction s).counters = s.counters ∧ (startTransaction s).link.slot = s.link.slot
      ∧ (startTransaction s).link.resetHeld = s.link.resetHeld ∧ (startTransaction s).mem = s.mem
      ∧ (startTransaction s).pending = s.pending := by
  and_intros <;> rfl

@[simp] theorem openTransaction_keeps (s : State) :
    (openTransaction s).settings = s.settings ∧ (openTransaction s).px = s.px ∧ (openTransaction s).lib = s.lib
      ∧ (openTransaction s).req = s.req ∧ (openTransaction s).inflow = s.inflow ∧ (openTransaction s).pool = s.pool
      ∧ (openTransaction s).adm = s.adm ∧ (openTransaction s).lanes = s.lanes ∧ (openTransaction s).scan = s.scan
      ∧ (openTransaction s).copier = s.copier ∧ (openTransaction s).rails = s.rails
      ∧ (openTransaction s).temp = s.temp ∧ (openTransaction s).notices = s.notices
      ∧ (openTransaction s).counters = s.counters ∧ (openTransaction s).link.slot = s.link.slot
      ∧ (openTransaction s).link.resetHeld = s.link.resetHeld ∧ (openTransaction s).mem = s.mem
      ∧ (openTransaction s).pending = s.pending := by
  unfold openTransaction
  (try dsimp only)
  and_intros <;> (repeat' split) <;> first | (simp; done) | rfl

@[simp] theorem endTransaction_keeps (t : Transfer) (s : State) :
    (endTransaction t s).settings = s.settings ∧ (endTransaction t s).px = s.px ∧ (endTransaction t s).lib = s.lib
      ∧ (endTransaction t s).req = s.req ∧ (endTransaction t s).inflow = s.inflow
      ∧ (endTransaction t s).pool = s.pool ∧ (endTransaction t s).adm = s.adm
      ∧ (endTransaction t s).lanes = s.lanes ∧ (endTransaction t s).scan = s.scan
      ∧ (endTransaction t s).copier = s.copier ∧ (endTransaction t s).rails = s.rails
      ∧ (endTransaction t s).temp = s.temp ∧ (endTransaction t s).notices = s.notices
      ∧ (endTransaction t s).counters = s.counters ∧ (endTransaction t s).link.resetHeld = s.link.resetHeld
      ∧ (endTransaction t s).mem = s.mem ∧ (endTransaction t s).pending = s.pending := by
  unfold endTransaction
  (try dsimp only)
  and_intros <;> (repeat' split) <;> first | (simp; done) | rfl

@[simp] theorem placeReply_keeps (kind seq : Byte) (res : Result) (p : List Byte) (s : State) :
    (placeReply kind seq res p s).settings = s.settings ∧ (placeReply kind seq res p s).px = s.px
      ∧ (placeReply kind seq res p s).lib = s.lib ∧ (placeReply kind seq res p s).req = s.req
      ∧ (placeReply kind seq res p s).inflow = s.inflow ∧ (placeReply kind seq res p s).pool = s.pool
      ∧ (placeReply kind seq res p s).adm = s.adm ∧ (placeReply kind seq res p s).lanes = s.lanes
      ∧ (placeReply kind seq res p s).scan = s.scan ∧ (placeReply kind seq res p s).copier = s.copier
      ∧ (placeReply kind seq res p s).rails = s.rails ∧ (placeReply kind seq res p s).temp = s.temp
      ∧ (placeReply kind seq res p s).notices = s.notices ∧ (placeReply kind seq res p s).counters = s.counters
      ∧ (placeReply kind seq res p s).link.transaction = s.link.transaction
      ∧ (placeReply kind seq res p s).link.resetHeld = s.link.resetHeld ∧ (placeReply kind seq res p s).mem = s.mem
      ∧ (placeReply kind seq res p s).pending = s.pending := by
  and_intros <;> rfl

@[simp] theorem autoClear_keeps (s : State) :
    (autoClear s).settings = s.settings ∧ (autoClear s).px = s.px ∧ (autoClear s).lib = s.lib
      ∧ (autoClear s).req = s.req ∧ (autoClear s).inflow.buffer = s.inflow.buffer
      ∧ (autoClear s).inflow.writing = s.inflow.writing ∧ (autoClear s).inflow.latch = s.inflow.latch
      ∧ (autoClear s).pool = s.pool ∧ (autoClear s).adm = s.adm ∧ (autoClear s).lanes = s.lanes
      ∧ (autoClear s).scan = s.scan ∧ (autoClear s).copier = s.copier ∧ (autoClear s).rails = s.rails
      ∧ (autoClear s).temp = s.temp ∧ (autoClear s).notices = s.notices ∧ (autoClear s).counters = s.counters
      ∧ (autoClear s).link = s.link ∧ (autoClear s).mem = s.mem ∧ (autoClear s).pending = s.pending := by
  unfold autoClear
  (try dsimp only)
  and_intros <;> (repeat' split) <;> first | (simp; done) | rfl

@[simp] theorem clearCounters_keeps (s : State) :
    (clearCounters s).settings = s.settings ∧ (clearCounters s).px = s.px ∧ (clearCounters s).lib = s.lib
      ∧ (clearCounters s).req = s.req ∧ (clearCounters s).inflow = s.inflow ∧ (clearCounters s).pool = s.pool
      ∧ (clearCounters s).adm = s.adm ∧ (clearCounters s).lanes = s.lanes ∧ (clearCounters s).scan = s.scan
      ∧ (clearCounters s).copier = s.copier ∧ (clearCounters s).rails = s.rails ∧ (clearCounters s).temp = s.temp
      ∧ (clearCounters s).notices = s.notices ∧ (clearCounters s).link = s.link ∧ (clearCounters s).mem = s.mem
      ∧ (clearCounters s).pending = s.pending := by
  unfold clearCounters
  (try dsimp only)
  and_intros <;> (repeat' split) <;> first | (simp; done) | rfl

@[simp] theorem clearTaken_keeps (choice : Option NoticeSource) (s : State) :
    (clearTaken choice s).settings = s.settings ∧ (clearTaken choice s).px = s.px
      ∧ (clearTaken choice s).lib = s.lib ∧ (clearTaken choice s).req = s.req
      ∧ (clearTaken choice s).inflow = s.inflow ∧ (clearTaken choice s).pool = s.pool
      ∧ (clearTaken choice s).adm = s.adm ∧ (clearTaken choice s).lanes = s.lanes
      ∧ (clearTaken choice s).scan = s.scan ∧ (clearTaken choice s).copier = s.copier
      ∧ (clearTaken choice s).rails = s.rails ∧ (clearTaken choice s).temp = s.temp
      ∧ (clearTaken choice s).notices.masks = s.notices.masks
      ∧ (clearTaken choice s).notices.priorities = s.notices.priorities
      ∧ (clearTaken choice s).notices.attn = s.notices.attn ∧ (clearTaken choice s).notices.log = s.notices.log
      ∧ (clearTaken choice s).counters = s.counters ∧ (clearTaken choice s).link = s.link
      ∧ (clearTaken choice s).mem = s.mem ∧ (clearTaken choice s).pending = s.pending := by
  unfold clearTaken
  (try dsimp only)
  and_intros <;> (repeat' split) <;> first | (simp; done) | rfl

@[simp] theorem setLibrary_keeps (lib : Library) (s : State) :
    (setLibrary lib s).settings = s.settings ∧ (setLibrary lib s).px = s.px ∧ (setLibrary lib s).req = s.req
      ∧ (setLibrary lib s).inflow = s.inflow ∧ (setLibrary lib s).pool = s.pool
      ∧ (setLibrary lib s).adm.passRunning = s.adm.passRunning
      ∧ (setLibrary lib s).adm.passWanted = s.adm.passWanted ∧ (setLibrary lib s).adm.passCut = s.adm.passCut
      ∧ (setLibrary lib s).adm.walk = s.adm.walk ∧ (setLibrary lib s).lanes = s.lanes
      ∧ (setLibrary lib s).scan = s.scan ∧ (setLibrary lib s).copier = s.copier
      ∧ (setLibrary lib s).rails = s.rails ∧ (setLibrary lib s).temp.reading = s.temp.reading
      ∧ (setLibrary lib s).temp.staleness = s.temp.staleness ∧ (setLibrary lib s).temp.timer = s.temp.timer
      ∧ (setLibrary lib s).notices.masks = s.notices.masks
      ∧ (setLibrary lib s).notices.priorities = s.notices.priorities
      ∧ (setLibrary lib s).notices.attn = s.notices.attn ∧ (setLibrary lib s).notices.log = s.notices.log
      ∧ (setLibrary lib s).counters = s.counters ∧ (setLibrary lib s).link = s.link
      ∧ (setLibrary lib s).mem = s.mem ∧ (setLibrary lib s).pending = s.pending := by
  unfold setLibrary
  (try dsimp only)
  and_intros <;> (repeat' split) <;> first | (simp; done) | rfl

/-- The end of a chunk write has stored the bytes its bursts have left (R29, R30). -/
theorem endedWrite_data {lib : Library} {c : LibChunk} (writes : lib.write = some c) :
    (endedWrite lib).data = lib.data ++ (lib.storedBytes c).drop lib.moved := by
  simp [endedWrite, Library.advance, Library.toTransfer, Library.transferSize, writes, ← List.length_drop]

/-- What the commit walk reads does not depend on how far it has come (R32). -/
theorem bytesRead_moved (m : Nat) (lib : Library) (entries : List (Nat × WaveSet × Nat)) :
    ({ lib with moved := m } : Library).bytesRead entries = lib.bytesRead entries := by
  induction entries with
  | nil => rfl
  | cons entry rest ih =>
    obtain ⟨s, w, e⟩ := entry
    have same : ({ lib with moved := m } : Library).entryFault s w e = lib.entryFault s w e := rfl
    simp only [Library.bytesRead, same, ih]

/-- What an operation transfers in all does not change as it goes forward (R151). -/
theorem advance_transferSize (n : Nat) (lib : Library) : (lib.advance n).transferSize = lib.transferSize := by
  obtain ⟨_, _, _, _, _, _, _, _, _, _, _, write, commit, _⟩ := lib
  cases write with
  | some c => rfl
  | none =>
    cases commit with
    | none | requested => rfl
    | walking =>
      show (if _ then 0 else _) = (if _ then 0 else _)
      congr 1
      exact bytesRead_moved _ _ _

/-- A library operation is nearer to its end by what has been transferred (R151). -/
theorem advance_toTransfer (n : Nat) (lib : Library) : (lib.advance n).toTransfer = lib.toTransfer - n := by
  have moved : (lib.advance n).moved = lib.moved + min n lib.toTransfer := rfl
  have same := advance_transferSize n lib
  unfold Library.toTransfer at moved ⊢
  omega

@[simp] theorem waitToTransfer_keeps (s : State) :
    (waitToTransfer s).settings = s.settings ∧ (waitToTransfer s).px = s.px ∧ (waitToTransfer s).req = s.req
      ∧ (waitToTransfer s).inflow = s.inflow ∧ (waitToTransfer s).pool = s.pool ∧ (waitToTransfer s).adm = s.adm
      ∧ (waitToTransfer s).lanes = s.lanes ∧ (waitToTransfer s).scan = s.scan ∧ (waitToTransfer s).copier = s.copier
      ∧ (waitToTransfer s).rails = s.rails ∧ (waitToTransfer s).temp = s.temp ∧ (waitToTransfer s).notices = s.notices
      ∧ (waitToTransfer s).counters = s.counters ∧ (waitToTransfer s).link = s.link
      ∧ (waitToTransfer s).mem.calibrating = s.mem.calibrating ∧ (waitToTransfer s).mem.granted = s.mem.granted
      ∧ (waitToTransfer s).mem.debt = s.mem.debt ∧ (waitToTransfer s).mem.lastLane = s.mem.lastLane
      ∧ (waitToTransfer s).lib = s.lib ∧ (waitToTransfer s).mem.epoch = s.mem.epoch ∧ (waitToTransfer s).pending = s.pending := by
  unfold waitToTransfer
  (try dsimp only)
  and_intros <;> (repeat' split) <;> first | (simp; done) | rfl

@[simp] theorem startCommit_keeps (s : State) :
    (startCommit s).settings = s.settings ∧ (startCommit s).px = s.px ∧ (startCommit s).req = s.req
      ∧ (startCommit s).inflow = s.inflow ∧ (startCommit s).pool = s.pool ∧ (startCommit s).adm = s.adm
      ∧ (startCommit s).lanes = s.lanes ∧ (startCommit s).scan = s.scan ∧ (startCommit s).copier = s.copier
      ∧ (startCommit s).rails = s.rails ∧ (startCommit s).temp = s.temp ∧ (startCommit s).notices = s.notices
      ∧ (startCommit s).counters = s.counters ∧ (startCommit s).link = s.link
      ∧ (startCommit s).mem.calibrating = s.mem.calibrating ∧ (startCommit s).mem.granted = s.mem.granted
      ∧ (startCommit s).mem.debt = s.mem.debt ∧ (startCommit s).mem.lastLane = s.mem.lastLane
      ∧ (startCommit s).mem.epoch = s.mem.epoch ∧ (startCommit s).pending = s.pending := by
  unfold startCommit
  (try dsimp only)
  and_intros <;> (repeat' split) <;> first | (simp; done) | rfl

@[simp] theorem endLibWrite_keeps (s : State) :
    (endLibWrite s).settings = s.settings ∧ (endLibWrite s).px = s.px ∧ (endLibWrite s).req = s.req
      ∧ (endLibWrite s).inflow = s.inflow ∧ (endLibWrite s).pool = s.pool ∧ (endLibWrite s).adm = s.adm
      ∧ (endLibWrite s).lanes = s.lanes ∧ (endLibWrite s).scan = s.scan ∧ (endLibWrite s).copier = s.copier
      ∧ (endLibWrite s).rails = s.rails ∧ (endLibWrite s).temp = s.temp ∧ (endLibWrite s).notices = s.notices
      ∧ (endLibWrite s).counters = s.counters ∧ (endLibWrite s).link = s.link
      ∧ (endLibWrite s).mem.calibrating = s.mem.calibrating ∧ (endLibWrite s).mem.debt = s.mem.debt
      ∧ (endLibWrite s).mem.lastLane = s.mem.lastLane ∧ (endLibWrite s).mem.epoch = s.mem.epoch
      ∧ (endLibWrite s).pending = s.pending := by
  unfold endLibWrite
  (try dsimp only)
  and_intros <;> (repeat' split) <;> first | (simp; done) | rfl

@[simp] theorem bandTrigger_keeps (before : State) (s : State) :
    (bandTrigger before s).settings = s.settings ∧ (bandTrigger before s).px = s.px
      ∧ (bandTrigger before s).lib = s.lib ∧ (bandTrigger before s).req = s.req
      ∧ (bandTrigger before s).inflow = s.inflow ∧ (bandTrigger before s).pool = s.pool
      ∧ (bandTrigger before s).adm.passRunning = s.adm.passRunning
      ∧ (bandTrigger before s).adm.passCut = s.adm.passCut
      ∧ (bandTrigger before s).adm.holdReported = s.adm.holdReported ∧ (bandTrigger before s).adm.walk = s.adm.walk
      ∧ (bandTrigger before s).lanes = s.lanes ∧ (bandTrigger before s).scan = s.scan
      ∧ (bandTrigger before s).copier = s.copier ∧ (bandTrigger before s).rails = s.rails
      ∧ (bandTrigger before s).temp = s.temp ∧ (bandTrigger before s).notices = s.notices
      ∧ (bandTrigger before s).counters = s.counters ∧ (bandTrigger before s).link = s.link
      ∧ (bandTrigger before s).mem = s.mem ∧ (bandTrigger before s).pending = s.pending := by
  unfold bandTrigger
  (try dsimp only)
  and_intros <;> (repeat' split) <;> first | (simp; done) | rfl

@[simp] theorem takeReading_keeps (v : Int) (s : State) :
    (takeReading v s).settings = s.settings ∧ (takeReading v s).px = s.px ∧ (takeReading v s).lib = s.lib
      ∧ (takeReading v s).req = s.req ∧ (takeReading v s).inflow = s.inflow ∧ (takeReading v s).pool = s.pool
      ∧ (takeReading v s).adm.passRunning = s.adm.passRunning ∧ (takeReading v s).adm.passCut = s.adm.passCut
      ∧ (takeReading v s).adm.walk = s.adm.walk ∧ (takeReading v s).lanes = s.lanes
      ∧ (takeReading v s).scan = s.scan ∧ (takeReading v s).copier = s.copier ∧ (takeReading v s).rails = s.rails
      ∧ (takeReading v s).notices.masks = s.notices.masks
      ∧ (takeReading v s).notices.priorities = s.notices.priorities
      ∧ (takeReading v s).notices.attn = s.notices.attn ∧ (takeReading v s).notices.log = s.notices.log
      ∧ (takeReading v s).counters = s.counters ∧ (takeReading v s).link = s.link ∧ (takeReading v s).mem = s.mem
      ∧ (takeReading v s).pending = s.pending := by
  unfold takeReading
  (try dsimp only)
  and_intros <;> (repeat' split) <;> first | (simp; done) | rfl

@[simp] theorem expireInterval_keeps (s : State) :
    (expireInterval s).settings = s.settings ∧ (expireInterval s).px = s.px ∧ (expireInterval s).lib = s.lib
      ∧ (expireInterval s).req = s.req ∧ (expireInterval s).inflow = s.inflow ∧ (expireInterval s).pool = s.pool
      ∧ (expireInterval s).adm.passRunning = s.adm.passRunning
      ∧ (expireInterval s).adm.passWanted = s.adm.passWanted ∧ (expireInterval s).adm.passCut = s.adm.passCut
      ∧ (expireInterval s).adm.walk = s.adm.walk ∧ (expireInterval s).lanes = s.lanes
      ∧ (expireInterval s).scan = s.scan ∧ (expireInterval s).copier = s.copier
      ∧ (expireInterval s).rails = s.rails ∧ (expireInterval s).temp.reading = s.temp.reading
      ∧ (expireInterval s).notices.masks = s.notices.masks
      ∧ (expireInterval s).notices.priorities = s.notices.priorities
      ∧ (expireInterval s).notices.attn = s.notices.attn ∧ (expireInterval s).notices.log = s.notices.log
      ∧ (expireInterval s).counters = s.counters ∧ (expireInterval s).link = s.link
      ∧ (expireInterval s).mem = s.mem ∧ (expireInterval s).pending = s.pending := by
  unfold expireInterval
  (try dsimp only)
  and_intros <;> (repeat' split) <;> first | (simp; done) | rfl

@[simp] theorem clearFault_keeps (s : State) :
    (clearFault s).settings = s.settings ∧ (clearFault s).px = s.px ∧ (clearFault s).lib = s.lib
      ∧ (clearFault s).req = s.req ∧ (clearFault s).inflow = s.inflow ∧ (clearFault s).pool = s.pool
      ∧ (clearFault s).adm = s.adm ∧ (clearFault s).lanes = s.lanes ∧ (clearFault s).scan = s.scan
      ∧ (clearFault s).copier = s.copier ∧ (clearFault s).rails.enable = s.rails.enable
      ∧ (clearFault s).rails.riseTimer = s.rails.riseTimer ∧ (clearFault s).rails.idleTimer = s.rails.idleTimer
      ∧ (clearFault s).rails.fallTime = s.rails.fallTime ∧ (clearFault s).rails.accepted = s.rails.accepted
      ∧ (clearFault s).rails.lastSample = s.rails.lastSample ∧ (clearFault s).temp = s.temp
      ∧ (clearFault s).notices = s.notices ∧ (clearFault s).counters = s.counters ∧ (clearFault s).link = s.link
      ∧ (clearFault s).mem = s.mem ∧ (clearFault s).pending = s.pending := by
  unfold clearFault
  (try dsimp only)
  and_intros <;> (repeat' split) <;> first | (simp; done) | rfl

@[simp] theorem reachOn_keeps (s : State) :
    (reachOn s).settings = s.settings ∧ (reachOn s).px = s.px ∧ (reachOn s).lib = s.lib ∧ (reachOn s).req = s.req
      ∧ (reachOn s).inflow = s.inflow ∧ (reachOn s).pool = s.pool ∧ (reachOn s).adm = s.adm
      ∧ (reachOn s).lanes = s.lanes ∧ (reachOn s).scan = s.scan ∧ (reachOn s).copier = s.copier
      ∧ (reachOn s).rails.enable = s.rails.enable ∧ (reachOn s).rails.idleTimer = s.rails.idleTimer
      ∧ (reachOn s).rails.fallTime = s.rails.fallTime ∧ (reachOn s).rails.accepted = s.rails.accepted
      ∧ (reachOn s).rails.lastSample = s.rails.lastSample ∧ (reachOn s).temp = s.temp
      ∧ (reachOn s).notices = s.notices ∧ (reachOn s).counters = s.counters ∧ (reachOn s).link = s.link
      ∧ (reachOn s).mem = s.mem ∧ (reachOn s).pending = s.pending := by
  and_intros <;> rfl

@[simp] theorem judgeAfter_keeps (before : State) (s : State) :
    (judgeAfter before s).settings = s.settings ∧ (judgeAfter before s).px = s.px
      ∧ (judgeAfter before s).lib = s.lib ∧ (judgeAfter before s).req = s.req
      ∧ (judgeAfter before s).inflow = s.inflow ∧ (judgeAfter before s).pool = s.pool
      ∧ (judgeAfter before s).adm = s.adm ∧ (judgeAfter before s).lanes = s.lanes
      ∧ (judgeAfter before s).scan = s.scan ∧ (judgeAfter before s).copier.overlays = s.copier.overlays
      ∧ (judgeAfter before s).rails = s.rails ∧ (judgeAfter before s).temp = s.temp
      ∧ (judgeAfter before s).notices = s.notices ∧ (judgeAfter before s).counters = s.counters
      ∧ (judgeAfter before s).link = s.link ∧ (judgeAfter before s).mem.calibrating = s.mem.calibrating
      ∧ (judgeAfter before s).mem.granted = s.mem.granted ∧ (judgeAfter before s).mem.debt = s.mem.debt
      ∧ (judgeAfter before s).mem.lastLane = s.mem.lastLane ∧ (judgeAfter before s).mem.epoch = s.mem.epoch
      ∧ (judgeAfter before s).pending = s.pending := by
  unfold judgeAfter
  (try dsimp only)
  and_intros <;> (repeat' split) <;> first | (simp; done) | rfl

@[simp] theorem loseLanes_keeps (l : List LaneId) (s : State) :
    (l.foldl loseLane s).settings = s.settings ∧ (l.foldl loseLane s).px = s.px ∧ (l.foldl loseLane s).lib = s.lib
      ∧ (l.foldl loseLane s).req.line = s.req.line ∧ (l.foldl loseLane s).req.nextAge = s.req.nextAge
      ∧ (l.foldl loseLane s).inflow = s.inflow ∧ (l.foldl loseLane s).pool = s.pool
      ∧ (l.foldl loseLane s).adm.passRunning = s.adm.passRunning ∧ (l.foldl loseLane s).adm.passCut = s.adm.passCut
      ∧ (l.foldl loseLane s).adm.holdReported = s.adm.holdReported ∧ (l.foldl loseLane s).adm.walk = s.adm.walk
      ∧ (l.foldl loseLane s).scan = s.scan ∧ (l.foldl loseLane s).copier = s.copier
      ∧ (l.foldl loseLane s).rails = s.rails ∧ (l.foldl loseLane s).temp = s.temp
      ∧ (l.foldl loseLane s).notices = s.notices
      ∧ (l.foldl loseLane s).counters.framesScanned = s.counters.framesScanned
      ∧ (l.foldl loseLane s).counters.lanesArmed = s.counters.lanesArmed
      ∧ (l.foldl loseLane s).counters.upgrades = s.counters.upgrades
      ∧ (l.foldl loseLane s).counters.ghostRefusals = s.counters.ghostRefusals
      ∧ (l.foldl loseLane s).counters.starvations = s.counters.starvations
      ∧ (l.foldl loseLane s).counters.frameErrors = s.counters.frameErrors
      ∧ (l.foldl loseLane s).counters.inflowRefusals = s.counters.inflowRefusals
      ∧ (l.foldl loseLane s).link = s.link ∧ (l.foldl loseLane s).mem.calibrating = s.mem.calibrating
      ∧ (l.foldl loseLane s).mem.granted = s.mem.granted ∧ (l.foldl loseLane s).mem.debt = s.mem.debt
      ∧ (l.foldl loseLane s).mem.lastLane = s.mem.lastLane ∧ (l.foldl loseLane s).mem.epoch = s.mem.epoch
      ∧ (l.foldl loseLane s).pending = s.pending := by
  induction l generalizing s with
  | nil => simp
  | cons a l ih => simpa using ih (loseLane s a)

@[simp] theorem railFault_keeps (s : State) :
    (railFault s).settings = s.settings ∧ (railFault s).px = s.px ∧ (railFault s).lib = s.lib
      ∧ (railFault s).req.nextAge = s.req.nextAge ∧ (railFault s).inflow = s.inflow
      ∧ (railFault s).pool.bytes = s.pool.bytes ∧ (railFault s).adm.passRunning = s.adm.passRunning
      ∧ (railFault s).adm.passCut = s.adm.passCut ∧ (railFault s).adm.holdReported = s.adm.holdReported
      ∧ (railFault s).adm.walk = s.adm.walk ∧ (railFault s).scan = s.scan
      ∧ (railFault s).copier.overlays = s.copier.overlays ∧ (railFault s).rails.fallTime = s.rails.fallTime
      ∧ (railFault s).rails.accepted = s.rails.accepted ∧ (railFault s).rails.lastSample = s.rails.lastSample
      ∧ (railFault s).temp = s.temp ∧ (railFault s).notices.masks = s.notices.masks
      ∧ (railFault s).notices.priorities = s.notices.priorities ∧ (railFault s).notices.attn = s.notices.attn
      ∧ (railFault s).counters.framesScanned = s.counters.framesScanned
      ∧ (railFault s).counters.lanesArmed = s.counters.lanesArmed
      ∧ (railFault s).counters.upgrades = s.counters.upgrades
      ∧ (railFault s).counters.ghostRefusals = s.counters.ghostRefusals
      ∧ (railFault s).counters.starvations = s.counters.starvations
      ∧ (railFault s).counters.frameErrors = s.counters.frameErrors
      ∧ (railFault s).counters.inflowRefusals = s.counters.inflowRefusals ∧ (railFault s).link = s.link
      ∧ (railFault s).mem.calibrating = s.mem.calibrating ∧ (railFault s).mem.debt = s.mem.debt
      ∧ (railFault s).mem.lastLane = s.mem.lastLane ∧ (railFault s).mem.epoch = s.mem.epoch
      ∧ (railFault s).pending = s.pending := by
  unfold railFault
  simp

@[simp] theorem takeSample_keeps (high : Bool) (s : State) :
    (takeSample high s).settings = s.settings ∧ (takeSample high s).px = s.px ∧ (takeSample high s).lib = s.lib
      ∧ (takeSample high s).req.nextAge = s.req.nextAge ∧ (takeSample high s).inflow = s.inflow
      ∧ (takeSample high s).pool.bytes = s.pool.bytes ∧ (takeSample high s).adm.passRunning = s.adm.passRunning
      ∧ (takeSample high s).adm.passCut = s.adm.passCut ∧ (takeSample high s).adm.holdReported = s.adm.holdReported
      ∧ (takeSample high s).adm.walk = s.adm.walk ∧ (takeSample high s).scan = s.scan
      ∧ (takeSample high s).copier.overlays = s.copier.overlays ∧ (takeSample high s).temp = s.temp
      ∧ (takeSample high s).notices.masks = s.notices.masks
      ∧ (takeSample high s).notices.priorities = s.notices.priorities
      ∧ (takeSample high s).notices.attn = s.notices.attn
      ∧ (takeSample high s).counters.framesScanned = s.counters.framesScanned
      ∧ (takeSample high s).counters.lanesArmed = s.counters.lanesArmed
      ∧ (takeSample high s).counters.upgrades = s.counters.upgrades
      ∧ (takeSample high s).counters.ghostRefusals = s.counters.ghostRefusals
      ∧ (takeSample high s).counters.starvations = s.counters.starvations
      ∧ (takeSample high s).counters.frameErrors = s.counters.frameErrors
      ∧ (takeSample high s).counters.inflowRefusals = s.counters.inflowRefusals ∧ (takeSample high s).link = s.link
      ∧ (takeSample high s).mem.calibrating = s.mem.calibrating ∧ (takeSample high s).mem.debt = s.mem.debt
      ∧ (takeSample high s).mem.lastLane = s.mem.lastLane ∧ (takeSample high s).mem.epoch = s.mem.epoch
      ∧ (takeSample high s).pending = s.pending := by
  unfold takeSample
  (try dsimp only)
  and_intros <;> (repeat' split) <;> first | (simp; done) | rfl

@[simp] theorem postUpdate_keeps (f : PostUpdate) (s : State) :
    (postUpdate f s).settings = s.settings ∧ (postUpdate f s).px = s.px ∧ (postUpdate f s).lib = s.lib
      ∧ (postUpdate f s).req.line = s.req.line ∧ (postUpdate f s).inflow = s.inflow
      ∧ (postUpdate f s).pool.bytes = s.pool.bytes ∧ (postUpdate f s).adm.passRunning = s.adm.passRunning
      ∧ (postUpdate f s).adm.passCut = s.adm.passCut ∧ (postUpdate f s).adm.walk = s.adm.walk
      ∧ (postUpdate f s).lanes = s.lanes ∧ (postUpdate f s).scan = s.scan ∧ (postUpdate f s).copier = s.copier
      ∧ (postUpdate f s).rails = s.rails ∧ (postUpdate f s).temp = s.temp
      ∧ (postUpdate f s).notices.masks = s.notices.masks
      ∧ (postUpdate f s).notices.priorities = s.notices.priorities ∧ (postUpdate f s).notices.attn = s.notices.attn
      ∧ (postUpdate f s).notices.log = s.notices.log ∧ (postUpdate f s).counters = s.counters
      ∧ (postUpdate f s).link = s.link ∧ (postUpdate f s).mem = s.mem ∧ (postUpdate f s).pending = s.pending := by
  unfold postUpdate
  (try dsimp only)
  and_intros <;> (repeat' split) <;> first | (simp; done) | rfl

@[simp] theorem pendCancel_keeps (r : Request) (force : Bool) (s : State) :
    (pendCancel r force s).settings = s.settings ∧ (pendCancel r force s).px = s.px
      ∧ (pendCancel r force s).lib = s.lib ∧ (pendCancel r force s).req.queue = s.req.queue
      ∧ (pendCancel r force s).req.line = s.req.line ∧ (pendCancel r force s).req.nextAge = s.req.nextAge
      ∧ (pendCancel r force s).inflow = s.inflow ∧ (pendCancel r force s).pool = s.pool
      ∧ (pendCancel r force s).adm = s.adm ∧ (pendCancel r force s).lanes = s.lanes
      ∧ (pendCancel r force s).scan = s.scan ∧ (pendCancel r force s).copier = s.copier
      ∧ (pendCancel r force s).rails = s.rails ∧ (pendCancel r force s).temp = s.temp
      ∧ (pendCancel r force s).notices = s.notices ∧ (pendCancel r force s).counters = s.counters
      ∧ (pendCancel r force s).link = s.link ∧ (pendCancel r force s).mem = s.mem
      ∧ (pendCancel r force s).pending = s.pending := by
  unfold pendCancel
  (try dsimp only)
  and_intros <;> (repeat' split) <;> first | (simp; done) | rfl

@[simp] theorem cancelNow_clean_keeps (force : Bool) (r : Request) (s : State) :
    (cancelNow r (cleanCancel force) s).settings = s.settings ∧ (cancelNow r (cleanCancel force) s).px = s.px
      ∧ (cancelNow r (cleanCancel force) s).lib = s.lib ∧ (cancelNow r (cleanCancel force) s).req.nextAge = s.req.nextAge
      ∧ (cancelNow r (cleanCancel force) s).inflow = s.inflow ∧ (cancelNow r (cleanCancel force) s).pool.bytes = s.pool.bytes
      ∧ (cancelNow r (cleanCancel force) s).adm.passRunning = s.adm.passRunning
      ∧ (cancelNow r (cleanCancel force) s).adm.passCut = s.adm.passCut
      ∧ (cancelNow r (cleanCancel force) s).adm.holdReported = s.adm.holdReported
      ∧ (cancelNow r (cleanCancel force) s).adm.walk = s.adm.walk ∧ (cancelNow r (cleanCancel force) s).scan = s.scan
      ∧ (cancelNow r (cleanCancel force) s).copier.overlays = s.copier.overlays
      ∧ (cancelNow r (cleanCancel force) s).rails = s.rails ∧ (cancelNow r (cleanCancel force) s).temp = s.temp
      ∧ (cancelNow r (cleanCancel force) s).notices.masks = s.notices.masks
      ∧ (cancelNow r (cleanCancel force) s).notices.priorities = s.notices.priorities
      ∧ (cancelNow r (cleanCancel force) s).notices.attn = s.notices.attn
      ∧ (cancelNow r (cleanCancel force) s).counters = s.counters ∧ (cancelNow r (cleanCancel force) s).link = s.link
      ∧ (cancelNow r (cleanCancel force) s).mem.calibrating = s.mem.calibrating
      ∧ (cancelNow r (cleanCancel force) s).mem.debt = s.mem.debt
      ∧ (cancelNow r (cleanCancel force) s).mem.lastLane = s.mem.lastLane
      ∧ (cancelNow r (cleanCancel force) s).mem.epoch = s.mem.epoch ∧ (cancelNow r (cleanCancel force) s).pending = s.pending := by
  unfold cancelNow
  simp

@[simp] theorem cancelNow_forced_keeps (r : Request) (s : State) :
    (cancelNow r forcedCancel s).settings = s.settings ∧ (cancelNow r forcedCancel s).px = s.px
      ∧ (cancelNow r forcedCancel s).lib = s.lib ∧ (cancelNow r forcedCancel s).req.nextAge = s.req.nextAge
      ∧ (cancelNow r forcedCancel s).inflow = s.inflow ∧ (cancelNow r forcedCancel s).pool.bytes = s.pool.bytes
      ∧ (cancelNow r forcedCancel s).adm.passRunning = s.adm.passRunning
      ∧ (cancelNow r forcedCancel s).adm.passCut = s.adm.passCut
      ∧ (cancelNow r forcedCancel s).adm.holdReported = s.adm.holdReported
      ∧ (cancelNow r forcedCancel s).adm.walk = s.adm.walk ∧ (cancelNow r forcedCancel s).scan = s.scan
      ∧ (cancelNow r forcedCancel s).copier.overlays = s.copier.overlays
      ∧ (cancelNow r forcedCancel s).rails = s.rails ∧ (cancelNow r forcedCancel s).temp = s.temp
      ∧ (cancelNow r forcedCancel s).notices.masks = s.notices.masks
      ∧ (cancelNow r forcedCancel s).notices.priorities = s.notices.priorities
      ∧ (cancelNow r forcedCancel s).notices.attn = s.notices.attn
      ∧ (cancelNow r forcedCancel s).counters.framesScanned = s.counters.framesScanned
      ∧ (cancelNow r forcedCancel s).counters.lanesArmed = s.counters.lanesArmed
      ∧ (cancelNow r forcedCancel s).counters.upgrades = s.counters.upgrades
      ∧ (cancelNow r forcedCancel s).counters.ghostRefusals = s.counters.ghostRefusals
      ∧ (cancelNow r forcedCancel s).counters.starvations = s.counters.starvations
      ∧ (cancelNow r forcedCancel s).counters.frameErrors = s.counters.frameErrors
      ∧ (cancelNow r forcedCancel s).counters.inflowRefusals = s.counters.inflowRefusals
      ∧ (cancelNow r forcedCancel s).link = s.link
      ∧ (cancelNow r forcedCancel s).mem.calibrating = s.mem.calibrating
      ∧ (cancelNow r forcedCancel s).mem.debt = s.mem.debt
      ∧ (cancelNow r forcedCancel s).mem.lastLane = s.mem.lastLane
      ∧ (cancelNow r forcedCancel s).mem.epoch = s.mem.epoch ∧ (cancelNow r forcedCancel s).pending = s.pending := by
  unfold cancelNow
  simp

@[simp] theorem checkRefill_keeps (s : State) :
    (checkRefill s).settings = s.settings ∧ (checkRefill s).px = s.px ∧ (checkRefill s).lib = s.lib
      ∧ (checkRefill s).req = s.req ∧ (checkRefill s).inflow.buffer = s.inflow.buffer
      ∧ (checkRefill s).inflow.writing = s.inflow.writing ∧ (checkRefill s).inflow.discard = s.inflow.discard
      ∧ (checkRefill s).pool = s.pool ∧ (checkRefill s).adm = s.adm ∧ (checkRefill s).lanes = s.lanes
      ∧ (checkRefill s).scan = s.scan ∧ (checkRefill s).copier = s.copier ∧ (checkRefill s).rails = s.rails
      ∧ (checkRefill s).temp = s.temp ∧ (checkRefill s).notices.masks = s.notices.masks
      ∧ (checkRefill s).notices.priorities = s.notices.priorities ∧ (checkRefill s).notices.attn = s.notices.attn
      ∧ (checkRefill s).notices.log = s.notices.log ∧ (checkRefill s).counters = s.counters
      ∧ (checkRefill s).link = s.link ∧ (checkRefill s).mem = s.mem ∧ (checkRefill s).pending = s.pending := by
  unfold checkRefill
  (try dsimp only)
  and_intros <;> (repeat' split) <;> first | (simp; done) | rfl

@[simp] theorem popChunk_keeps (s : State) :
    (popChunk s).settings = s.settings ∧ (popChunk s).px = s.px ∧ (popChunk s).lib = s.lib
      ∧ (popChunk s).req = s.req ∧ (popChunk s).inflow.writing = s.inflow.writing
      ∧ (popChunk s).inflow.discard = s.inflow.discard ∧ (popChunk s).inflow.latch = s.inflow.latch
      ∧ (popChunk s).pool = s.pool ∧ (popChunk s).adm = s.adm ∧ (popChunk s).lanes = s.lanes
      ∧ (popChunk s).scan = s.scan ∧ (popChunk s).copier = s.copier ∧ (popChunk s).rails = s.rails
      ∧ (popChunk s).temp = s.temp ∧ (popChunk s).notices = s.notices ∧ (popChunk s).counters = s.counters
      ∧ (popChunk s).link = s.link ∧ (popChunk s).mem = s.mem ∧ (popChunk s).pending = s.pending := by
  and_intros <;> rfl

@[simp] theorem dropChunk_keeps (s : State) :
    (dropChunk s).settings = s.settings ∧ (dropChunk s).px = s.px ∧ (dropChunk s).lib = s.lib
      ∧ (dropChunk s).req = s.req ∧ (dropChunk s).inflow.writing = s.inflow.writing ∧ (dropChunk s).pool = s.pool
      ∧ (dropChunk s).adm = s.adm ∧ (dropChunk s).lanes = s.lanes ∧ (dropChunk s).scan = s.scan
      ∧ (dropChunk s).copier = s.copier ∧ (dropChunk s).rails = s.rails ∧ (dropChunk s).temp = s.temp
      ∧ (dropChunk s).notices.masks = s.notices.masks ∧ (dropChunk s).notices.priorities = s.notices.priorities
      ∧ (dropChunk s).notices.attn = s.notices.attn ∧ (dropChunk s).notices.log = s.notices.log
      ∧ (dropChunk s).counters = s.counters ∧ (dropChunk s).link = s.link ∧ (dropChunk s).mem = s.mem
      ∧ (dropChunk s).pending = s.pending := by
  unfold dropChunk
  (try dsimp only)
  and_intros <;> (repeat' split) <;> first | (simp; done) | rfl

@[simp] theorem takeChunks_keeps (cs : List Chunk) (s : State) :
    (takeChunks cs s).settings = s.settings ∧ (takeChunks cs s).px = s.px ∧ (takeChunks cs s).lib = s.lib
      ∧ (takeChunks cs s).req = s.req ∧ (takeChunks cs s).pool = s.pool ∧ (takeChunks cs s).adm = s.adm
      ∧ (takeChunks cs s).lanes = s.lanes ∧ (takeChunks cs s).scan = s.scan ∧ (takeChunks cs s).copier = s.copier
      ∧ (takeChunks cs s).rails = s.rails ∧ (takeChunks cs s).temp = s.temp
      ∧ (takeChunks cs s).notices.masks = s.notices.masks
      ∧ (takeChunks cs s).notices.priorities = s.notices.priorities
      ∧ (takeChunks cs s).notices.attn = s.notices.attn ∧ (takeChunks cs s).notices.log = s.notices.log
      ∧ (takeChunks cs s).counters = s.counters ∧ (takeChunks cs s).link = s.link
      ∧ (takeChunks cs s).mem.calibrating = s.mem.calibrating ∧ (takeChunks cs s).mem.granted = s.mem.granted
      ∧ (takeChunks cs s).mem.debt = s.mem.debt ∧ (takeChunks cs s).mem.lastLane = s.mem.lastLane
      ∧ (takeChunks cs s).mem.epoch = s.mem.epoch ∧ (takeChunks cs s).pending = s.pending := by
  induction cs generalizing s with
  | nil => simp [takeChunks]
  | cons c rest ih => unfold takeChunks; split <;> simp [ih]

@[simp] theorem takeNextChunk_keeps (s : State) :
    (takeNextChunk s).settings = s.settings ∧ (takeNextChunk s).px = s.px ∧ (takeNextChunk s).lib = s.lib
      ∧ (takeNextChunk s).req = s.req ∧ (takeNextChunk s).pool = s.pool ∧ (takeNextChunk s).adm = s.adm
      ∧ (takeNextChunk s).lanes = s.lanes ∧ (takeNextChunk s).scan = s.scan ∧ (takeNextChunk s).copier = s.copier
      ∧ (takeNextChunk s).rails = s.rails ∧ (takeNextChunk s).temp = s.temp
      ∧ (takeNextChunk s).notices.masks = s.notices.masks
      ∧ (takeNextChunk s).notices.priorities = s.notices.priorities
      ∧ (takeNextChunk s).notices.attn = s.notices.attn ∧ (takeNextChunk s).notices.log = s.notices.log
      ∧ (takeNextChunk s).counters = s.counters ∧ (takeNextChunk s).link = s.link
      ∧ (takeNextChunk s).mem.calibrating = s.mem.calibrating ∧ (takeNextChunk s).mem.granted = s.mem.granted
      ∧ (takeNextChunk s).mem.debt = s.mem.debt ∧ (takeNextChunk s).mem.lastLane = s.mem.lastLane
      ∧ (takeNextChunk s).mem.epoch = s.mem.epoch ∧ (takeNextChunk s).pending = s.pending := by
  unfold takeNextChunk
  (try dsimp only)
  and_intros <;> (repeat' split) <;> first | (simp; done) | rfl

@[simp] theorem advanceChunk_keeps (k : Nat) (s : State) :
    (advanceChunk k s).settings = s.settings ∧ (advanceChunk k s).px = s.px ∧ (advanceChunk k s).lib = s.lib
      ∧ (advanceChunk k s).req = s.req ∧ (advanceChunk k s).inflow.buffer = s.inflow.buffer
      ∧ (advanceChunk k s).inflow.discard = s.inflow.discard ∧ (advanceChunk k s).inflow.latch = s.inflow.latch
      ∧ (advanceChunk k s).pool.free = s.pool.free ∧ (advanceChunk k s).adm = s.adm
      ∧ (advanceChunk k s).lanes = s.lanes ∧ (advanceChunk k s).scan = s.scan
      ∧ (advanceChunk k s).copier = s.copier ∧ (advanceChunk k s).rails = s.rails
      ∧ (advanceChunk k s).temp = s.temp ∧ (advanceChunk k s).notices = s.notices
      ∧ (advanceChunk k s).counters = s.counters ∧ (advanceChunk k s).link = s.link
      ∧ (advanceChunk k s).mem = s.mem ∧ (advanceChunk k s).pending = s.pending := by
  unfold advanceChunk
  (try dsimp only)
  and_intros <;> (repeat' split) <;> first | (simp; done) | rfl

@[simp] theorem countRows_keeps (c : Chunk) (s : State) :
    (countRows c s).settings = s.settings ∧ (countRows c s).px = s.px ∧ (countRows c s).lib = s.lib
      ∧ (countRows c s).req.queue = s.req.queue ∧ (countRows c s).req.line = s.req.line
      ∧ (countRows c s).req.nextAge = s.req.nextAge ∧ (countRows c s).inflow = s.inflow
      ∧ (countRows c s).pool = s.pool ∧ (countRows c s).adm.passRunning = s.adm.passRunning
      ∧ (countRows c s).adm.passCut = s.adm.passCut ∧ (countRows c s).adm.holdReported = s.adm.holdReported
      ∧ (countRows c s).adm.walk = s.adm.walk ∧ (countRows c s).lanes = s.lanes ∧ (countRows c s).scan = s.scan
      ∧ (countRows c s).copier = s.copier ∧ (countRows c s).rails = s.rails ∧ (countRows c s).temp = s.temp
      ∧ (countRows c s).notices = s.notices ∧ (countRows c s).counters = s.counters ∧ (countRows c s).link = s.link
      ∧ (countRows c s).mem = s.mem ∧ (countRows c s).pending = s.pending := by
  unfold countRows
  (try dsimp only)
  and_intros <;> (repeat' split) <;> first | (simp; done) | rfl

@[simp] theorem returnHeldPages_keeps (age : Nat) (s : State) :
    (returnHeldPages age s).settings = s.settings ∧ (returnHeldPages age s).px = s.px
      ∧ (returnHeldPages age s).lib = s.lib ∧ (returnHeldPages age s).req.queue = s.req.queue
      ∧ (returnHeldPages age s).req.nextAge = s.req.nextAge ∧ (returnHeldPages age s).inflow = s.inflow
      ∧ (returnHeldPages age s).pool.bytes = s.pool.bytes ∧ (returnHeldPages age s).adm = s.adm
      ∧ (returnHeldPages age s).lanes = s.lanes ∧ (returnHeldPages age s).scan = s.scan
      ∧ (returnHeldPages age s).copier = s.copier ∧ (returnHeldPages age s).rails = s.rails
      ∧ (returnHeldPages age s).temp = s.temp ∧ (returnHeldPages age s).notices.masks = s.notices.masks
      ∧ (returnHeldPages age s).notices.priorities = s.notices.priorities
      ∧ (returnHeldPages age s).notices.attn = s.notices.attn ∧ (returnHeldPages age s).counters = s.counters
      ∧ (returnHeldPages age s).link = s.link ∧ (returnHeldPages age s).mem = s.mem
      ∧ (returnHeldPages age s).pending = s.pending := by
  unfold returnHeldPages
  (try dsimp only)
  and_intros <;> (repeat' split) <;> first | (simp; done) | rfl

@[simp] theorem endChunkWrite_keeps (c : Chunk) (s : State) :
    (endChunkWrite c s).settings = s.settings ∧ (endChunkWrite c s).px = s.px ∧ (endChunkWrite c s).lib = s.lib
      ∧ (endChunkWrite c s).req.queue = s.req.queue ∧ (endChunkWrite c s).req.nextAge = s.req.nextAge
      ∧ (endChunkWrite c s).adm.passRunning = s.adm.passRunning ∧ (endChunkWrite c s).adm.passCut = s.adm.passCut
      ∧ (endChunkWrite c s).adm.holdReported = s.adm.holdReported ∧ (endChunkWrite c s).adm.walk = s.adm.walk
      ∧ (endChunkWrite c s).lanes = s.lanes ∧ (endChunkWrite c s).scan = s.scan
      ∧ (endChunkWrite c s).copier = s.copier ∧ (endChunkWrite c s).rails = s.rails
      ∧ (endChunkWrite c s).temp = s.temp ∧ (endChunkWrite c s).notices.masks = s.notices.masks
      ∧ (endChunkWrite c s).notices.priorities = s.notices.priorities
      ∧ (endChunkWrite c s).notices.attn = s.notices.attn ∧ (endChunkWrite c s).counters = s.counters
      ∧ (endChunkWrite c s).link = s.link ∧ (endChunkWrite c s).mem.calibrating = s.mem.calibrating
      ∧ (endChunkWrite c s).mem.debt = s.mem.debt ∧ (endChunkWrite c s).mem.lastLane = s.mem.lastLane
      ∧ (endChunkWrite c s).mem.epoch = s.mem.epoch ∧ (endChunkWrite c s).pending = s.pending := by
  unfold endChunkWrite
  (try dsimp only)
  and_intros <;> (repeat' split) <;> first | (simp; done) | rfl

@[simp] theorem armLatch_keeps (s : State) :
    (armLatch s).settings = s.settings ∧ (armLatch s).px = s.px ∧ (armLatch s).lib = s.lib
      ∧ (armLatch s).req = s.req ∧ (armLatch s).inflow.buffer = s.inflow.buffer
      ∧ (armLatch s).inflow.writing = s.inflow.writing ∧ (armLatch s).inflow.discard = s.inflow.discard
      ∧ (armLatch s).pool = s.pool ∧ (armLatch s).adm = s.adm ∧ (armLatch s).lanes = s.lanes
      ∧ (armLatch s).scan = s.scan ∧ (armLatch s).copier = s.copier ∧ (armLatch s).rails = s.rails
      ∧ (armLatch s).temp = s.temp ∧ (armLatch s).notices = s.notices ∧ (armLatch s).counters = s.counters
      ∧ (armLatch s).link = s.link ∧ (armLatch s).mem = s.mem ∧ (armLatch s).pending = s.pending := by
  unfold armLatch
  (try dsimp only)
  and_intros <;> (repeat' split) <;> first | (simp; done) | rfl

@[simp] theorem acceptPixels_keeps (f : PixelsFields) (r : Request) (s : State) :
    (acceptPixels f r s).settings = s.settings ∧ (acceptPixels f r s).px = s.px ∧ (acceptPixels f r s).lib = s.lib
      ∧ (acceptPixels f r s).req.queue = s.req.queue ∧ (acceptPixels f r s).req.line = s.req.line
      ∧ (acceptPixels f r s).req.nextAge = s.req.nextAge ∧ (acceptPixels f r s).pool = s.pool
      ∧ (acceptPixels f r s).adm = s.adm ∧ (acceptPixels f r s).lanes = s.lanes
      ∧ (acceptPixels f r s).scan = s.scan ∧ (acceptPixels f r s).copier = s.copier
      ∧ (acceptPixels f r s).rails = s.rails ∧ (acceptPixels f r s).temp = s.temp
      ∧ (acceptPixels f r s).notices.masks = s.notices.masks
      ∧ (acceptPixels f r s).notices.priorities = s.notices.priorities
      ∧ (acceptPixels f r s).notices.attn = s.notices.attn ∧ (acceptPixels f r s).notices.log = s.notices.log
      ∧ (acceptPixels f r s).counters = s.counters ∧ (acceptPixels f r s).link = s.link
      ∧ (acceptPixels f r s).mem.calibrating = s.mem.calibrating ∧ (acceptPixels f r s).mem.granted = s.mem.granted
      ∧ (acceptPixels f r s).mem.debt = s.mem.debt ∧ (acceptPixels f r s).mem.lastLane = s.mem.lastLane
      ∧ (acceptPixels f r s).mem.epoch = s.mem.epoch ∧ (acceptPixels f r s).pending = s.pending := by
  unfold acceptPixels
  (try dsimp only)
  and_intros <;> (repeat' split) <;> first | (simp; done) | rfl

@[simp] theorem countRefusal_keeps (s : State) :
    (countRefusal s).settings = s.settings ∧ (countRefusal s).px = s.px ∧ (countRefusal s).lib = s.lib
      ∧ (countRefusal s).req = s.req ∧ (countRefusal s).inflow = s.inflow ∧ (countRefusal s).pool = s.pool
      ∧ (countRefusal s).adm = s.adm ∧ (countRefusal s).lanes = s.lanes ∧ (countRefusal s).scan = s.scan
      ∧ (countRefusal s).copier = s.copier ∧ (countRefusal s).rails = s.rails ∧ (countRefusal s).temp = s.temp
      ∧ (countRefusal s).notices = s.notices ∧ (countRefusal s).counters.framesScanned = s.counters.framesScanned
      ∧ (countRefusal s).counters.lanesArmed = s.counters.lanesArmed
      ∧ (countRefusal s).counters.upgrades = s.counters.upgrades
      ∧ (countRefusal s).counters.ghostRefusals = s.counters.ghostRefusals
      ∧ (countRefusal s).counters.starvations = s.counters.starvations
      ∧ (countRefusal s).counters.aborts = s.counters.aborts
      ∧ (countRefusal s).counters.frameErrors = s.counters.frameErrors ∧ (countRefusal s).link = s.link
      ∧ (countRefusal s).mem = s.mem ∧ (countRefusal s).pending = s.pending := by
  and_intros <;> rfl

@[simp] theorem postCopy_keeps (tag : Nat) (a b : Rect) (c : PostChoice) (s : State) :
    (postCopy tag a b c s).settings = s.settings ∧ (postCopy tag a b c s).px = s.px
      ∧ (postCopy tag a b c s).lib = s.lib ∧ (postCopy tag a b c s).req.line = s.req.line
      ∧ (postCopy tag a b c s).inflow = s.inflow ∧ (postCopy tag a b c s).pool.bytes = s.pool.bytes
      ∧ (postCopy tag a b c s).adm.passRunning = s.adm.passRunning
      ∧ (postCopy tag a b c s).adm.passCut = s.adm.passCut ∧ (postCopy tag a b c s).adm.walk = s.adm.walk
      ∧ (postCopy tag a b c s).lanes = s.lanes ∧ (postCopy tag a b c s).scan = s.scan
      ∧ (postCopy tag a b c s).copier.overlays = s.copier.overlays ∧ (postCopy tag a b c s).rails = s.rails
      ∧ (postCopy tag a b c s).temp = s.temp ∧ (postCopy tag a b c s).notices.masks = s.notices.masks
      ∧ (postCopy tag a b c s).notices.priorities = s.notices.priorities
      ∧ (postCopy tag a b c s).notices.attn = s.notices.attn ∧ (postCopy tag a b c s).notices.log = s.notices.log
      ∧ (postCopy tag a b c s).counters = s.counters ∧ (postCopy tag a b c s).link = s.link
      ∧ (postCopy tag a b c s).mem.calibrating = s.mem.calibrating
      ∧ (postCopy tag a b c s).mem.granted = s.mem.granted ∧ (postCopy tag a b c s).mem.debt = s.mem.debt
      ∧ (postCopy tag a b c s).mem.lastLane = s.mem.lastLane ∧ (postCopy tag a b c s).mem.epoch = s.mem.epoch
      ∧ (postCopy tag a b c s).pending = s.pending := by
  unfold postCopy
  (try dsimp only)
  and_intros <;> (repeat' split) <;> first | (simp; done) | rfl

@[simp] theorem releaseOverlay_keeps (o : Overlay) (s : State) :
    (releaseOverlay o s).settings = s.settings ∧ (releaseOverlay o s).px = s.px ∧ (releaseOverlay o s).lib = s.lib
      ∧ (releaseOverlay o s).req = s.req ∧ (releaseOverlay o s).inflow = s.inflow
      ∧ (releaseOverlay o s).pool.bytes = s.pool.bytes ∧ (releaseOverlay o s).adm = s.adm
      ∧ (releaseOverlay o s).lanes = s.lanes ∧ (releaseOverlay o s).scan = s.scan
      ∧ (releaseOverlay o s).copier.overlays = s.copier.overlays ∧ (releaseOverlay o s).rails = s.rails
      ∧ (releaseOverlay o s).temp = s.temp ∧ (releaseOverlay o s).notices = s.notices
      ∧ (releaseOverlay o s).counters = s.counters ∧ (releaseOverlay o s).link = s.link
      ∧ (releaseOverlay o s).mem.calibrating = s.mem.calibrating ∧ (releaseOverlay o s).mem.debt = s.mem.debt
      ∧ (releaseOverlay o s).mem.lastLane = s.mem.lastLane ∧ (releaseOverlay o s).mem.epoch = s.mem.epoch
      ∧ (releaseOverlay o s).pending = s.pending := by
  unfold releaseOverlay
  (try dsimp only)
  and_intros <;> (repeat' split) <;> first | (simp; done) | rfl

@[simp] theorem discardBottom_keeps (s : State) :
    (discardBottom s).settings = s.settings ∧ (discardBottom s).px = s.px ∧ (discardBottom s).lib = s.lib
      ∧ (discardBottom s).req = s.req ∧ (discardBottom s).inflow = s.inflow
      ∧ (discardBottom s).pool.bytes = s.pool.bytes ∧ (discardBottom s).adm = s.adm
      ∧ (discardBottom s).lanes = s.lanes ∧ (discardBottom s).scan = s.scan ∧ (discardBottom s).rails = s.rails
      ∧ (discardBottom s).temp = s.temp ∧ (discardBottom s).notices.masks = s.notices.masks
      ∧ (discardBottom s).notices.priorities = s.notices.priorities
      ∧ (discardBottom s).notices.attn = s.notices.attn ∧ (discardBottom s).notices.log = s.notices.log
      ∧ (discardBottom s).counters = s.counters ∧ (discardBottom s).link = s.link
      ∧ (discardBottom s).mem.calibrating = s.mem.calibrating ∧ (discardBottom s).mem.debt = s.mem.debt
      ∧ (discardBottom s).mem.lastLane = s.mem.lastLane ∧ (discardBottom s).mem.epoch = s.mem.epoch
      ∧ (discardBottom s).pending = s.pending := by
  unfold discardBottom
  (try dsimp only)
  and_intros <;> (repeat' split) <;> first | (simp; done) | rfl

@[simp] theorem placeOverlay_keeps (o : Overlay) (s : State) :
    (placeOverlay o s).settings = s.settings ∧ (placeOverlay o s).px = s.px ∧ (placeOverlay o s).lib = s.lib
      ∧ (placeOverlay o s).req = s.req ∧ (placeOverlay o s).inflow = s.inflow ∧ (placeOverlay o s).pool = s.pool
      ∧ (placeOverlay o s).adm = s.adm ∧ (placeOverlay o s).lanes = s.lanes ∧ (placeOverlay o s).scan = s.scan
      ∧ (placeOverlay o s).copier.jobs = s.copier.jobs ∧ (placeOverlay o s).rails = s.rails
      ∧ (placeOverlay o s).temp = s.temp ∧ (placeOverlay o s).notices = s.notices
      ∧ (placeOverlay o s).counters = s.counters ∧ (placeOverlay o s).link = s.link
      ∧ (placeOverlay o s).mem = s.mem ∧ (placeOverlay o s).pending = s.pending := by
  and_intros <;> rfl

@[simp] theorem overlayPush_keeps (r : Rect) (s : State) :
    (overlayPush r s).settings = s.settings ∧ (overlayPush r s).px = s.px ∧ (overlayPush r s).lib = s.lib
      ∧ (overlayPush r s).req.table = s.req.table ∧ (overlayPush r s).req.queue = s.req.queue
      ∧ (overlayPush r s).req.line = s.req.line ∧ (overlayPush r s).inflow = s.inflow
      ∧ (overlayPush r s).pool.bytes = s.pool.bytes ∧ (overlayPush r s).adm = s.adm
      ∧ (overlayPush r s).lanes = s.lanes ∧ (overlayPush r s).scan = s.scan ∧ (overlayPush r s).rails = s.rails
      ∧ (overlayPush r s).temp = s.temp ∧ (overlayPush r s).notices.masks = s.notices.masks
      ∧ (overlayPush r s).notices.priorities = s.notices.priorities
      ∧ (overlayPush r s).notices.attn = s.notices.attn ∧ (overlayPush r s).notices.log = s.notices.log
      ∧ (overlayPush r s).counters = s.counters ∧ (overlayPush r s).link = s.link
      ∧ (overlayPush r s).mem.calibrating = s.mem.calibrating ∧ (overlayPush r s).mem.debt = s.mem.debt
      ∧ (overlayPush r s).mem.lastLane = s.mem.lastLane ∧ (overlayPush r s).mem.epoch = s.mem.epoch
      ∧ (overlayPush r s).pending = s.pending := by
  unfold overlayPush
  (try dsimp only)
  and_intros <;> (repeat' split) <;> first | (simp; done) | rfl

@[simp] theorem overlayPop_keeps (tag : Nat) (c : PostChoice) (o : Overlay) (s : State) :
    (overlayPop tag c o s).settings = s.settings ∧ (overlayPop tag c o s).px = s.px
      ∧ (overlayPop tag c o s).lib = s.lib ∧ (overlayPop tag c o s).req.line = s.req.line
      ∧ (overlayPop tag c o s).inflow = s.inflow ∧ (overlayPop tag c o s).pool = s.pool
      ∧ (overlayPop tag c o s).adm.passRunning = s.adm.passRunning
      ∧ (overlayPop tag c o s).adm.passCut = s.adm.passCut ∧ (overlayPop tag c o s).adm.walk = s.adm.walk
      ∧ (overlayPop tag c o s).lanes = s.lanes ∧ (overlayPop tag c o s).scan = s.scan
      ∧ (overlayPop tag c o s).copier.jobs = s.copier.jobs ∧ (overlayPop tag c o s).rails = s.rails
      ∧ (overlayPop tag c o s).temp = s.temp ∧ (overlayPop tag c o s).notices.masks = s.notices.masks
      ∧ (overlayPop tag c o s).notices.priorities = s.notices.priorities
      ∧ (overlayPop tag c o s).notices.attn = s.notices.attn ∧ (overlayPop tag c o s).notices.log = s.notices.log
      ∧ (overlayPop tag c o s).counters = s.counters ∧ (overlayPop tag c o s).link = s.link
      ∧ (overlayPop tag c o s).mem = s.mem ∧ (overlayPop tag c o s).pending = s.pending := by
  unfold overlayPop
  (try dsimp only)
  and_intros <;> (repeat' split) <;> first | (simp; done) | rfl

@[simp] theorem overlaySwap_keeps (tag : Nat) (c : PostChoice) (o : Overlay) (s : State) :
    (overlaySwap tag c o s).settings = s.settings ∧ (overlaySwap tag c o s).px = s.px
      ∧ (overlaySwap tag c o s).lib = s.lib ∧ (overlaySwap tag c o s).req.line = s.req.line
      ∧ (overlaySwap tag c o s).inflow = s.inflow ∧ (overlaySwap tag c o s).pool.bytes = s.pool.bytes
      ∧ (overlaySwap tag c o s).adm.passRunning = s.adm.passRunning
      ∧ (overlaySwap tag c o s).adm.passCut = s.adm.passCut ∧ (overlaySwap tag c o s).adm.walk = s.adm.walk
      ∧ (overlaySwap tag c o s).lanes = s.lanes ∧ (overlaySwap tag c o s).scan = s.scan
      ∧ (overlaySwap tag c o s).rails = s.rails ∧ (overlaySwap tag c o s).temp = s.temp
      ∧ (overlaySwap tag c o s).notices.masks = s.notices.masks
      ∧ (overlaySwap tag c o s).notices.priorities = s.notices.priorities
      ∧ (overlaySwap tag c o s).notices.attn = s.notices.attn ∧ (overlaySwap tag c o s).notices.log = s.notices.log
      ∧ (overlaySwap tag c o s).counters = s.counters ∧ (overlaySwap tag c o s).link = s.link
      ∧ (overlaySwap tag c o s).mem.calibrating = s.mem.calibrating
      ∧ (overlaySwap tag c o s).mem.granted = s.mem.granted ∧ (overlaySwap tag c o s).mem.debt = s.mem.debt
      ∧ (overlaySwap tag c o s).mem.lastLane = s.mem.lastLane ∧ (overlaySwap tag c o s).mem.epoch = s.mem.epoch
      ∧ (overlaySwap tag c o s).pending = s.pending := by
  unfold overlaySwap
  (try dsimp only)
  and_intros <;> (repeat' split) <;> first | (simp; done) | rfl

@[simp] theorem copyPixels_keeps (j : Job) (k i : Nat) (half : Option Level) (s : State) :
    ((copyPixels j k i half s).2).settings = s.settings ∧ ((copyPixels j k i half s).2).px = s.px
      ∧ ((copyPixels j k i half s).2).lib = s.lib ∧ ((copyPixels j k i half s).2).req = s.req
      ∧ ((copyPixels j k i half s).2).inflow = s.inflow ∧ ((copyPixels j k i half s).2).pool.free = s.pool.free
      ∧ ((copyPixels j k i half s).2).adm = s.adm ∧ ((copyPixels j k i half s).2).lanes = s.lanes
      ∧ ((copyPixels j k i half s).2).scan = s.scan ∧ ((copyPixels j k i half s).2).copier = s.copier
      ∧ ((copyPixels j k i half s).2).rails = s.rails ∧ ((copyPixels j k i half s).2).temp = s.temp
      ∧ ((copyPixels j k i half s).2).notices = s.notices ∧ ((copyPixels j k i half s).2).counters = s.counters
      ∧ ((copyPixels j k i half s).2).link = s.link ∧ ((copyPixels j k i half s).2).mem = s.mem
      ∧ ((copyPixels j k i half s).2).pending = s.pending := by
  induction k generalizing i half s with
  | zero => simp [copyPixels]
  | succ k ih => unfold copyPixels; dsimp only; split <;> simp [ih]

@[simp] theorem advanceCopy_keeps (k : Nat) (s : State) :
    (advanceCopy k s).settings = s.settings ∧ (advanceCopy k s).px = s.px ∧ (advanceCopy k s).lib = s.lib
      ∧ (advanceCopy k s).req = s.req ∧ (advanceCopy k s).inflow = s.inflow
      ∧ (advanceCopy k s).pool.free = s.pool.free ∧ (advanceCopy k s).adm = s.adm
      ∧ (advanceCopy k s).lanes = s.lanes ∧ (advanceCopy k s).scan = s.scan
      ∧ (advanceCopy k s).copier.overlays = s.copier.overlays ∧ (advanceCopy k s).rails = s.rails
      ∧ (advanceCopy k s).temp = s.temp ∧ (advanceCopy k s).notices = s.notices
      ∧ (advanceCopy k s).counters = s.counters ∧ (advanceCopy k s).link = s.link ∧ (advanceCopy k s).mem = s.mem
      ∧ (advanceCopy k s).pending = s.pending := by
  unfold advanceCopy
  (try dsimp only)
  and_intros <;> (repeat' split) <;> first | (simp; done) | rfl

@[simp] theorem handSnapshot_keeps (j : Job) (s : State) :
    (handSnapshot j s).settings = s.settings ∧ (handSnapshot j s).px = s.px ∧ (handSnapshot j s).lib = s.lib
      ∧ (handSnapshot j s).req.queue = s.req.queue ∧ (handSnapshot j s).req.line = s.req.line
      ∧ (handSnapshot j s).req.nextAge = s.req.nextAge ∧ (handSnapshot j s).inflow = s.inflow
      ∧ (handSnapshot j s).pool.bytes = s.pool.bytes ∧ (handSnapshot j s).adm.passRunning = s.adm.passRunning
      ∧ (handSnapshot j s).adm.passCut = s.adm.passCut ∧ (handSnapshot j s).adm.holdReported = s.adm.holdReported
      ∧ (handSnapshot j s).adm.walk = s.adm.walk ∧ (handSnapshot j s).lanes = s.lanes
      ∧ (handSnapshot j s).scan = s.scan ∧ (handSnapshot j s).copier.jobs = s.copier.jobs
      ∧ (handSnapshot j s).rails = s.rails ∧ (handSnapshot j s).temp = s.temp
      ∧ (handSnapshot j s).notices = s.notices ∧ (handSnapshot j s).counters = s.counters
      ∧ (handSnapshot j s).link = s.link ∧ (handSnapshot j s).mem = s.mem ∧ (handSnapshot j s).pending = s.pending := by
  unfold handSnapshot
  (try dsimp only)
  and_intros <;> (repeat' split) <;> first | (simp; done) | rfl

@[simp] theorem endSnapshot_keeps (j : Job) (s : State) :
    (endSnapshot j s).settings = s.settings ∧ (endSnapshot j s).px = s.px ∧ (endSnapshot j s).lib = s.lib
      ∧ (endSnapshot j s).req.queue = s.req.queue ∧ (endSnapshot j s).req.line = s.req.line
      ∧ (endSnapshot j s).req.nextAge = s.req.nextAge ∧ (endSnapshot j s).inflow = s.inflow
      ∧ (endSnapshot j s).adm.passRunning = s.adm.passRunning ∧ (endSnapshot j s).adm.passCut = s.adm.passCut
      ∧ (endSnapshot j s).adm.holdReported = s.adm.holdReported ∧ (endSnapshot j s).adm.walk = s.adm.walk
      ∧ (endSnapshot j s).lanes = s.lanes ∧ (endSnapshot j s).scan = s.scan ∧ (endSnapshot j s).rails = s.rails
      ∧ (endSnapshot j s).temp = s.temp ∧ (endSnapshot j s).notices = s.notices
      ∧ (endSnapshot j s).counters = s.counters ∧ (endSnapshot j s).link = s.link
      ∧ (endSnapshot j s).mem.calibrating = s.mem.calibrating ∧ (endSnapshot j s).mem.debt = s.mem.debt
      ∧ (endSnapshot j s).mem.lastLane = s.mem.lastLane ∧ (endSnapshot j s).mem.epoch = s.mem.epoch
      ∧ (endSnapshot j s).pending = s.pending := by
  unfold endSnapshot
  (try dsimp only)
  and_intros <;> (repeat' split) <;> first | (simp; done) | rfl

@[simp] theorem advanceScan_keeps (k : Nat) (s : State) :
    (advanceScan k s).settings = s.settings ∧ (advanceScan k s).px = s.px ∧ (advanceScan k s).lib = s.lib
      ∧ (advanceScan k s).req = s.req ∧ (advanceScan k s).inflow = s.inflow ∧ (advanceScan k s).pool = s.pool
      ∧ (advanceScan k s).adm = s.adm ∧ (advanceScan k s).lanes = s.lanes
      ∧ (advanceScan k s).scan.timer = s.scan.timer ∧ (advanceScan k s).scan.freeze = s.scan.freeze
      ∧ (advanceScan k s).copier = s.copier ∧ (advanceScan k s).rails = s.rails ∧ (advanceScan k s).temp = s.temp
      ∧ (advanceScan k s).notices = s.notices ∧ (advanceScan k s).counters = s.counters
      ∧ (advanceScan k s).link = s.link ∧ (advanceScan k s).mem = s.mem ∧ (advanceScan k s).pending = s.pending := by
  unfold advanceScan
  (try dsimp only)
  and_intros <;> (repeat' split) <;> first | (simp; done) | rfl

@[simp] theorem activateArmed_keeps (s : State) :
    (activateArmed s).settings = s.settings ∧ (activateArmed s).px = s.px ∧ (activateArmed s).lib = s.lib
      ∧ (activateArmed s).req = s.req ∧ (activateArmed s).inflow = s.inflow ∧ (activateArmed s).pool = s.pool
      ∧ (activateArmed s).adm = s.adm ∧ (activateArmed s).scan = s.scan ∧ (activateArmed s).copier = s.copier
      ∧ (activateArmed s).rails = s.rails ∧ (activateArmed s).temp = s.temp ∧ (activateArmed s).notices = s.notices
      ∧ (activateArmed s).counters = s.counters ∧ (activateArmed s).link = s.link ∧ (activateArmed s).mem = s.mem
      ∧ (activateArmed s).pending = s.pending := by
  and_intros <;> rfl

@[simp] theorem startFrame_keeps (s : State) :
    (startFrame s).settings = s.settings ∧ (startFrame s).px = s.px ∧ (startFrame s).lib = s.lib
      ∧ (startFrame s).req = s.req ∧ (startFrame s).inflow = s.inflow ∧ (startFrame s).pool = s.pool
      ∧ (startFrame s).adm = s.adm ∧ (startFrame s).scan.freeze = s.scan.freeze
      ∧ (startFrame s).scan.port = s.scan.port ∧ (startFrame s).copier = s.copier ∧ (startFrame s).rails = s.rails
      ∧ (startFrame s).temp = s.temp ∧ (startFrame s).notices = s.notices ∧ (startFrame s).counters = s.counters
      ∧ (startFrame s).link = s.link ∧ (startFrame s).mem.calibrating = s.mem.calibrating
      ∧ (startFrame s).mem.granted = s.mem.granted ∧ (startFrame s).mem.debt = s.mem.debt
      ∧ (startFrame s).mem.lastLane = s.mem.lastLane ∧ (startFrame s).mem.epoch = s.mem.epoch
      ∧ (startFrame s).pending = s.pending := by
  unfold startFrame
  (try dsimp only)
  and_intros <;> (repeat' split) <;> first | (simp; done) | rfl

@[simp] theorem starveLane_keeps (l : LaneId) (ln : Lane) (s : State) :
    (starveLane l ln s).settings = s.settings ∧ (starveLane l ln s).px = s.px ∧ (starveLane l ln s).lib = s.lib
      ∧ (starveLane l ln s).req.line = s.req.line ∧ (starveLane l ln s).req.nextAge = s.req.nextAge
      ∧ (starveLane l ln s).inflow = s.inflow ∧ (starveLane l ln s).pool = s.pool
      ∧ (starveLane l ln s).adm.passRunning = s.adm.passRunning ∧ (starveLane l ln s).adm.passCut = s.adm.passCut
      ∧ (starveLane l ln s).adm.holdReported = s.adm.holdReported ∧ (starveLane l ln s).adm.walk = s.adm.walk
      ∧ (starveLane l ln s).scan = s.scan ∧ (starveLane l ln s).copier = s.copier
      ∧ (starveLane l ln s).rails = s.rails ∧ (starveLane l ln s).temp = s.temp
      ∧ (starveLane l ln s).notices.masks = s.notices.masks
      ∧ (starveLane l ln s).notices.priorities = s.notices.priorities
      ∧ (starveLane l ln s).notices.attn = s.notices.attn ∧ (starveLane l ln s).notices.log = s.notices.log
      ∧ (starveLane l ln s).counters.framesScanned = s.counters.framesScanned
      ∧ (starveLane l ln s).counters.lanesArmed = s.counters.lanesArmed
      ∧ (starveLane l ln s).counters.upgrades = s.counters.upgrades
      ∧ (starveLane l ln s).counters.ghostRefusals = s.counters.ghostRefusals
      ∧ (starveLane l ln s).counters.frameErrors = s.counters.frameErrors
      ∧ (starveLane l ln s).counters.inflowRefusals = s.counters.inflowRefusals ∧ (starveLane l ln s).link = s.link
      ∧ (starveLane l ln s).mem.calibrating = s.mem.calibrating ∧ (starveLane l ln s).mem.granted = s.mem.granted
      ∧ (starveLane l ln s).mem.debt = s.mem.debt ∧ (starveLane l ln s).mem.lastLane = s.mem.lastLane
      ∧ (starveLane l ln s).mem.epoch = s.mem.epoch ∧ (starveLane l ln s).pending = s.pending := by
  unfold starveLane
  (try dsimp only)
  and_intros <;> (repeat' split) <;> first | (simp; done) | rfl

@[simp] theorem advanceLane_keeps (s : State) (l : LaneId) :
    (advanceLane s l).settings = s.settings ∧ (advanceLane s l).px = s.px ∧ (advanceLane s l).lib = s.lib
      ∧ (advanceLane s l).req.line = s.req.line ∧ (advanceLane s l).req.nextAge = s.req.nextAge
      ∧ (advanceLane s l).inflow = s.inflow ∧ (advanceLane s l).pool = s.pool
      ∧ (advanceLane s l).adm.passRunning = s.adm.passRunning ∧ (advanceLane s l).adm.passCut = s.adm.passCut
      ∧ (advanceLane s l).adm.holdReported = s.adm.holdReported ∧ (advanceLane s l).adm.walk = s.adm.walk
      ∧ (advanceLane s l).scan = s.scan ∧ (advanceLane s l).copier = s.copier ∧ (advanceLane s l).rails = s.rails
      ∧ (advanceLane s l).temp = s.temp ∧ (advanceLane s l).notices.masks = s.notices.masks
      ∧ (advanceLane s l).notices.priorities = s.notices.priorities
      ∧ (advanceLane s l).notices.attn = s.notices.attn ∧ (advanceLane s l).notices.log = s.notices.log
      ∧ (advanceLane s l).counters.framesScanned = s.counters.framesScanned
      ∧ (advanceLane s l).counters.lanesArmed = s.counters.lanesArmed
      ∧ (advanceLane s l).counters.upgrades = s.counters.upgrades
      ∧ (advanceLane s l).counters.ghostRefusals = s.counters.ghostRefusals
      ∧ (advanceLane s l).counters.frameErrors = s.counters.frameErrors
      ∧ (advanceLane s l).counters.inflowRefusals = s.counters.inflowRefusals ∧ (advanceLane s l).link = s.link
      ∧ (advanceLane s l).mem.calibrating = s.mem.calibrating ∧ (advanceLane s l).mem.granted = s.mem.granted
      ∧ (advanceLane s l).mem.debt = s.mem.debt ∧ (advanceLane s l).mem.lastLane = s.mem.lastLane
      ∧ (advanceLane s l).mem.epoch = s.mem.epoch ∧ (advanceLane s l).pending = s.pending := by
  unfold advanceLane
  (try dsimp only)
  and_intros <;> (repeat' split) <;> first | (simp; done) | rfl

@[simp] theorem advanceLanes_keeps (mark : FrameMark) (s : State) :
    (advanceLanes mark s).settings = s.settings ∧ (advanceLanes mark s).px = s.px
      ∧ (advanceLanes mark s).lib = s.lib ∧ (advanceLanes mark s).req.line = s.req.line
      ∧ (advanceLanes mark s).req.nextAge = s.req.nextAge ∧ (advanceLanes mark s).inflow = s.inflow
      ∧ (advanceLanes mark s).pool = s.pool ∧ (advanceLanes mark s).adm.passRunning = s.adm.passRunning
      ∧ (advanceLanes mark s).adm.passCut = s.adm.passCut
      ∧ (advanceLanes mark s).adm.holdReported = s.adm.holdReported ∧ (advanceLanes mark s).adm.walk = s.adm.walk
      ∧ (advanceLanes mark s).scan = s.scan ∧ (advanceLanes mark s).copier = s.copier
      ∧ (advanceLanes mark s).rails = s.rails ∧ (advanceLanes mark s).temp = s.temp
      ∧ (advanceLanes mark s).notices.masks = s.notices.masks
      ∧ (advanceLanes mark s).notices.priorities = s.notices.priorities
      ∧ (advanceLanes mark s).notices.attn = s.notices.attn ∧ (advanceLanes mark s).notices.log = s.notices.log
      ∧ (advanceLanes mark s).counters.framesScanned = s.counters.framesScanned
      ∧ (advanceLanes mark s).counters.lanesArmed = s.counters.lanesArmed
      ∧ (advanceLanes mark s).counters.upgrades = s.counters.upgrades
      ∧ (advanceLanes mark s).counters.ghostRefusals = s.counters.ghostRefusals
      ∧ (advanceLanes mark s).counters.frameErrors = s.counters.frameErrors
      ∧ (advanceLanes mark s).counters.inflowRefusals = s.counters.inflowRefusals
      ∧ (advanceLanes mark s).link = s.link ∧ (advanceLanes mark s).mem.calibrating = s.mem.calibrating
      ∧ (advanceLanes mark s).mem.granted = s.mem.granted ∧ (advanceLanes mark s).mem.debt = s.mem.debt
      ∧ (advanceLanes mark s).mem.lastLane = s.mem.lastLane ∧ (advanceLanes mark s).mem.epoch = s.mem.epoch
      ∧ (advanceLanes mark s).pending = s.pending := by
  unfold advanceLanes
  generalize allLanes = l
  cases mark with
  | frozen => simp
  | driven =>
    induction l generalizing s with
    | nil => simp
    | cons a l ih => simpa using ih (advanceLane s a)

@[simp] theorem endFrame_keeps (s : State) :
    (endFrame s).settings = s.settings ∧ (endFrame s).px = s.px ∧ (endFrame s).lib = s.lib
      ∧ (endFrame s).req = s.req ∧ (endFrame s).inflow = s.inflow ∧ (endFrame s).pool = s.pool
      ∧ (endFrame s).adm = s.adm ∧ (endFrame s).lanes = s.lanes ∧ (endFrame s).scan.timer = s.scan.timer
      ∧ (endFrame s).scan.freeze = s.scan.freeze ∧ (endFrame s).copier = s.copier ∧ (endFrame s).rails = s.rails
      ∧ (endFrame s).temp = s.temp ∧ (endFrame s).notices = s.notices
      ∧ (endFrame s).counters.lanesArmed = s.counters.lanesArmed
      ∧ (endFrame s).counters.upgrades = s.counters.upgrades
      ∧ (endFrame s).counters.ghostRefusals = s.counters.ghostRefusals
      ∧ (endFrame s).counters.starvations = s.counters.starvations
      ∧ (endFrame s).counters.aborts = s.counters.aborts
      ∧ (endFrame s).counters.frameErrors = s.counters.frameErrors
      ∧ (endFrame s).counters.inflowRefusals = s.counters.inflowRefusals ∧ (endFrame s).link = s.link
      ∧ (endFrame s).mem.calibrating = s.mem.calibrating ∧ (endFrame s).mem.debt = s.mem.debt
      ∧ (endFrame s).mem.lastLane = s.mem.lastLane ∧ (endFrame s).mem.epoch = s.mem.epoch
      ∧ (endFrame s).pending = s.pending := by
  unfold endFrame
  (try dsimp only)
  and_intros <;> (repeat' split) <;> first | (simp; done) | rfl

@[simp] theorem completeFrame_keeps (f : Frame) (s : State) :
    (completeFrame f s).settings = s.settings ∧ (completeFrame f s).px = s.px ∧ (completeFrame f s).lib = s.lib
      ∧ (completeFrame f s).req.line = s.req.line ∧ (completeFrame f s).req.nextAge = s.req.nextAge
      ∧ (completeFrame f s).inflow = s.inflow ∧ (completeFrame f s).pool = s.pool
      ∧ (completeFrame f s).adm.passRunning = s.adm.passRunning ∧ (completeFrame f s).adm.passCut = s.adm.passCut
      ∧ (completeFrame f s).adm.holdReported = s.adm.holdReported ∧ (completeFrame f s).adm.walk = s.adm.walk
      ∧ (completeFrame f s).scan.timer = s.scan.timer ∧ (completeFrame f s).scan.freeze = s.scan.freeze
      ∧ (completeFrame f s).copier.overlays = s.copier.overlays ∧ (completeFrame f s).rails = s.rails
      ∧ (completeFrame f s).temp = s.temp ∧ (completeFrame f s).notices.masks = s.notices.masks
      ∧ (completeFrame f s).notices.priorities = s.notices.priorities
      ∧ (completeFrame f s).notices.attn = s.notices.attn ∧ (completeFrame f s).notices.log = s.notices.log
      ∧ (completeFrame f s).counters.lanesArmed = s.counters.lanesArmed
      ∧ (completeFrame f s).counters.upgrades = s.counters.upgrades
      ∧ (completeFrame f s).counters.ghostRefusals = s.counters.ghostRefusals
      ∧ (completeFrame f s).counters.frameErrors = s.counters.frameErrors
      ∧ (completeFrame f s).counters.inflowRefusals = s.counters.inflowRefusals ∧ (completeFrame f s).link = s.link
      ∧ (completeFrame f s).mem.calibrating = s.mem.calibrating ∧ (completeFrame f s).mem.debt = s.mem.debt
      ∧ (completeFrame f s).mem.lastLane = s.mem.lastLane ∧ (completeFrame f s).mem.epoch = s.mem.epoch
      ∧ (completeFrame f s).pending = s.pending := by
  unfold completeFrame
  (try dsimp only)
  and_intros <;> (repeat' split) <;> first | (simp; done) | rfl

@[simp] theorem advanceRetire_keeps (l : LaneId) (k : Nat) (s : State) :
    (advanceRetire l k s).settings = s.settings ∧ (advanceRetire l k s).px.geometry = s.px.geometry
      ∧ (advanceRetire l k s).px.tiles = s.px.tiles ∧ (advanceRetire l k s).px.walk = s.px.walk
      ∧ (advanceRetire l k s).lib = s.lib ∧ (advanceRetire l k s).req = s.req
      ∧ (advanceRetire l k s).inflow = s.inflow ∧ (advanceRetire l k s).pool = s.pool
      ∧ (advanceRetire l k s).adm = s.adm ∧ (advanceRetire l k s).scan = s.scan
      ∧ (advanceRetire l k s).copier = s.copier ∧ (advanceRetire l k s).rails = s.rails
      ∧ (advanceRetire l k s).temp = s.temp ∧ (advanceRetire l k s).notices = s.notices
      ∧ (advanceRetire l k s).counters = s.counters ∧ (advanceRetire l k s).link = s.link
      ∧ (advanceRetire l k s).mem = s.mem ∧ (advanceRetire l k s).pending = s.pending := by
  unfold advanceRetire
  (try dsimp only)
  and_intros <;> (repeat' split) <;> first | (simp; done) | rfl

@[simp] theorem reportPart_keeps (ln : Lane) (kind : WalkKind) (s : State) :
    (reportPart ln kind s).settings = s.settings ∧ (reportPart ln kind s).px = s.px
      ∧ (reportPart ln kind s).lib = s.lib ∧ (reportPart ln kind s).req.queue = s.req.queue
      ∧ (reportPart ln kind s).req.nextAge = s.req.nextAge ∧ (reportPart ln kind s).inflow = s.inflow
      ∧ (reportPart ln kind s).pool.bytes = s.pool.bytes ∧ (reportPart ln kind s).adm = s.adm
      ∧ (reportPart ln kind s).lanes = s.lanes ∧ (reportPart ln kind s).scan = s.scan
      ∧ (reportPart ln kind s).copier.overlays = s.copier.overlays ∧ (reportPart ln kind s).rails = s.rails
      ∧ (reportPart ln kind s).temp = s.temp ∧ (reportPart ln kind s).notices.masks = s.notices.masks
      ∧ (reportPart ln kind s).notices.priorities = s.notices.priorities
      ∧ (reportPart ln kind s).notices.attn = s.notices.attn ∧ (reportPart ln kind s).counters = s.counters
      ∧ (reportPart ln kind s).link = s.link ∧ (reportPart ln kind s).mem.calibrating = s.mem.calibrating
      ∧ (reportPart ln kind s).mem.debt = s.mem.debt ∧ (reportPart ln kind s).mem.lastLane = s.mem.lastLane
      ∧ (reportPart ln kind s).mem.epoch = s.mem.epoch ∧ (reportPart ln kind s).pending = s.pending := by
  unfold reportPart
  (try dsimp only)
  and_intros <;> (repeat' split) <;> first | (simp; done) | rfl

@[simp] theorem freeTheLane_keeps (l : LaneId) (s : State) :
    (freeTheLane l s).settings = s.settings ∧ (freeTheLane l s).px.geometry = s.px.geometry
      ∧ (freeTheLane l s).px.pixels = s.px.pixels ∧ (freeTheLane l s).px.walk = s.px.walk
      ∧ (freeTheLane l s).lib = s.lib ∧ (freeTheLane l s).req = s.req ∧ (freeTheLane l s).inflow = s.inflow
      ∧ (freeTheLane l s).pool = s.pool ∧ (freeTheLane l s).adm = s.adm ∧ (freeTheLane l s).scan = s.scan
      ∧ (freeTheLane l s).copier = s.copier ∧ (freeTheLane l s).rails = s.rails ∧ (freeTheLane l s).temp = s.temp
      ∧ (freeTheLane l s).notices = s.notices ∧ (freeTheLane l s).counters = s.counters
      ∧ (freeTheLane l s).link = s.link ∧ (freeTheLane l s).mem.calibrating = s.mem.calibrating
      ∧ (freeTheLane l s).mem.debt = s.mem.debt ∧ (freeTheLane l s).mem.lastLane = s.mem.lastLane
      ∧ (freeTheLane l s).mem.epoch = s.mem.epoch ∧ (freeTheLane l s).pending = s.pending := by
  unfold freeTheLane
  (try dsimp only)
  and_intros <;> (repeat' split) <;> first | (simp; done) | rfl

@[simp] theorem endRetirement_keeps (l : LaneId) (ln : Lane) (kind : WalkKind) (s : State) :
    (endRetirement l ln kind s).settings = s.settings ∧ (endRetirement l ln kind s).px.geometry = s.px.geometry
      ∧ (endRetirement l ln kind s).px.walk = s.px.walk ∧ (endRetirement l ln kind s).lib = s.lib
      ∧ (endRetirement l ln kind s).req.queue = s.req.queue
      ∧ (endRetirement l ln kind s).req.nextAge = s.req.nextAge ∧ (endRetirement l ln kind s).inflow = s.inflow
      ∧ (endRetirement l ln kind s).pool.bytes = s.pool.bytes
      ∧ (endRetirement l ln kind s).adm.passRunning = s.adm.passRunning
      ∧ (endRetirement l ln kind s).adm.passCut = s.adm.passCut
      ∧ (endRetirement l ln kind s).adm.holdReported = s.adm.holdReported
      ∧ (endRetirement l ln kind s).adm.walk = s.adm.walk ∧ (endRetirement l ln kind s).scan = s.scan
      ∧ (endRetirement l ln kind s).copier.overlays = s.copier.overlays
      ∧ (endRetirement l ln kind s).rails = s.rails ∧ (endRetirement l ln kind s).temp = s.temp
      ∧ (endRetirement l ln kind s).notices.masks = s.notices.masks
      ∧ (endRetirement l ln kind s).notices.priorities = s.notices.priorities
      ∧ (endRetirement l ln kind s).notices.attn = s.notices.attn
      ∧ (endRetirement l ln kind s).counters = s.counters ∧ (endRetirement l ln kind s).link = s.link
      ∧ (endRetirement l ln kind s).mem.calibrating = s.mem.calibrating
      ∧ (endRetirement l ln kind s).mem.debt = s.mem.debt
      ∧ (endRetirement l ln kind s).mem.lastLane = s.mem.lastLane
      ∧ (endRetirement l ln kind s).mem.epoch = s.mem.epoch ∧ (endRetirement l ln kind s).pending = s.pending := by
  unfold endRetirement
  (try dsimp only)
  and_intros <;> (repeat' split) <;> first | (simp; done) | rfl

@[simp] theorem dropWalk_keeps (s : State) :
    (dropWalk s).settings = s.settings ∧ (dropWalk s).px = s.px ∧ (dropWalk s).lib = s.lib
      ∧ (dropWalk s).req = s.req ∧ (dropWalk s).inflow = s.inflow ∧ (dropWalk s).pool = s.pool
      ∧ (dropWalk s).adm.passRunning = s.adm.passRunning ∧ (dropWalk s).adm.passWanted = s.adm.passWanted
      ∧ (dropWalk s).adm.passCut = s.adm.passCut ∧ (dropWalk s).adm.holdReported = s.adm.holdReported
      ∧ (dropWalk s).lanes = s.lanes ∧ (dropWalk s).scan = s.scan ∧ (dropWalk s).copier = s.copier
      ∧ (dropWalk s).rails = s.rails ∧ (dropWalk s).temp = s.temp ∧ (dropWalk s).notices = s.notices
      ∧ (dropWalk s).counters = s.counters ∧ (dropWalk s).link = s.link
      ∧ (dropWalk s).mem.calibrating = s.mem.calibrating ∧ (dropWalk s).mem.debt = s.mem.debt
      ∧ (dropWalk s).mem.lastLane = s.mem.lastLane ∧ (dropWalk s).mem.epoch = s.mem.epoch
      ∧ (dropWalk s).pending = s.pending := by
  unfold dropWalk
  (try dsimp only)
  and_intros <;> (repeat' split) <;> first | (simp; done) | rfl

@[simp] theorem settleWalk_keeps (before : State) (age : Nat) (s : State) :
    (settleWalk before age s).settings = s.settings ∧ (settleWalk before age s).px = s.px
      ∧ (settleWalk before age s).lib = s.lib ∧ (settleWalk before age s).req.nextAge = s.req.nextAge
      ∧ (settleWalk before age s).inflow = s.inflow ∧ (settleWalk before age s).pool.bytes = s.pool.bytes
      ∧ (settleWalk before age s).adm.passRunning = s.adm.passRunning
      ∧ (settleWalk before age s).adm.passCut = s.adm.passCut
      ∧ (settleWalk before age s).adm.holdReported = s.adm.holdReported
      ∧ (settleWalk before age s).adm.walk = s.adm.walk ∧ (settleWalk before age s).scan.freeze = s.scan.freeze
      ∧ (settleWalk before age s).scan.frame = s.scan.frame ∧ (settleWalk before age s).scan.port = s.scan.port
      ∧ (settleWalk before age s).scan.output = s.scan.output
      ∧ (settleWalk before age s).copier.overlays = s.copier.overlays
      ∧ (settleWalk before age s).rails.accepted = s.rails.accepted
      ∧ (settleWalk before age s).rails.lastSample = s.rails.lastSample ∧ (settleWalk before age s).temp = s.temp
      ∧ (settleWalk before age s).notices.masks = s.notices.masks
      ∧ (settleWalk before age s).notices.priorities = s.notices.priorities
      ∧ (settleWalk before age s).notices.attn = s.notices.attn
      ∧ (settleWalk before age s).counters.framesScanned = s.counters.framesScanned
      ∧ (settleWalk before age s).counters.lanesArmed = s.counters.lanesArmed
      ∧ (settleWalk before age s).counters.upgrades = s.counters.upgrades
      ∧ (settleWalk before age s).counters.ghostRefusals = s.counters.ghostRefusals
      ∧ (settleWalk before age s).counters.starvations = s.counters.starvations
      ∧ (settleWalk before age s).counters.frameErrors = s.counters.frameErrors
      ∧ (settleWalk before age s).counters.inflowRefusals = s.counters.inflowRefusals
      ∧ (settleWalk before age s).link = s.link ∧ (settleWalk before age s).mem.calibrating = s.mem.calibrating
      ∧ (settleWalk before age s).mem.debt = s.mem.debt ∧ (settleWalk before age s).mem.lastLane = s.mem.lastLane
      ∧ (settleWalk before age s).mem.epoch = s.mem.epoch ∧ (settleWalk before age s).pending = s.pending := by
  unfold settleWalk
  (try dsimp only)
  and_intros <;> (repeat' split) <;> first | (simp; done) | rfl

@[simp] theorem endAdmission_keeps (w : AdmissionWalk) (r : Request) (e : QueueEntry) (s : State) :
    (endAdmission w r e s).settings = s.settings ∧ (endAdmission w r e s).px.geometry = s.px.geometry
      ∧ (endAdmission w r e s).px.walk = s.px.walk ∧ (endAdmission w r e s).lib = s.lib
      ∧ (endAdmission w r e s).req.nextAge = s.req.nextAge ∧ (endAdmission w r e s).inflow = s.inflow
      ∧ (endAdmission w r e s).pool.bytes = s.pool.bytes
      ∧ (endAdmission w r e s).adm.holdReported = s.adm.holdReported
      ∧ (endAdmission w r e s).scan.freeze = s.scan.freeze ∧ (endAdmission w r e s).scan.frame = s.scan.frame
      ∧ (endAdmission w r e s).scan.port = s.scan.port
      ∧ (endAdmission w r e s).scan.output = s.scan.output ∧ (endAdmission w r e s).copier.overlays = s.copier.overlays
      ∧ (endAdmission w r e s).rails.accepted = s.rails.accepted
      ∧ (endAdmission w r e s).rails.lastSample = s.rails.lastSample ∧ (endAdmission w r e s).temp = s.temp
      ∧ (endAdmission w r e s).notices.masks = s.notices.masks
      ∧ (endAdmission w r e s).notices.priorities = s.notices.priorities
      ∧ (endAdmission w r e s).notices.attn = s.notices.attn
      ∧ (endAdmission w r e s).counters.framesScanned = s.counters.framesScanned
      ∧ (endAdmission w r e s).counters.starvations = s.counters.starvations
      ∧ (endAdmission w r e s).counters.frameErrors = s.counters.frameErrors
      ∧ (endAdmission w r e s).counters.inflowRefusals = s.counters.inflowRefusals
      ∧ (endAdmission w r e s).link = s.link ∧ (endAdmission w r e s).mem.calibrating = s.mem.calibrating
      ∧ (endAdmission w r e s).mem.debt = s.mem.debt ∧ (endAdmission w r e s).mem.lastLane = s.mem.lastLane
      ∧ (endAdmission w r e s).mem.epoch = s.mem.epoch ∧ (endAdmission w r e s).pending = s.pending := by
  unfold endAdmission
  (try dsimp only)
  and_intros <;> (repeat' split) <;> first | (simp; done) | rfl

@[simp] theorem endWalk_keeps (w : AdmissionWalk) (s : State) :
    (endWalk w s).settings = s.settings ∧ (endWalk w s).px.geometry = s.px.geometry
      ∧ (endWalk w s).px.walk = s.px.walk ∧ (endWalk w s).lib = s.lib ∧ (endWalk w s).req.nextAge = s.req.nextAge
      ∧ (endWalk w s).inflow = s.inflow ∧ (endWalk w s).pool.bytes = s.pool.bytes
      ∧ (endWalk w s).adm.holdReported = s.adm.holdReported ∧ (endWalk w s).scan.freeze = s.scan.freeze
      ∧ (endWalk w s).scan.frame = s.scan.frame ∧ (endWalk w s).scan.port = s.scan.port
      ∧ (endWalk w s).scan.output = s.scan.output
      ∧ (endWalk w s).copier.overlays = s.copier.overlays ∧ (endWalk w s).rails.accepted = s.rails.accepted
      ∧ (endWalk w s).rails.lastSample = s.rails.lastSample ∧ (endWalk w s).temp = s.temp
      ∧ (endWalk w s).notices.masks = s.notices.masks ∧ (endWalk w s).notices.priorities = s.notices.priorities
      ∧ (endWalk w s).notices.attn = s.notices.attn
      ∧ (endWalk w s).counters.framesScanned = s.counters.framesScanned
      ∧ (endWalk w s).counters.starvations = s.counters.starvations
      ∧ (endWalk w s).counters.frameErrors = s.counters.frameErrors
      ∧ (endWalk w s).counters.inflowRefusals = s.counters.inflowRefusals ∧ (endWalk w s).link = s.link
      ∧ (endWalk w s).mem.calibrating = s.mem.calibrating ∧ (endWalk w s).mem.debt = s.mem.debt
      ∧ (endWalk w s).mem.lastLane = s.mem.lastLane ∧ (endWalk w s).mem.epoch = s.mem.epoch
      ∧ (endWalk w s).pending = s.pending := by
  unfold endWalk
  (try dsimp only)
  and_intros <;> (repeat' split) <;> first | (simp; done) | rfl

@[simp] theorem startAssume_keeps (r : Rect) (level : Level) (s : State) :
    (startAssume r level s).settings = s.settings ∧ (startAssume r level s).px.geometry = s.px.geometry
      ∧ (startAssume r level s).px.pixels = s.px.pixels ∧ (startAssume r level s).px.tiles = s.px.tiles
      ∧ (startAssume r level s).lib = s.lib ∧ (startAssume r level s).req = s.req
      ∧ (startAssume r level s).inflow = s.inflow ∧ (startAssume r level s).pool = s.pool
      ∧ (startAssume r level s).adm = s.adm ∧ (startAssume r level s).lanes = s.lanes
      ∧ (startAssume r level s).scan = s.scan ∧ (startAssume r level s).copier = s.copier
      ∧ (startAssume r level s).rails = s.rails ∧ (startAssume r level s).temp = s.temp
      ∧ (startAssume r level s).notices = s.notices ∧ (startAssume r level s).counters = s.counters
      ∧ (startAssume r level s).link = s.link ∧ (startAssume r level s).mem.calibrating = s.mem.calibrating
      ∧ (startAssume r level s).mem.granted = s.mem.granted ∧ (startAssume r level s).mem.debt = s.mem.debt
      ∧ (startAssume r level s).mem.lastLane = s.mem.lastLane ∧ (startAssume r level s).mem.epoch = s.mem.epoch
      ∧ (startAssume r level s).pending = s.pending := by
  unfold startAssume
  (try dsimp only)
  and_intros <;> (repeat' split) <;> first | (simp; done) | rfl

@[simp] theorem assumePixels_keeps (r : Rect) (level : Level) (done k : Nat) (s : State) :
    (assumePixels r level done k s).settings = s.settings
      ∧ (assumePixels r level done k s).px.geometry = s.px.geometry
      ∧ (assumePixels r level done k s).px.tiles = s.px.tiles ∧ (assumePixels r level done k s).px.walk = s.px.walk
      ∧ (assumePixels r level done k s).lib = s.lib ∧ (assumePixels r level done k s).req = s.req
      ∧ (assumePixels r level done k s).inflow = s.inflow ∧ (assumePixels r level done k s).pool = s.pool
      ∧ (assumePixels r level done k s).adm = s.adm ∧ (assumePixels r level done k s).lanes = s.lanes
      ∧ (assumePixels r level done k s).scan = s.scan ∧ (assumePixels r level done k s).copier = s.copier
      ∧ (assumePixels r level done k s).rails = s.rails ∧ (assumePixels r level done k s).temp = s.temp
      ∧ (assumePixels r level done k s).notices = s.notices ∧ (assumePixels r level done k s).counters = s.counters
      ∧ (assumePixels r level done k s).link = s.link ∧ (assumePixels r level done k s).mem = s.mem
      ∧ (assumePixels r level done k s).pending = s.pending := by
  unfold assumePixels
  generalize (List.range' done k) = l
  induction l generalizing s with
  | nil => simp
  | cons a l ih => simp [ih]

@[simp] theorem advancePixelWalk_keeps (k : Nat) (s : State) :
    (advancePixelWalk k s).settings = s.settings ∧ (advancePixelWalk k s).px.geometry = s.px.geometry
      ∧ (advancePixelWalk k s).px.tiles = s.px.tiles ∧ (advancePixelWalk k s).lib = s.lib
      ∧ (advancePixelWalk k s).req = s.req ∧ (advancePixelWalk k s).inflow = s.inflow
      ∧ (advancePixelWalk k s).pool = s.pool ∧ (advancePixelWalk k s).adm = s.adm
      ∧ (advancePixelWalk k s).lanes = s.lanes ∧ (advancePixelWalk k s).scan = s.scan
      ∧ (advancePixelWalk k s).copier = s.copier ∧ (advancePixelWalk k s).rails = s.rails
      ∧ (advancePixelWalk k s).temp = s.temp ∧ (advancePixelWalk k s).notices = s.notices
      ∧ (advancePixelWalk k s).counters = s.counters ∧ (advancePixelWalk k s).link = s.link
      ∧ (advancePixelWalk k s).mem = s.mem ∧ (advancePixelWalk k s).pending = s.pending := by
  unfold advancePixelWalk
  (try dsimp only)
  and_intros <;> (repeat' split) <;> first | (simp; done) | rfl

@[simp] theorem endPixelWalk_keeps (s : State) :
    (endPixelWalk s).settings = s.settings ∧ (endPixelWalk s).px.geometry = s.px.geometry
      ∧ (endPixelWalk s).px.pixels = s.px.pixels ∧ (endPixelWalk s).px.tiles = s.px.tiles
      ∧ (endPixelWalk s).lib = s.lib ∧ (endPixelWalk s).req = s.req ∧ (endPixelWalk s).inflow = s.inflow
      ∧ (endPixelWalk s).pool = s.pool ∧ (endPixelWalk s).adm = s.adm ∧ (endPixelWalk s).lanes = s.lanes
      ∧ (endPixelWalk s).scan = s.scan ∧ (endPixelWalk s).copier.overlays = s.copier.overlays
      ∧ (endPixelWalk s).rails = s.rails ∧ (endPixelWalk s).temp = s.temp ∧ (endPixelWalk s).notices = s.notices
      ∧ (endPixelWalk s).counters = s.counters ∧ (endPixelWalk s).link = s.link
      ∧ (endPixelWalk s).mem.calibrating = s.mem.calibrating ∧ (endPixelWalk s).mem.debt = s.mem.debt
      ∧ (endPixelWalk s).mem.lastLane = s.mem.lastLane ∧ (endPixelWalk s).mem.epoch = s.mem.epoch
      ∧ (endPixelWalk s).pending = s.pending := by
  unfold endPixelWalk
  (try dsimp only)
  and_intros <;> (repeat' split) <;> first | (simp; done) | rfl

@[simp] theorem endGrant_keeps (s : State) :
    (endGrant s).settings = s.settings ∧ (endGrant s).px = s.px ∧ (endGrant s).lib = s.lib
      ∧ (endGrant s).req = s.req ∧ (endGrant s).inflow = s.inflow ∧ (endGrant s).pool = s.pool
      ∧ (endGrant s).adm = s.adm ∧ (endGrant s).lanes = s.lanes ∧ (endGrant s).scan = s.scan
      ∧ (endGrant s).copier = s.copier ∧ (endGrant s).rails = s.rails ∧ (endGrant s).temp = s.temp
      ∧ (endGrant s).notices = s.notices ∧ (endGrant s).counters = s.counters ∧ (endGrant s).link = s.link
      ∧ (endGrant s).mem.calibrating = s.mem.calibrating ∧ (endGrant s).mem.waiting = s.mem.waiting
      ∧ (endGrant s).mem.debt = s.mem.debt ∧ (endGrant s).mem.lastLane = s.mem.lastLane
      ∧ (endGrant s).mem.epoch = s.mem.epoch ∧ (endGrant s).pending = s.pending := by
  and_intros <;> rfl

@[simp] theorem advanceAdmission_keeps (k : Nat) (s : State) :
    (advanceAdmission k s).settings = s.settings ∧ (advanceAdmission k s).px = s.px
      ∧ (advanceAdmission k s).lib = s.lib ∧ (advanceAdmission k s).req = s.req
      ∧ (advanceAdmission k s).inflow = s.inflow ∧ (advanceAdmission k s).pool = s.pool
      ∧ (advanceAdmission k s).adm.passRunning = s.adm.passRunning
      ∧ (advanceAdmission k s).adm.passWanted = s.adm.passWanted
      ∧ (advanceAdmission k s).adm.passCut = s.adm.passCut
      ∧ (advanceAdmission k s).adm.holdReported = s.adm.holdReported ∧ (advanceAdmission k s).lanes = s.lanes
      ∧ (advanceAdmission k s).scan = s.scan ∧ (advanceAdmission k s).copier = s.copier
      ∧ (advanceAdmission k s).rails = s.rails ∧ (advanceAdmission k s).temp = s.temp
      ∧ (advanceAdmission k s).notices = s.notices ∧ (advanceAdmission k s).counters = s.counters
      ∧ (advanceAdmission k s).link = s.link ∧ (advanceAdmission k s).mem = s.mem
      ∧ (advanceAdmission k s).pending = s.pending := by
  unfold advanceAdmission
  (try dsimp only)
  and_intros <;> (repeat' split) <;> first | (simp; done) | rfl

@[simp] theorem serveBurst_keeps (who : Requester) (units : Nat) (s : State) :
    (serveBurst who units s).settings = s.settings ∧ (serveBurst who units s).px.geometry = s.px.geometry
      ∧ (serveBurst who units s).px.tiles = s.px.tiles
      ∧ (serveBurst who units s).lib.state = s.lib.state ∧ (serveBurst who units s).lib.reason = s.lib.reason
      ∧ (serveBurst who units s).lib.generation = s.lib.generation ∧ (serveBurst who units s).lib.bounds = s.lib.bounds
      ∧ (serveBurst who units s).lib.directory = s.lib.directory ∧ (serveBurst who units s).lib.write = s.lib.write
      ∧ (serveBurst who units s).lib.commit = s.lib.commit
      ∧ (serveBurst who units s).req = s.req ∧ (serveBurst who units s).inflow.buffer = s.inflow.buffer
      ∧ (serveBurst who units s).inflow.discard = s.inflow.discard
      ∧ (serveBurst who units s).inflow.latch = s.inflow.latch ∧ (serveBurst who units s).pool.free = s.pool.free
      ∧ (serveBurst who units s).adm.passRunning = s.adm.passRunning
      ∧ (serveBurst who units s).adm.passWanted = s.adm.passWanted
      ∧ (serveBurst who units s).adm.passCut = s.adm.passCut
      ∧ (serveBurst who units s).adm.holdReported = s.adm.holdReported
      ∧ (serveBurst who units s).scan.timer = s.scan.timer ∧ (serveBurst who units s).scan.freeze = s.scan.freeze
      ∧ (serveBurst who units s).copier.overlays = s.copier.overlays ∧ (serveBurst who units s).rails = s.rails
      ∧ (serveBurst who units s).temp = s.temp ∧ (serveBurst who units s).notices = s.notices
      ∧ (serveBurst who units s).counters = s.counters ∧ (serveBurst who units s).link = s.link
      ∧ (serveBurst who units s).mem = s.mem ∧ (serveBurst who units s).pending = s.pending := by
  unfold serveBurst
  (try dsimp only)
  and_intros <;> (repeat' split) <;> first | (simp; done) | rfl

@[simp] theorem finishBurst_keeps (who : Requester) (units : Nat) (s : State) :
    (finishBurst who units s).settings = s.settings ∧ (finishBurst who units s).px.geometry = s.px.geometry
      ∧ (finishBurst who units s).px.tiles = s.px.tiles
      ∧ (finishBurst who units s).lib.state = s.lib.state ∧ (finishBurst who units s).lib.reason = s.lib.reason
      ∧ (finishBurst who units s).lib.generation = s.lib.generation ∧ (finishBurst who units s).lib.bounds = s.lib.bounds
      ∧ (finishBurst who units s).lib.directory = s.lib.directory ∧ (finishBurst who units s).lib.write = s.lib.write
      ∧ (finishBurst who units s).lib.commit = s.lib.commit
      ∧ (finishBurst who units s).req = s.req ∧ (finishBurst who units s).inflow.buffer = s.inflow.buffer
      ∧ (finishBurst who units s).inflow.discard = s.inflow.discard
      ∧ (finishBurst who units s).inflow.latch = s.inflow.latch ∧ (finishBurst who units s).pool.free = s.pool.free
      ∧ (finishBurst who units s).adm.passRunning = s.adm.passRunning
      ∧ (finishBurst who units s).adm.passWanted = s.adm.passWanted
      ∧ (finishBurst who units s).adm.passCut = s.adm.passCut
      ∧ (finishBurst who units s).adm.holdReported = s.adm.holdReported
      ∧ (finishBurst who units s).scan.timer = s.scan.timer ∧ (finishBurst who units s).scan.freeze = s.scan.freeze
      ∧ (finishBurst who units s).copier.overlays = s.copier.overlays ∧ (finishBurst who units s).rails = s.rails
      ∧ (finishBurst who units s).temp = s.temp ∧ (finishBurst who units s).notices = s.notices
      ∧ (finishBurst who units s).counters = s.counters ∧ (finishBurst who units s).link = s.link
      ∧ (finishBurst who units s).mem.calibrating = s.mem.calibrating
      ∧ (finishBurst who units s).mem.debt = s.mem.debt ∧ (finishBurst who units s).mem.lastLane = s.mem.lastLane
      ∧ (finishBurst who units s).mem.epoch = s.mem.epoch ∧ (finishBurst who units s).pending = s.pending := by
  unfold finishBurst
  (try dsimp only)
  and_intros <;> (repeat' split) <;> first | (simp; done) | rfl

/-- A burst finished leaves what it moved, but for the arbiter's record of who waits. -/
@[simp] theorem finishBurst_moves (who : Requester) (units : Nat) (s : State) :
    (finishBurst who units s).px = (serveBurst who units s).px
      ∧ (finishBurst who units s).lib = (serveBurst who units s).lib
      ∧ (finishBurst who units s).inflow = (serveBurst who units s).inflow
      ∧ (finishBurst who units s).pool = (serveBurst who units s).pool
      ∧ (finishBurst who units s).adm = (serveBurst who units s).adm
      ∧ (finishBurst who units s).lanes = (serveBurst who units s).lanes
      ∧ (finishBurst who units s).scan = (serveBurst who units s).scan
      ∧ (finishBurst who units s).copier = (serveBurst who units s).copier := by
  unfold finishBurst
  (try dsimp only)
  and_intros <;> split <;> rfl

@[simp] theorem emptyCopier_keeps (s : State) :
    (emptyCopier s).settings = s.settings ∧ (emptyCopier s).px = s.px ∧ (emptyCopier s).lib = s.lib
      ∧ (emptyCopier s).req = s.req ∧ (emptyCopier s).inflow = s.inflow ∧ (emptyCopier s).pool.bytes = s.pool.bytes
      ∧ (emptyCopier s).adm = s.adm ∧ (emptyCopier s).lanes = s.lanes ∧ (emptyCopier s).scan = s.scan
      ∧ (emptyCopier s).rails = s.rails ∧ (emptyCopier s).temp = s.temp ∧ (emptyCopier s).notices = s.notices
      ∧ (emptyCopier s).counters = s.counters ∧ (emptyCopier s).link = s.link
      ∧ (emptyCopier s).mem.calibrating = s.mem.calibrating ∧ (emptyCopier s).mem.debt = s.mem.debt
      ∧ (emptyCopier s).mem.lastLane = s.mem.lastLane ∧ (emptyCopier s).mem.epoch = s.mem.epoch
      ∧ (emptyCopier s).pending = s.pending := by
  unfold emptyCopier
  (try dsimp only)
  and_intros <;> (repeat' split) <;> first | (simp; done) | rfl

@[simp] theorem newTable_keeps (g : Geometry) (s : State) :
    (newTable g s).settings = s.settings ∧ (newTable g s).lib = s.lib ∧ (newTable g s).req = s.req
      ∧ (newTable g s).inflow = s.inflow ∧ (newTable g s).pool.bytes = s.pool.bytes ∧ (newTable g s).adm = s.adm
      ∧ (newTable g s).lanes = s.lanes ∧ (newTable g s).scan = s.scan ∧ (newTable g s).rails = s.rails
      ∧ (newTable g s).temp = s.temp ∧ (newTable g s).notices = s.notices ∧ (newTable g s).counters = s.counters
      ∧ (newTable g s).link = s.link ∧ (newTable g s).mem.calibrating = s.mem.calibrating
      ∧ (newTable g s).mem.debt = s.mem.debt ∧ (newTable g s).mem.lastLane = s.mem.lastLane
      ∧ (newTable g s).mem.epoch = s.mem.epoch ∧ (newTable g s).pending = s.pending := by
  unfold newTable
  (try dsimp only)
  and_intros <;> (repeat' split) <;> first | (simp; done) | rfl

@[simp] theorem applySettings_keeps (c : Settings) (s : State) :
    (applySettings c s).px = s.px ∧ (applySettings c s).lib = s.lib ∧ (applySettings c s).req = s.req
      ∧ (applySettings c s).inflow.buffer = s.inflow.buffer ∧ (applySettings c s).inflow.writing = s.inflow.writing
      ∧ (applySettings c s).inflow.discard = s.inflow.discard ∧ (applySettings c s).pool = s.pool
      ∧ (applySettings c s).adm = s.adm ∧ (applySettings c s).lanes = s.lanes ∧ (applySettings c s).scan = s.scan
      ∧ (applySettings c s).copier = s.copier ∧ (applySettings c s).rails = s.rails
      ∧ (applySettings c s).temp.reading = s.temp.reading ∧ (applySettings c s).temp.staleness = s.temp.staleness
      ∧ (applySettings c s).temp.band = s.temp.band ∧ (applySettings c s).temp.state = s.temp.state
      ∧ (applySettings c s).notices = s.notices ∧ (applySettings c s).counters = s.counters
      ∧ (applySettings c s).link = s.link ∧ (applySettings c s).mem = s.mem
      ∧ (applySettings c s).pending = s.pending := by
  and_intros <;> rfl

@[simp] theorem applyGeometry_keeps (g : Geometry) (s : State) :
    (applyGeometry g s).settings = s.settings ∧ (applyGeometry g s).lib = s.lib ∧ (applyGeometry g s).req = s.req
      ∧ (applyGeometry g s).inflow = s.inflow ∧ (applyGeometry g s).pool.bytes = s.pool.bytes
      ∧ (applyGeometry g s).adm = s.adm ∧ (applyGeometry g s).lanes = s.lanes ∧ (applyGeometry g s).scan = s.scan
      ∧ (applyGeometry g s).rails = s.rails ∧ (applyGeometry g s).temp = s.temp
      ∧ (applyGeometry g s).notices = s.notices ∧ (applyGeometry g s).counters = s.counters
      ∧ (applyGeometry g s).link = s.link ∧ (applyGeometry g s).mem.calibrating = s.mem.calibrating
      ∧ (applyGeometry g s).mem.debt = s.mem.debt ∧ (applyGeometry g s).mem.lastLane = s.mem.lastLane
      ∧ (applyGeometry g s).mem.epoch = s.mem.epoch ∧ (applyGeometry g s).pending = s.pending := by
  unfold applyGeometry
  (try dsimp only)
  and_intros <;> (repeat' split) <;> first | (simp; done) | rfl

@[simp] theorem restartLane_keeps (s : State) (l : LaneId) :
    (restartLane s l).settings = s.settings ∧ (restartLane s l).px = s.px ∧ (restartLane s l).lib = s.lib
      ∧ (restartLane s l).req = s.req ∧ (restartLane s l).inflow = s.inflow ∧ (restartLane s l).pool = s.pool
      ∧ (restartLane s l).adm = s.adm ∧ (restartLane s l).scan = s.scan ∧ (restartLane s l).copier = s.copier
      ∧ (restartLane s l).rails = s.rails ∧ (restartLane s l).temp = s.temp ∧ (restartLane s l).notices = s.notices
      ∧ (restartLane s l).counters.framesScanned = s.counters.framesScanned
      ∧ (restartLane s l).counters.lanesArmed = s.counters.lanesArmed
      ∧ (restartLane s l).counters.upgrades = s.counters.upgrades
      ∧ (restartLane s l).counters.ghostRefusals = s.counters.ghostRefusals
      ∧ (restartLane s l).counters.starvations = s.counters.starvations
      ∧ (restartLane s l).counters.frameErrors = s.counters.frameErrors
      ∧ (restartLane s l).counters.inflowRefusals = s.counters.inflowRefusals ∧ (restartLane s l).link = s.link
      ∧ (restartLane s l).mem.calibrating = s.mem.calibrating ∧ (restartLane s l).mem.granted = s.mem.granted
      ∧ (restartLane s l).mem.debt = s.mem.debt ∧ (restartLane s l).mem.lastLane = s.mem.lastLane
      ∧ (restartLane s l).mem.epoch = s.mem.epoch ∧ (restartLane s l).pending = s.pending := by
  unfold restartLane
  (try dsimp only)
  and_intros <;> (repeat' split) <;> first | (simp; done) | rfl

@[simp] theorem restartLanes_keeps (s : State) :
    (restartLanes s).settings = s.settings ∧ (restartLanes s).px = s.px ∧ (restartLanes s).lib = s.lib
      ∧ (restartLanes s).req = s.req ∧ (restartLanes s).inflow = s.inflow ∧ (restartLanes s).pool = s.pool
      ∧ (restartLanes s).adm = s.adm ∧ (restartLanes s).scan.timer = s.scan.timer
      ∧ (restartLanes s).scan.frame = s.scan.frame ∧ (restartLanes s).scan.port = s.scan.port
      ∧ (restartLanes s).scan.output = s.scan.output
      ∧ (restartLanes s).copier = s.copier ∧ (restartLanes s).rails = s.rails ∧ (restartLanes s).temp = s.temp
      ∧ (restartLanes s).notices = s.notices ∧ (restartLanes s).counters.framesScanned = s.counters.framesScanned
      ∧ (restartLanes s).counters.lanesArmed = s.counters.lanesArmed
      ∧ (restartLanes s).counters.upgrades = s.counters.upgrades
      ∧ (restartLanes s).counters.ghostRefusals = s.counters.ghostRefusals
      ∧ (restartLanes s).counters.starvations = s.counters.starvations
      ∧ (restartLanes s).counters.frameErrors = s.counters.frameErrors
      ∧ (restartLanes s).counters.inflowRefusals = s.counters.inflowRefusals ∧ (restartLanes s).link = s.link
      ∧ (restartLanes s).mem.calibrating = s.mem.calibrating ∧ (restartLanes s).mem.granted = s.mem.granted
      ∧ (restartLanes s).mem.debt = s.mem.debt ∧ (restartLanes s).mem.lastLane = s.mem.lastLane
      ∧ (restartLanes s).mem.epoch = s.mem.epoch ∧ (restartLanes s).pending = s.pending := by
  unfold restartLanes
  generalize allLanes = l
  induction l generalizing s with
  | nil => simp
  | cons a l ih => simpa using ih (restartLane s a)

@[simp] theorem restartRequests_keeps (s : State) :
    (restartRequests s).settings = s.settings ∧ (restartRequests s).px = s.px ∧ (restartRequests s).lib = s.lib
      ∧ (restartRequests s).req.nextAge = s.req.nextAge ∧ (restartRequests s).inflow = s.inflow
      ∧ (restartRequests s).pool.bytes = s.pool.bytes ∧ (restartRequests s).adm = s.adm
      ∧ (restartRequests s).lanes = s.lanes ∧ (restartRequests s).scan = s.scan
      ∧ (restartRequests s).copier = s.copier ∧ (restartRequests s).rails = s.rails
      ∧ (restartRequests s).temp = s.temp ∧ (restartRequests s).notices = s.notices
      ∧ (restartRequests s).counters = s.counters ∧ (restartRequests s).link = s.link
      ∧ (restartRequests s).mem = s.mem ∧ (restartRequests s).pending = s.pending := by
  unfold restartRequests
  (try dsimp only)
  and_intros <;> (repeat' split) <;> first | (simp; done) | rfl

@[simp] theorem restartInflow_keeps (s : State) :
    (restartInflow s).settings = s.settings ∧ (restartInflow s).px = s.px ∧ (restartInflow s).lib = s.lib
      ∧ (restartInflow s).req = s.req ∧ (restartInflow s).pool = s.pool ∧ (restartInflow s).adm = s.adm
      ∧ (restartInflow s).lanes = s.lanes ∧ (restartInflow s).scan = s.scan ∧ (restartInflow s).copier = s.copier
      ∧ (restartInflow s).rails = s.rails ∧ (restartInflow s).temp = s.temp ∧ (restartInflow s).notices = s.notices
      ∧ (restartInflow s).counters = s.counters ∧ (restartInflow s).link = s.link
      ∧ (restartInflow s).mem.calibrating = s.mem.calibrating ∧ (restartInflow s).mem.debt = s.mem.debt
      ∧ (restartInflow s).mem.lastLane = s.mem.lastLane ∧ (restartInflow s).mem.epoch = s.mem.epoch
      ∧ (restartInflow s).pending = s.pending := by
  unfold restartInflow
  (try dsimp only)
  and_intros <;> (repeat' split) <;> first | (simp; done) | rfl

@[simp] theorem restartAdmission_keeps (s : State) :
    (restartAdmission s).settings = s.settings ∧ (restartAdmission s).px = s.px ∧ (restartAdmission s).lib = s.lib
      ∧ (restartAdmission s).req = s.req ∧ (restartAdmission s).inflow = s.inflow
      ∧ (restartAdmission s).pool = s.pool ∧ (restartAdmission s).adm.passRunning = s.adm.passRunning
      ∧ (restartAdmission s).adm.walk = s.adm.walk ∧ (restartAdmission s).lanes = s.lanes
      ∧ (restartAdmission s).scan = s.scan ∧ (restartAdmission s).copier = s.copier
      ∧ (restartAdmission s).rails = s.rails ∧ (restartAdmission s).temp = s.temp
      ∧ (restartAdmission s).notices = s.notices ∧ (restartAdmission s).counters = s.counters
      ∧ (restartAdmission s).link = s.link ∧ (restartAdmission s).mem = s.mem
      ∧ (restartAdmission s).pending = s.pending := by
  unfold restartAdmission
  (try dsimp only)
  and_intros <;> (repeat' split) <;> first | (simp; done) | rfl

@[simp] theorem restartRails_keeps (s : State) :
    (restartRails s).settings = s.settings ∧ (restartRails s).px = s.px ∧ (restartRails s).lib = s.lib
      ∧ (restartRails s).req = s.req ∧ (restartRails s).inflow = s.inflow ∧ (restartRails s).pool = s.pool
      ∧ (restartRails s).adm = s.adm ∧ (restartRails s).lanes = s.lanes ∧ (restartRails s).scan = s.scan
      ∧ (restartRails s).copier = s.copier ∧ (restartRails s).rails.accepted = s.rails.accepted
      ∧ (restartRails s).rails.lastSample = s.rails.lastSample ∧ (restartRails s).temp = s.temp
      ∧ (restartRails s).notices = s.notices ∧ (restartRails s).counters = s.counters
      ∧ (restartRails s).link = s.link ∧ (restartRails s).mem = s.mem ∧ (restartRails s).pending = s.pending := by
  unfold restartRails
  (try dsimp only)
  and_intros <;> (repeat' split) <;> first | (simp; done) | rfl

@[simp] theorem restartLink_keeps (s : State) :
    (restartLink s).settings = s.settings ∧ (restartLink s).px = s.px ∧ (restartLink s).lib = s.lib
      ∧ (restartLink s).req = s.req ∧ (restartLink s).inflow = s.inflow ∧ (restartLink s).pool = s.pool
      ∧ (restartLink s).adm = s.adm ∧ (restartLink s).lanes = s.lanes ∧ (restartLink s).scan = s.scan
      ∧ (restartLink s).copier = s.copier ∧ (restartLink s).rails = s.rails ∧ (restartLink s).temp = s.temp
      ∧ (restartLink s).notices.masks = s.notices.masks ∧ (restartLink s).notices.priorities = s.notices.priorities
      ∧ (restartLink s).notices.attn = s.notices.attn ∧ (restartLink s).link = s.link ∧ (restartLink s).mem = s.mem
      ∧ (restartLink s).pending = s.pending := by
  unfold restartLink
  (try dsimp only)
  and_intros <;> (repeat' split) <;> first | (simp; done) | rfl

@[simp] theorem restart_keeps (s : State) :
    (restart s).settings = s.settings ∧ (restart s).px = s.px ∧ (restart s).lib = s.lib
      ∧ (restart s).req.nextAge = s.req.nextAge ∧ (restart s).pool.bytes = s.pool.bytes
      ∧ (restart s).adm.passRunning = s.adm.passRunning ∧ (restart s).adm.walk = s.adm.walk
      ∧ (restart s).scan.timer = s.scan.timer ∧ (restart s).scan.frame = s.scan.frame
      ∧ (restart s).scan.port = s.scan.port
      ∧ (restart s).scan.output = s.scan.output ∧ (restart s).rails.accepted = s.rails.accepted
      ∧ (restart s).rails.lastSample = s.rails.lastSample ∧ (restart s).temp = s.temp
      ∧ (restart s).notices.masks = s.notices.masks ∧ (restart s).notices.priorities = s.notices.priorities
      ∧ (restart s).notices.attn = s.notices.attn ∧ (restart s).link = s.link
      ∧ (restart s).mem.calibrating = s.mem.calibrating ∧ (restart s).mem.debt = s.mem.debt
      ∧ (restart s).mem.lastLane = s.mem.lastLane ∧ (restart s).mem.epoch = s.mem.epoch
      ∧ (restart s).pending = s.pending := by
  unfold restart
  (try dsimp only)
  and_intros <;> (repeat' split) <;> first | (simp; done) | rfl

end Sys2Proof.Machine
end

