-- ==== Sys2Proof/Laws/Link.lean ====
section
/-!
SUPPORT. What a transaction's end and the taking of a command can do: said once for every host command, so that no proof about a
command unfolds the Link Port.
-/

namespace Sys2Proof.Machine

open Sys2Proof.Safety

/-- The state at a transaction's end, before its command is taken. -/
abbrev atRisingEdge (t : Transfer) (s : State) : State := endTransaction t (openTransaction s)

/-- A transaction's end changes nothing but the link. -/
theorem atRisingEdge_eq (t : Transfer) (s : State) : atRisingEdge t s = { s with link := (atRisingEdge t s).link } := by
  unfold atRisingEdge endTransaction openTransaction startTransaction
  (repeat' split) <;> rfl

/-- A transaction's end changes nothing but the link, field by field. -/
@[simp] theorem atRisingEdge_keeps (t : Transfer) (s : State) :
    (atRisingEdge t s).settings = s.settings ∧ (atRisingEdge t s).px = s.px ∧ (atRisingEdge t s).lib = s.lib
      ∧ (atRisingEdge t s).req = s.req ∧ (atRisingEdge t s).inflow = s.inflow ∧ (atRisingEdge t s).pool = s.pool
      ∧ (atRisingEdge t s).adm = s.adm ∧ (atRisingEdge t s).lanes = s.lanes ∧ (atRisingEdge t s).scan = s.scan
      ∧ (atRisingEdge t s).copier = s.copier ∧ (atRisingEdge t s).rails = s.rails ∧ (atRisingEdge t s).temp = s.temp
      ∧ (atRisingEdge t s).notices = s.notices ∧ (atRisingEdge t s).counters = s.counters
      ∧ (atRisingEdge t s).mem = s.mem ∧ (atRisingEdge t s).pending = s.pending := by
  rw [atRisingEdge_eq]
  and_intros <;> rfl

/-- A part that takes transactions opens none that is ignored. -/
theorem open_of_takes {s : State} (h : linkTakes s) : (openTransaction s).link.transaction ≠ some .ignored := by
  obtain ⟨held, live⟩ := h
  unfold openTransaction startTransaction
  split
  · exact live
  · rw [held]
    cases s.link.slot <;> simp

/-- What a row does with a dispatched command: the block's effect, the end of the event, the reply. -/
theorem takeCommand_takes {k : Kind} {t : Transfer} {admits : List Byte → Bool} {effect : List Byte → State → Effect}
    {after : State → State} {s : State} {seq : Byte} {p : List Byte} (live : linkTakes s)
    (arrives : arrivalOf t = .command k seq p) (ok : admits p = true) :
    takeCommand k t admits effect after s =
      .next (after (placeReply k.code seq (effect p (atRisingEdge t s)).2.1
        ((effect p (atRisingEdge t s)).2.2 (finish (atRisingEdge t s) (effect p (atRisingEdge t s)).1))
        (finish (atRisingEdge t s) (effect p (atRisingEdge t s)).1))) := by
  unfold takeCommand
  rw [arrives]
  simp only [ok, and_self, if_true]
  unfold runCommand
  simp only [if_neg (open_of_takes live)]

/-- The same for a row that takes its kind in all forms. -/
theorem takeKind_takes {k : Kind} {t : Transfer} {effect : List Byte → State → Effect} {s : State} {seq : Byte}
    {p : List Byte} (live : linkTakes s) (arrives : arrivalOf t = .command k seq p) :
    takeKind k t effect s =
      .next (placeReply k.code seq (effect p (atRisingEdge t s)).2.1
        ((effect p (atRisingEdge t s)).2.2 (finish (atRisingEdge t s) (effect p (atRisingEdge t s)).1))
        (finish (atRisingEdge t s) (effect p (atRisingEdge t s)).1)) :=
  takeCommand_takes live arrives rfl

/-- Everything a command row can answer with: the transaction is over and nothing else, or the command is taken. -/
theorem takeCommand_next {k : Kind} {t : Transfer} {admits : List Byte → Bool} {effect : List Byte → State → Effect}
    {after : State → State} {s u : State} (h : takeCommand k t admits effect after s = .next u) :
    u = atRisingEdge t s ∨ ∃ seq p, arrivalOf t = .command k seq p ∧
      u = after (placeReply k.code seq (effect p (atRisingEdge t s)).2.1
        ((effect p (atRisingEdge t s)).2.2 (finish (atRisingEdge t s) (effect p (atRisingEdge t s)).1))
        (finish (atRisingEdge t s) (effect p (atRisingEdge t s)).1)) := by
  unfold takeCommand at h
  split at h
  · rename_i k' seq p arrives
    split at h
    · rename_i both
      cases h
      unfold runCommand
      simp only
      split
      · exact .inl rfl
      · exact .inr ⟨seq, p, by rw [arrives, both.1], rfl⟩
    · cases h
  · cases h
  · cases h

/-- What a command row leaves alone: whatever the transaction's end, the block's effect with the end of its event, and the
rule after the reply all leave alone. -/
theorem takeCommand_frame {α : Type} (look : State → α) {k : Kind} {t : Transfer} {admits : List Byte → Bool}
    {effect : List Byte → State → Effect} {after : State → State} {s u : State}
    (h : takeCommand k t admits effect after s = .next u) (edge : look (atRisingEdge t s) = look s)
    (taken : ∀ p v, look (placeReply k.code 0 .ok [] (finish v (effect p v).1)) = look v)
    (reply : ∀ seq r b v, look (placeReply k.code seq r b v) = look (placeReply k.code 0 .ok [] v))
    (later : ∀ v, look (after v) = look v) : look u = look s := by
  rcases takeCommand_next h with rfl | ⟨seq, p, _, rfl⟩
  · exact edge
  · rw [later, reply, taken, edge]

/-- A reply placed is what the slot holds. -/
theorem answers_placeReply (k : Kind) (seq : Byte) (r : Result) (b : List Byte) (s : State) :
    answers (placeReply k.code seq r b s) k seq r b := ⟨_, rfl, rfl, rfl, rfl, rfl⟩

end Sys2Proof.Machine
end

