-- ==== Sys2Proof/Laws/Finish.lean ====
section
/-!
SUPPORT. What every event ends with: `finish` leaves nothing to do, and does nothing but set ATTN where nothing was to do.
-/

namespace Sys2Proof.Machine

open Sys2Proof.Safety

/-! ### What the parts of `finish` look at -/

/-- Demand is read off the lanes. -/
theorem demand_congr {s t : State} (lanes : t.lanes = s.lanes) : demand t = demand s := by
  simp only [demand, laneAt, lanes]

/-- The restart condition is read off the lanes. -/
theorem restartWalks_congr {s t : State} (lanes : t.lanes = s.lanes) : restartWalks t = restartWalks s := by
  simp only [restartWalks, laneAt, lanes]

/-- The holds are read off library, temperature, rails, Pixel Store walk and lanes. -/
theorem held_congr {s t : State} (lib : t.lib = s.lib) (temp : t.temp = s.temp) (rails : t.rails = s.rails)
    (px : t.px = s.px) (lanes : t.lanes = s.lanes) : held t = held s := by
  simp only [held, initialising, lib, temp, rails, px, restartWalks_congr lanes]

/-- Rails after `syncPower`, from rails, settings and demand alone. -/
def powerRails (settings : Settings) (demanded : Bool) (r : Rails) : Rails :=
  let risen := if r.state = .off ∧ demanded = true then
    { r with state := .rising, enable := true, riseTimer := some settings.riseTimeout } else r
  if risen.state = .on ∧ demanded = false then
    if risen.idleTimer.isSome then risen
    else if settings.holdTime = 0 then
      { risen with state := .falling, enable := false, riseTimer := none, idleTimer := none,
                   fallTime := some Config.fallTimeMs }
    else { risen with idleTimer := some settings.holdTime }
  else { risen with idleTimer := none }

/-- The frame timer after `syncPower`, from the rails it leaves. -/
def powerTimer (settings : Settings) (demanded : Bool) (r : Rails) (timer : Option Nat) : Option Nat :=
  if r.state = .on ∧ demanded = true then
    if timer.isSome then timer else some settings.framePeriod
  else none

/-- The frame timer rule, said on the state. -/
theorem syncFrameTimer_eq (s : State) :
    syncFrameTimer s = { s with scan := { s.scan with
      timer := powerTimer s.settings (demand s) s.rails s.scan.timer } } := by
  unfold syncFrameTimer powerTimer
  (repeat' split) <;> rfl

/-- Rise and idle hold, said on the state. -/
theorem syncRails_eq (s : State) :
    syncIdle (syncRise s) = { s with rails := powerRails s.settings (demand s) s.rails } := by
  have same : demand (syncRise s) = demand s := demand_congr (by simp)
  unfold syncIdle
  rw [same]
  unfold syncRise powerRails
  by_cases rise : s.rails.state = .off ∧ demand s = true
  · simp [rise, riseRails]
  · simp only [rise, if_false]
    by_cases idle : s.rails.state = .on ∧ demand s = false
    · simp only [idle, and_self, if_true]
      (repeat' split) <;> simp_all [fallRails]
    · simp [idle]

/-- `syncPower` writes the rails and the frame timer, as functions of what it looks at. -/
theorem syncPower_eq (s : State) :
    syncPower s = { s with
      rails := powerRails s.settings (demand s) s.rails
      scan := { s.scan with
        timer := powerTimer s.settings (demand s) (powerRails s.settings (demand s) s.rails) s.scan.timer } } := by
  unfold syncPower
  rw [syncFrameTimer_eq, syncRails_eq]
  have same : demand { s with rails := powerRails s.settings (demand s) s.rails } = demand s := demand_congr rfl
  rw [same]

/-- A state that agrees with one at rest in rails, lanes, settings and frame timer is at rest too. -/
theorem syncPower_stays {s t : State} (rest : syncPower s = s) (rails : t.rails = s.rails) (lanes : t.lanes = s.lanes)
    (settings : t.settings = s.settings) (timer : t.scan.timer = s.scan.timer) : syncPower t = t := by
  have r : (syncPower s).rails = s.rails := by rw [rest]
  have c : (syncPower s).scan.timer = s.scan.timer := by rw [rest]
  rw [syncPower_eq] at r c ⊢
  simp only at r c
  rw [demand_congr lanes, rails, settings, timer, r]
  rw [r] at c
  rw [c]
  obtain ⟨_, _, _, _, _, _, _, _, ⟨_, _, _, _⟩⟩ := t
  simp_all

/-! ### A state at rest -/

/-- At a state at rest, an event that leaves alone what `finish` looks at ends with ATTN set and nothing else. -/
theorem finish_of_settled {s t : State} (rest : settled s) (adm : t.adm = s.adm) (lib : t.lib = s.lib)
    (temp : t.temp = s.temp) (rails : t.rails = s.rails) (px : t.px = s.px) (lanes : t.lanes = s.lanes)
    (mem : t.mem = s.mem) (settings : t.settings = s.settings) (timer : t.scan.timer = s.scan.timer) :
    finish s t = syncAttn t := by
  obtain ⟨noPass, noPower, noGrant, _⟩ := rest
  have sameHeld : held t = held s := held_congr lib temp rails px lanes
  have holds : noteHolds s t = t := by
    unfold noteHolds
    cases h : held s <;> simp [sameHeld, h]
  have pass : tryPass t = t := by
    unfold tryPass
    rw [adm, sameHeld, noPass]
    rfl
  have grant : arbitrate t = t := by
    unfold arbitrate
    rw [mem, noGrant, ← mem]
  unfold finish
  rw [holds, pass, syncPower_stays noPower rails lanes settings timer, grant]

/-! ### ATTN -/

/-- The level of ATTN is asserted exactly when a pending source lies in an unmasked group, source by source (R171 to
R173). -/
theorem attnLevel_iff (n : Notices) :
    n.attnLevel = true ↔
      n.log ≠ [] ∧ n.masks.getLsbD 0 = false
        ∨ ∃ e ∈ flaggedSources, n.flags.getLsbD e.1 = true ∧ n.masks.getLsbD e.2 = false := by
  simp [Notices.attnLevel, NoticeSource.all, Notices.isPending, Notices.unmasked, flaggedSources, NoticeSource.number,
    NoticeSource.group]

/-- The law of ATTN says that the pin is at the level the Notice Unit gives it (R173). -/
theorem attnLaw_iff {s : State} : attnLaw s ↔ s.notices.attn = s.notices.attnLevel := by
  rw [Bool.eq_iff_iff, attnLevel_iff, attnLaw]

/-! ### Every event ends at rest -/

/-- Rails at rest stay at rest. -/
theorem powerRails_idem (settings : Settings) (d : Bool) (r : Rails) :
    powerRails settings d (powerRails settings d r) = powerRails settings d r := by
  obtain ⟨state, enable, rise, idle, fall, accepted, last⟩ := r
  unfold powerRails
  cases state <;> cases d <;> simp
  all_goals (repeat' split) <;> simp_all

/-- The rule of rise and idle hold neither begins nor ends a fault. -/
theorem powerRails_fault (settings : Settings) (d : Bool) (r : Rails) :
    (powerRails settings d r).state = .fault ↔ r.state = .fault := by
  obtain ⟨state, enable, rise, idle, fall, accepted, last⟩ := r
  unfold powerRails
  cases state <;> cases d <;> simp
  all_goals (repeat' split) <;> simp_all

/-- A frame timer at rest stays at rest. -/
theorem powerTimer_idem (settings : Settings) (d : Bool) (r : Rails) (timer : Option Nat) :
    powerTimer settings d r (powerTimer settings d r timer) = powerTimer settings d r timer := by
  unfold powerTimer
  (repeat' split) <;> simp_all

/-- `syncPower` leaves rails and frame timer at rest. -/
theorem syncPower_idem (s : State) : syncPower (syncPower s) = syncPower s := by
  rw [syncPower_eq (syncPower s)]
  have d : demand (syncPower s) = demand s := demand_congr (by simp)
  rw [d]
  simp only [syncPower_eq s, powerRails_idem, powerTimer_idem]

/-- A grant decided leaves none to decide. -/
theorem decideGrant_idem (m : FrameMemory) : decideGrant (decideGrant m) = decideGrant m := by
  by_cases busy : (m.calibrating || m.granted.isSome) = true
  · have h : decideGrant m = m := by unfold decideGrant; simp [busy]
    rw [h, h]
  · simp only [Bool.not_eq_true] at busy
    by_cases owed : 0 < m.debt
    · have h : decideGrant m = { m with granted := some .refresh, debt := m.debt - 1 } := by
        unfold decideGrant; simp [busy, owed]
      rw [h]
      unfold decideGrant
      simp
    · cases first : (precedence m.lastLane).find? fun r => m.waiting.contains r with
      | none =>
        have h : decideGrant m = m := by
          unfold decideGrant
          simp only [busy, owed, if_false, first]
          rfl
        rw [h, h]
      | some r =>
        have h : decideGrant m = grantBurst r m := by
          unfold decideGrant
          simp only [busy, owed, if_false, first]
          rfl
        rw [h]
        unfold decideGrant grantBurst
        simp

/-- A pass that starts leaves nothing wanted. -/
theorem startPass_wanted (s : State) : (startPass s).adm.passWanted = false := by
  unfold startPass
  simp

/-- After `tryPass` no pass is due. -/
theorem tryPass_rest (s : State) :
    ((tryPass s).adm.passWanted && !held (tryPass s) && !(tryPass s).adm.passRunning) = false := by
  unfold tryPass
  split
  · simp [startPass_wanted]
  · rename_i h
    simpa using h

/-- The holds look at the rails only for a fault. -/
theorem held_syncPower (s : State) : held (syncPower s) = held s := by
  have w : restartWalks (syncPower s) = restartWalks s := restartWalks_congr (by simp)
  have f : decide ((syncPower s).rails.state = .fault) = decide (s.rails.state = .fault) := by
    rw [syncPower_eq]
    exact decide_eq_decide.mpr (powerRails_fault _ _ _)
  unfold held
  rw [w, f]
  simp [initialising]

/-- Every event leaves nothing to do. -/
theorem finish_settled (b s : State) : settled (finish b s) := by
  unfold finish settled
  have h : held (syncAttn (arbitrate (syncPower (tryPass (noteHolds b s))))) = held (tryPass (noteHolds b s)) := by
    rw [← held_syncPower (tryPass (noteHolds b s))]
    exact held_congr (by simp) (by simp) (by simp) (by simp) (by simp)
  refine ⟨?_, ?_, ?_, ?_⟩
  · rw [h]
    simpa using tryPass_rest (noteHolds b s)
  · exact syncPower_stays (s := syncPower (tryPass (noteHolds b s))) (syncPower_idem _) (by simp) (by simp) (by simp)
      (by simp)
  · simp only [syncAttn_keeps]
    exact decideGrant_idem _
  · exact attnLaw_iff.mpr rfl

/-! ### Commands taken at rest -/

/-- A transaction's end leaves a state at rest at rest. -/
theorem settled_atRisingEdge {s : State} (t : Transfer) (rest : settled s) : settled (atRisingEdge t s) := by
  obtain ⟨noPass, noPower, noGrant, attn⟩ := rest
  have sameHeld : held (atRisingEdge t s) = held s :=
    held_congr (by simp) (by simp) (by simp) (by simp) (by simp)
  refine ⟨?_, ?_, ?_, ?_⟩
  · rw [sameHeld]
    simpa using noPass
  · exact syncPower_stays noPower (by simp) (by simp) (by simp) (by simp)
  · simpa using noGrant
  · simpa [attnLaw] using attn

/-- ATTN at its level stays. -/
theorem syncAttn_of_attnLaw {s : State} (h : attnLaw s) : syncAttn s = s := by
  unfold syncAttn
  rw [← attnLaw_iff.mp h]

/-- At a state at rest, an event that does nothing ends with nothing done. -/
theorem finish_self {s : State} (rest : settled s) : finish s s = s := by
  rw [finish_of_settled rest rfl rfl rfl rfl rfl rfl rfl rfl rfl, syncAttn_of_attnLaw rest.2.2.2]

/-- A command taken at rest that has no effect: the reply is placed, and nothing but the link is changed. -/
theorem takeCommand_still {k : Kind} {t : Transfer} {admits : List Byte → Bool} {effect : List Byte → State → Effect}
    {s : State} {seq : Byte} {p : List Byte} {r : Result} {b : State → List Byte} (live : linkTakes s)
    (rest : settled s) (arrives : arrivalOf t = .command k seq p) (ok : admits p = true)
    (still : effect p (atRisingEdge t s) = (atRisingEdge t s, r, b)) :
    ∃ u, takeCommand k t admits effect id s = .next u ∧ answers u k seq r (b (atRisingEdge t s))
      ∧ u = { s with link := u.link } := by
  rw [takeCommand_takes live arrives ok, still]
  simp only [finish_self (settled_atRisingEdge t rest), id]
  refine ⟨_, rfl, answers_placeReply _ _ _ _ _, ?_⟩
  simp only [placeReply]
  rw [atRisingEdge_eq]

/-- An event that leaves alone what the holds look at, and gives no trigger, at a state where no pass is due: the end of the
event is rails and timers, the grant and ATTN. -/
theorem finish_without_pass {b s : State} (noPass : (s.adm.passWanted && !held s && !s.adm.passRunning) = false)
    (same : held s = held b) : finish b s = syncAttn (arbitrate (syncPower s)) := by
  have holds : noteHolds b s = s := by
    unfold noteHolds
    cases h : held b <;> simp [same, h]
  have pass : tryPass s = s := by
    unfold tryPass
    rw [noPass]
    rfl
  unfold finish
  rw [holds, pass]

/-- While admission is held, before and after an event, the end of the event is rails and timers, the grant and ATTN. -/
theorem finish_of_held {b s : State} (before : held b = true) (now : held s = true) :
    finish b s = syncAttn (arbitrate (syncPower s)) :=
  finish_without_pass (by simp [now]) (now.trans before.symm)

/-! ### What some operations write -/

/-- A library set is the library, and the temperature is recomputed from it (R25, R145). -/
theorem setLibrary_lib (lib : Library) (s : State) : (setLibrary lib s).lib = lib := by
  simp [setLibrary]

/-- Band and state recomputed (R145). -/
theorem recomputeTemp_temp (s : State) : (recomputeTemp s).temp =
    { s.temp with
      band := s.temp.reading.bind s.lib.lookupBand
      state := tempStateOf s.temp.reading s.temp.staleness (s.temp.reading.bind s.lib.lookupBand) } := by
  unfold recomputeTemp
  simp

/-- A refresh request writes the grant or the debt, and the timer (R154). -/
@[simp] theorem requestRefresh_keeps (m : FrameMemory) :
    (requestRefresh m).calibrating = m.calibrating ∧ (requestRefresh m).waiting = m.waiting
      ∧ (requestRefresh m).lastLane = m.lastLane ∧ (requestRefresh m).epoch = m.epoch := by
  unfold requestRefresh
  and_intros <;> split <;> rfl

/-! ### Rails and frame timer after an event -/

/-- The rails every event ends with. -/
theorem finish_rails (b s : State) : (finish b s).rails = powerRails s.settings (demand s) s.rails := by
  have sync : (finish b s).rails = (syncPower (tryPass (noteHolds b s))).rails := by simp [finish]
  have same : demand (tryPass (noteHolds b s)) = demand s := demand_congr (by simp)
  rw [sync, syncPower_eq, same]
  simp

/-- The frame timer every event ends with. -/
theorem finish_timer (b s : State) : (finish b s).scan.timer =
    powerTimer s.settings (demand s) (powerRails s.settings (demand s) s.rails) s.scan.timer := by
  have sync : (finish b s).scan.timer = (syncPower (tryPass (noteHolds b s))).scan.timer := by simp [finish]
  have same : demand (tryPass (noteHolds b s)) = demand s := demand_congr (by simp)
  rw [sync, syncPower_eq, same]
  simp

end Sys2Proof.Machine
end

