-- ==== Sys2Proof/Laws/Checks.lean ====
section
/-!
SUPPORT. The checks of the host commands, as the statements list them, are those their meanings make, in the same order; and a
command whose checks fail at a state at rest is refused and changes nothing but the link.
-/

namespace Sys2Proof.Machine

open Sys2Proof.Safety

/-! ### Lists of checks -/

@[simp] theorem firstRefusal_nil : firstRefusal [] = none := rfl

/-- A list of checks begins with its first. -/
@[simp] theorem firstRefusal_cons (c : Bool) (r : Result) (rest : List (Bool × Result)) :
    firstRefusal ((c, r) :: rest) = (failIf c r).or (firstRefusal rest) := by
  cases c <;> rfl

/-- Checks put behind others are made after them. -/
@[simp] theorem firstRefusal_append (a b : List (Bool × Result)) :
    firstRefusal (a ++ b) = (firstRefusal a).or (firstRefusal b) := by
  induction a with
  | nil => rfl
  | cons c rest ih => rw [List.cons_append, firstRefusal_cons, firstRefusal_cons, ih, Option.or_assoc]

/-- Two checks with the same condition and result are one. -/
theorem failIf_congr {a b : Bool} (h : a = true ↔ b = true) (r : Result) : failIf a r = failIf b r := by
  rw [Bool.eq_iff_iff.mpr h]

/-! ### The lists are the checks made -/

theorem firstRefusal_rectChecks (r : Rect) (s : State) : firstRefusal (rectChecks r s) = rectCheck s.px.geometry r := by
  unfold rectChecks rectCheck panelWidth panelHeight
  cases s.px.geometry <;> simp only [firstRefusal_cons, firstRefusal_nil, failIf]
  · rfl
  · repeat' split
    all_goals simp_all
    all_goals omega

theorem firstRefusal_tagChecks (tag : Nat) (s : State) :
    firstRefusal (tagChecks tag s) = postingCheck.tableCheck tag s := by
  unfold tagChecks postingCheck.tableCheck findTag
  simp only [firstRefusal_cons, firstRefusal_nil, Option.or_none, Config.requestRecords]
  congr 1
  exact failIf_congr (by simp [List.find?_isSome]) _

theorem tooFewPages_iff (r : Rect) (s : State) : tooFewPages r s = true ↔ s.pool.free.length < pagesNeeded r := by
  simp [tooFewPages, List.length_take]

theorem firstRefusal_snapshotChecks (r : Rect) (s : State) :
    firstRefusal (snapshotChecks r s) = snapshotCheck r s := by
  unfold snapshotChecks snapshotCheck
  simp only [firstRefusal_cons, firstRefusal_nil, Option.or_none, Config.copierJobs]
  congr 1
  exact failIf_congr (by simp [tooFewPages_iff]) _

/-- The mode selectors allowed are 1 to 5 (R45). -/
theorem ofSelector_isNone (n : Nat) : (Mode.ofSelector n).isNone = true ↔ n < 1 ∨ 5 < n := by
  rcases n with _ | _ | _ | _ | _ | _ | n <;> simp [Mode.ofSelector]

/-- The ghost policies allowed are 0 to 2 (R45). -/
theorem ghostOf_isNone (n : Nat) : (ghostOf n).isNone = true ↔ 2 < n := by
  rcases n with _ | _ | _ | n <;> simp [ghostOf]

/-- The collision policies allowed are 0 and 1 (R45). -/
theorem collisionOf_isNone (n : Nat) : (collisionOf n).isNone = true ↔ 1 < n := by
  rcases n with _ | _ | n <;> simp [collisionOf]

theorem postChoice_isNone (p : List Byte) (off : Nat) : (postChoice p off).isNone = true ↔
    field p off 1 < 1 ∨ 5 < field p off 1 ∨ 2 < field p (off + 1) 1 ∨ 1 < field p (off + 2) 1 := by
  have mode := ofSelector_isNone (field p off 1)
  have ghost := ghostOf_isNone (field p (off + 1) 1)
  have collision := collisionOf_isNone (field p (off + 2) 1)
  unfold postChoice
  cases hm : Mode.ofSelector (field p off 1) <;> cases hg : ghostOf (field p (off + 1) 1) <;>
    cases hc : collisionOf (field p (off + 2) 1) <;> simp_all
  all_goals omega

/-- The modes of the selectors 1 and 2 are the clearing ones, and 4 is QUICK (R45). -/
theorem of_ofSelector {n : Nat} {m : Mode} (h : Mode.ofSelector n = some m) :
    (m.clearing = false ↔ 2 < n) ∧ (m = .quick ↔ n = 4) := by
  unfold Mode.ofSelector at h
  split at h <;> cases h <;> simp [Mode.clearing]

/-- The source is 0 or 1, and a FILL has a level of at most 15 (R45). -/
theorem sourceField_isNone (m : Mode) (source fill : Nat) :
    (sourceField m source fill).isNone = true ↔ 1 < source ∨ source = 1 ∧ 15 < fill := by
  rcases source with _ | _ | n <;> simp [sourceField]

theorem firstRefusal_postUpdateChecks (p : List Byte) (s : State) :
    firstRefusal (postUpdateChecks p s) = postUpdateCheck p s := by
  have fields : (postUpdateFields p).isNone = true ↔ field p 10 1 < 1 ∨ 5 < field p 10 1 ∨ 2 < field p 11 1
      ∨ 1 < field p 12 1 ∨ 1 < field p 13 1 ∨ 1 < field p 15 1 ∨ field p 15 1 = 1 ∧ 2 < field p 10 1
      ∨ field p 13 1 = 1 ∧ 15 < field p 14 1 := by
    have choice := postChoice_isNone p 10
    unfold postUpdateFields
    cases hc : postChoice p 10 with
    | none => simp only [hc, Option.isNone_none, true_iff, Nat.reduceAdd] at choice ⊢; omega
    | some c =>
      have mode : Mode.ofSelector (field p 10 1) = some c.mode := by
        unfold postChoice at hc
        split at hc <;> cases hc
        assumption
      have clearing := (of_ofSelector mode).1
      have source := sourceField_isNone c.mode (field p 13 1) (field p 14 1)
      simp only [hc, Option.isNone_some, Bool.false_eq_true, false_iff, Nat.reduceAdd] at choice
      cases hs : sourceField c.mode (field p 13 1) (field p 14 1) with
      | none => simp only [hs, Option.isNone_none, true_iff] at source ⊢; omega
      | some w =>
        simp only [hs, Option.isNone_some, Bool.false_eq_true, false_iff] at source
        simp only [hs]
        split
        · rename_i bad
          rw [clearing] at bad
          simp only [Option.isNone_none, true_iff]; omega
        · rename_i good
          rw [clearing] at good
          simp only [Option.isNone_some, Bool.false_eq_true, false_iff]; omega
  simp only [postUpdateChecks, postUpdateCheck, postingCheck, List.flatten_cons, List.flatten_nil, firstRefusal_append,
    firstRefusal_cons, firstRefusal_nil, firstRefusal_rectChecks, firstRefusal_tagChecks, Option.or_none, Option.or_assoc]
  rw [failIf_congr (by simpa using fields.symm) (b := (postUpdateFields p).isNone) .badField]
  congr 6
  exact failIf_congr (by simp [tooFewPages_iff]) _

/-- PIXELS: its checks up to the tag's (R65). -/
theorem pixelsCheck_of_pixelsChecks {p : List Byte} {s : State} {r : Result}
    (h : firstRefusal (pixelsChecks p s) = some r) : pixelsCheck (pixelsFields p) p s = some r := by
  have length : (decide (p.length < 8) || decide ((pixelsFields p).dataLength ≠ (pixelsFields p).data.length)) =
      decide (p.length < 8 ∨ field p 6 2 ≠ p.length - 8) := by simp [pixelsFields, Bool.decide_or]
  simp only [pixelsChecks, firstRefusal_cons, firstRefusal_nil, Option.or_none, ← length, ← Option.or_assoc] at h
  unfold pixelsCheck
  change Option.or (pixelsLinkCheck (pixelsFields p) p s) _ = _ at h
  cases hl : pixelsLinkCheck (pixelsFields p) p s with
  | some q => simpa [hl] using h
  | none =>
    simp only [hl, Option.none_or, failIf] at h ⊢
    have tag : (pixelsFields p).tag = field p 0 2 := rfl
    rw [tag]
    cases hf : findTag s (field p 0 2) with
    | none => simp_all
    | some q => cases hw : q.withdrawn <;> simp_all

/-- PIXELS: its checks behind the tag's, for the request found, which has a tally if its source is INFLOW (R64, R65). -/
theorem pixelsCheck_of_rowsChecks {p : List Byte} {s : State} {r : Result} {q : Request} {tally : Tally}
    (passed : firstRefusal (pixelsChecks p s) = none) (found : findTag s (field p 0 2) = some q)
    (inflow : q.source = .inflow → q.tally = some tally) (h : firstRefusal (rowsChecks p q tally s) = some r) :
    pixelsCheck (pixelsFields p) p s = some r := by
  have length : (decide (p.length < 8) || decide ((pixelsFields p).dataLength ≠ (pixelsFields p).data.length)) =
      decide (p.length < 8 ∨ field p 6 2 ≠ p.length - 8) := by simp [pixelsFields, Bool.decide_or]
  simp only [pixelsChecks, firstRefusal_cons, firstRefusal_nil, Option.or_none, ← length, ← Option.or_assoc, found] at passed
  change Option.or (pixelsLinkCheck (pixelsFields p) p s) _ = _ at passed
  have tag : (pixelsFields p).tag = field p 0 2 := rfl
  obtain ⟨link, live⟩ := Option.or_eq_none_iff.mp passed
  have stays : q.withdrawn = false := by simpa [failIf] using live
  simp only [pixelsCheck, link, tag, found, stays, Option.none_or, Bool.false_eq_true, if_false]
  simp only [rowsChecks, firstRefusal_cons, firstRefusal_nil, Option.or_none] at h
  unfold pixelsRequestCheck
  by_cases source : q.source = .inflow
  · rw [inflow source, ← h]
    simp only [pixelsFields, Bool.decide_or]
    rfl
  · have bad : some Result.badField = some r := by simpa [source, failIf] using h
    cases q.tally <;> simpa [source, failIf] using bad

theorem firstRefusal_postCopyChecks (p : List Byte) (s : State) :
    firstRefusal (postCopyChecks p s) = postCopyCheck p s := by
  simp only [postCopyChecks, postCopyCheck, postingCheck, List.flatten_cons, List.flatten_nil, firstRefusal_append,
    firstRefusal_cons, firstRefusal_nil, firstRefusal_rectChecks, firstRefusal_tagChecks, firstRefusal_snapshotChecks,
    Option.or_none, Option.or_assoc]
  rw [failIf_congr (by simpa using (postChoice_isNone p 14).symm) (b := (postChoice p 14).isNone) .badField]

theorem firstRefusal_overlayPushChecks (p : List Byte) (s : State) :
    firstRefusal (overlayPushChecks p s) = overlayPushCheck p s := by
  simp only [overlayPushChecks, overlayPushCheck, List.flatten_cons, List.flatten_nil, firstRefusal_append,
    firstRefusal_cons, firstRefusal_nil, firstRefusal_rectChecks, firstRefusal_snapshotChecks, Option.or_none,
    Option.or_assoc]

theorem overlayChoice_isNone (p : List Byte) : (overlayChoice p).isNone = true ↔
    field p 2 1 < 1 ∨ field p 2 1 = 4 ∨ 5 < field p 2 1 ∨ 2 < field p 3 1 ∨ 1 < field p 4 1 := by
  have choice := postChoice_isNone p 2
  unfold overlayChoice
  cases hc : postChoice p 2 with
  | none => simp only [hc, Option.isNone_none, true_iff, Nat.reduceAdd] at choice ⊢; omega
  | some c =>
    have mode : Mode.ofSelector (field p 2 1) = some c.mode := by
      unfold postChoice at hc
      split at hc <;> cases hc
      assumption
    have quick := (of_ofSelector mode).2
    simp only [hc, Option.isNone_some, Bool.false_eq_true, false_iff, Nat.reduceAdd] at choice
    simp only [quick]
    split
    · simp only [Option.isNone_none, true_iff]; omega
    · simp only [Option.isNone_some, Bool.false_eq_true, false_iff]; omega

theorem firstRefusal_overlayPopChecks (p : List Byte) (s : State) :
    firstRefusal (overlayPopChecks p s) = overlayPopCheck p s := by
  simp only [overlayPopChecks, overlayPopCheck, topOverlay, List.flatten_cons, List.flatten_nil, firstRefusal_append,
    firstRefusal_cons, firstRefusal_nil, firstRefusal_tagChecks, Option.or_none, Option.or_assoc]
  rw [failIf_congr (by simpa using (overlayChoice_isNone p).symm) (b := (overlayChoice p).isNone) .badField]
  congr 4
  cases h : s.copier.overlays.getLast? with
  | none => simp [List.getLast?_eq_none_iff.mp h, failIf]
  | some o =>
    have some : s.copier.overlays ≠ [] := fun none => by simp [none] at h
    simp [some, failIf]

theorem firstRefusal_overlaySwapChecks (p : List Byte) (s : State) :
    firstRefusal (overlaySwapChecks p s) = overlaySwapCheck p s := by
  simp only [overlaySwapChecks, overlaySwapCheck, topOverlay, firstRefusal_append, firstRefusal_overlayPopChecks]
  congr 1
  cases s.copier.overlays.getLast? <;> simp [firstRefusal_snapshotChecks]

theorem firstRefusal_assumeChecks (p : List Byte) (s : State) :
    firstRefusal (assumeChecks p s) = assumeCheck p s := by
  simp only [assumeChecks, assumeCheck, List.flatten_cons, List.flatten_nil, firstRefusal_append, firstRefusal_cons,
    firstRefusal_nil, firstRefusal_rectChecks, Option.or_none]
  congr 3
  refine failIf_congr ?_ _
  simp [assumeBusy, initialising, Option.isSome_iff_ne_none, or_assoc]

/-- No lane is in use. -/
theorem allFree_iff (s : State) : allFree s = true ↔ ∀ l, laneAt s l = none := by
  simp [allFree, allLanes, List.mem_finRange]

theorem firstRefusal_configureChecks (p : List Byte) (s : State) :
    firstRefusal (configureChecks p s) = configureCheck p s := by
  simp only [configureChecks, configureCheck, firstRefusal_cons, firstRefusal_nil, Option.or_none]
  have busy : configureBusy s = decide (s.req.table ≠ [] ∨ (∃ l, laneAt s l ≠ none) ∨ s.lib.state = .loading
      ∨ s.scan.frame ≠ none) := by
    have free := allFree_iff s
    rw [Bool.eq_iff_iff]
    simp [configureBusy, Option.isSome_iff_ne_none, or_assoc]
    cases h : allFree s <;> simp_all
  have fields : (!configFieldsOk p) = true ↔
      (∃ f ∈ configureTable, field p f.1 f.2.1 < f.2.2.1 ∨ f.2.2.2 < field p f.1 f.2.1)
        ∨ field p 0 2 % 8 ≠ 0 ∨ field p 2 2 % 8 ≠ 0 ∨ field p 5 2 < field p 2 2 / 2 + 100
        ∨ field p 10 4 ≤ field p 14 4 := by
    have bool : ∀ off, (boolField p off).isSome = decide (field p off 1 ≤ 1) := by
      intro off
      unfold boolField
      rcases field p off 1 with _ | _ | n <;> simp
    simp only [configureTable, List.exists_mem_cons_iff, List.not_mem_nil, false_and, exists_false, or_false]
    rw [Bool.not_eq_true', ← Bool.not_eq_true]
    simp only [configFieldsOk, bool, Bool.and_eq_true, decide_eq_true_eq]
    simp only [configGeometry, configSettings]
    omega
  rw [busy, failIf_congr (by simpa using fields.symm) (b := !configFieldsOk p) .badField]

theorem firstRefusal_libBeginChecks (p : List Byte) (s : State) :
    firstRefusal (libBeginChecks p s) = libBeginCheck p s := by
  have busy : (s.mem.calibrating || commitBusy s || !allFree s || !s.req.table.isEmpty) = true ↔
      s.mem.calibrating = true ∨ s.lib.commit ≠ .none ∨ (∃ l, laneAt s l ≠ none) ∨ s.req.table ≠ [] := by
    have free := allFree_iff s
    cases h : allFree s <;> simp_all [commitBusy, or_assoc]
  have fields : libFieldsBad p = true ↔
      (∃ k < libBandCount p, fieldSigned p (1 + 2 * (k + 1)) ≤ fieldSigned p (1 + 2 * k))
        ∨ (∃ e ∈ (libDirectory p).zipIdx, e.1.frames < e.1.leads
          ∨ e.1.frames = 0 ∧ modeOfSet (libBandCount p) e.2 ∈ [Mode.blank, .clear, .settle]) := by
    have bounds : ∀ (n i : Nat), ascending ((List.range' i (n + 1)).map fun k => fieldSigned p (1 + 2 * k)) = false ↔
        ∃ k, i ≤ k ∧ k < i + n ∧ fieldSigned p (1 + 2 * (k + 1)) ≤ fieldSigned p (1 + 2 * k) := by
      intro n
      induction n with
      | zero => intro i; simp [ascending]; omega
      | succ n ih =>
        intro i
        have rest := ih (i + 1)
        rw [List.range'_succ, List.map_cons, List.range'_succ, List.map_cons]
        rw [List.range'_succ, List.map_cons] at rest
        simp only [ascending, Bool.and_eq_false_iff, decide_eq_false_iff_not, Int.not_lt, rest]
        constructor
        · rintro (first | ⟨k, low, high, later⟩)
          · exact ⟨i, by omega, by omega, first⟩
          · exact ⟨k, by omega, by omega, later⟩
        · rintro ⟨k, low, high, here⟩
          by_cases same : k = i
          · exact .inl (same ▸ here)
          · exact .inr ⟨k, by omega, by omega, here⟩
    have first := bounds (libBandCount p) 0
    have required : ∀ m : Mode, m.required = true ↔ m ∈ [Mode.blank, .clear, .settle] := by rintro ⟨⟩ <;> decide
    rw [← List.range_eq_range'] at first
    simp only [libFieldsBad, libBounds, Bool.or_eq_true, Bool.not_eq_true', first, Nat.zero_le, true_and, Nat.zero_add,
      List.any_eq_true, badSet, Bool.and_eq_true, decide_eq_true_eq, required]
    grind
  simp only [libBeginChecks, libBeginCheck, firstRefusal_cons, firstRefusal_nil, Option.or_none]
  congr 1
  · exact failIf_congr (by simpa only [decide_eq_true_eq] using busy.symm) _
  · congr 1
    · exact failIf_congr (by simp) _
    · congr 1
      exact failIf_congr (by simpa only [decide_eq_true_eq] using fields.symm) _

theorem firstRefusal_libCommitChecks (p : List Byte) (s : State) :
    firstRefusal (libCommitChecks p s) = libCommitCheck p s := by
  simp only [libCommitChecks, libCommitCheck, firstRefusal_cons, firstRefusal_nil, Option.or_none, commitBusy]

theorem firstRefusal_tempChecks (p : List Byte) : firstRefusal (tempChecks p) = tempCheck p := by
  simp only [tempChecks, tempCheck, firstRefusal_cons, firstRefusal_nil, Option.or_none, Bool.decide_or]

theorem firstRefusal_countersChecks (p : List Byte) : firstRefusal (actionChecks p) = countersCheck p := by
  simp only [actionChecks, countersCheck, firstRefusal_cons, firstRefusal_nil, Option.or_none]

theorem firstRefusal_railsChecks (p : List Byte) : firstRefusal (actionChecks p) = railsCheck p := by
  simp only [actionChecks, railsCheck, firstRefusal_cons, firstRefusal_nil, Option.or_none]

/-! ### A refused command -/

/-- A command of a row that takes its kind in all forms, refused at a state at rest. -/
theorem refuses_of_refused {c : Instr} {k : Kind} {t : Transfer} {effect : List Byte → State → Effect} {s : State}
    {seq : Byte} {p : List Byte} {r : Result} (live : linkTakes s) (rest : settled s)
    (arrives : arrivalOf t = .command k seq p) (meaning : exec c s = takeKind k t effect s)
    (refusal : effect p (atRisingEdge t s) = refused (atRisingEdge t s) r) : refuses c k seq r s := by
  obtain ⟨u, next, reply, same⟩ := takeCommand_still (admits := anyPayload) (b := noBody) live rest arrives rfl refusal
  exact ⟨u, meaning.trans next, reply, same⟩

end Sys2Proof.Machine
end

