-- ==== Sys2Proof/Laws/Frames.lean ====
section
/-!
SUPPORT. Little-endian fields: their lengths, and that reading gives back what was written.
-/

namespace Sys2Proof.Machine

/-- A field has its number of bytes. -/
@[simp] theorem leBytes_length (n v : Nat) : (leBytes n v).length = n := by
  induction n generalizing v with
  | zero => rfl
  | succ n ih => simp [leBytes, ih]

/-- A field of n bytes reads as its value modulo 256^n. -/
theorem leNat_leBytes (n v : Nat) : leNat (leBytes n v) = v % 256 ^ n := by
  induction n generalizing v with
  | zero => simp [leBytes, leNat, Nat.mod_one]
  | succ n ih =>
    have split : v % 256 ^ (n + 1) = v % 256 + 256 * (v / 256 % 256 ^ n) := by
      rw [Nat.pow_succ', Nat.mod_mul]
    rw [split]
    simp only [leBytes, leNat, ih, BitVec.toNat_ofNat]

/-- The number of n bytes lies below 256^n. -/
theorem leNat_lt (bs : List Byte) : leNat bs < 256 ^ bs.length := by
  induction bs with
  | nil => simp [leNat]
  | cons b bs ih =>
    have low : b.toNat < 256 := b.isLt
    have high : leNat bs + 1 ≤ 256 ^ bs.length := ih
    have all : 256 * (leNat bs + 1) ≤ 256 * 256 ^ bs.length := Nat.mul_le_mul_left 256 high
    simp only [leNat, List.length_cons, Nat.pow_succ]
    omega

/-- A field of one byte lies below 256. -/
theorem field_one_lt (p : List Byte) (off : Nat) : field p off 1 < 256 := by
  have lt := leNat_lt ((p.drop off).take 1)
  have short : ((p.drop off).take 1).length ≤ 1 := List.length_take_le _ _
  have pow : 256 ^ ((p.drop off).take 1).length ≤ 256 ^ 1 := Nat.pow_le_pow_right (by decide) short
  simp only [Nat.pow_one] at pow
  exact Nat.lt_of_lt_of_le lt pow

/-- A field behind a run of bytes is read where the run ends. -/
theorem field_append (run rest : List Byte) (off size : Nat) (at_end : off = run.length) :
    field (run ++ rest) off size = leNat (rest.take size) := by
  subst at_end
  simp [field]

/-- A field of n bytes written behind a run of bytes reads as its value. -/
theorem field_of_leBytes (run rest : List Byte) (off n v : Nat) (at_end : off = run.length) (fits : v < 256 ^ n) :
    field (run ++ (leBytes n v ++ rest)) off n = v := by
  rw [field_append _ _ _ _ at_end, List.take_append_of_le_length (by simp), List.take_of_length_le (by simp),
    leNat_leBytes, Nat.mod_eq_of_lt fits]

/-- A kind's byte names the kind. -/
theorem Kind.ofCode_code (k : Kind) : Kind.ofCode k.code = some k := by cases k <;> rfl

/-- A byte that is no kind's names none. -/
theorem Kind.ofCode_of_unknown {b : Byte} (unknown : ∀ k : Kind, k.code ≠ b) : Kind.ofCode b = none := by
  unfold Kind.ofCode
  rw [List.find?_eq_none]
  intro k _
  simpa using unknown k

end Sys2Proof.Machine
end

