-- ==== Sys2Proof/Laws/Grants.lean ====
section
/-!
SUPPORT. What waiting for a grant comes to, said once: the client holds it, and where it did not hold it before, no refresh is
owed and nobody that stands before it waits.
-/

namespace Sys2Proof.Machine

/-- Every lane has its turn. -/
theorem mem_turnsAfter (last l : LaneId) : l ∈ turnsAfter last := by
  revert last l; decide

/-- Every client has a place in the order of precedence (R151, R152). -/
theorem mem_precedence (last : LaneId) (who : Requester) : who ∈ precedence last := by
  cases who <;> simp [precedence, mem_turnsAfter]

/-- A decision with refresh owed (R154). -/
theorem decideGrant_refresh {m : FrameMemory} (ready : m.calibrating = false) (idle : m.granted = none) (owed : 0 < m.debt) :
    decideGrant m = { m with granted := some .refresh, debt := m.debt - 1 } := by
  simp [decideGrant, ready, idle, owed]

/-- A decision without refresh owed, while a client waits: one of the waiting clients is granted that no waiting one
precedes (R151). -/
theorem decideGrant_client {m : FrameMemory} {who : Requester} (ready : m.calibrating = false) (idle : m.granted = none)
    (even : m.debt = 0) (waits : who ∈ m.waiting) :
    ∃ first r rest, precedence m.lastLane = first ++ r :: rest ∧ (∀ q ∈ first, q ∉ m.waiting) ∧ r ∈ m.waiting
      ∧ decideGrant m = grantBurst r m := by
  cases found : (precedence m.lastLane).find? fun r => m.waiting.contains r with
  | none =>
    rw [List.find?_eq_none] at found
    exact absurd waits (by simpa using found who (mem_precedence _ who))
  | some r =>
    obtain ⟨holds, first, rest, order, absent⟩ := List.find?_eq_some_iff_append.mp found
    refine ⟨first, r, rest, order, fun q mem => by simpa using absent q mem, by simpa using holds, ?_⟩
    unfold decideGrant
    rw [found]
    simp [ready, idle, even]

/-- A client granted leaves the clients waiting. -/
theorem grantBurst_waiting_lt {m : FrameMemory} {r : Requester} (waits : r ∈ m.waiting) :
    (grantBurst r m).waiting.length < m.waiting.length := by
  simp only [grantBurst]
  exact List.length_filter_lt_length_iff_exists.mpr ⟨r, waits, by simp⟩

/-- A client that holds the grant lets no other pass. -/
theorem passGrants_held {who : Requester} {m : FrameMemory} (holds : m.granted = some (.burst who true)) (n : Nat) :
    passGrants who n m = m := by
  cases n with
  | zero => rfl
  | succ n => rw [passGrants, if_pos holds]

/-- A client stands before another in the order of precedence, after some lane was served last (R151, R152). -/
def standsBefore (q who : Requester) : Prop :=
  ∃ last before after, precedence last = before ++ who :: after ∧ q ∈ before

/-- The memory from which a client is granted, where it began to wait in another: no refresh is owed, nobody that stands before
the client waits, nobody has come to wait, and who has been served stood before the client (R151, R152, R154). -/
def grantReady (who : Requester) (m i : FrameMemory) : Prop :=
  i.calibrating = false ∧ i.granted = none ∧ i.debt = 0 ∧ who ∈ i.waiting
    ∧ (∃ first rest, precedence i.lastLane = first ++ who :: rest ∧ ∀ q ∈ first, q ∉ i.waiting)
    ∧ (∀ q ∈ i.waiting, q ∈ m.waiting)
    ∧ ∀ q ∈ m.waiting, q ≠ who → q ∉ i.waiting → standsBefore q who

/-- Of two waiting clients, the one granted stands before the other. -/
theorem precedes_of_granted {last : LaneId} {first rest : List Requester} {r who : Requester} {waiting : List Requester}
    (order : precedence last = first ++ r :: rest) (absent : ∀ q ∈ first, q ∉ waiting) (waits : who ∈ waiting)
    (other : r ≠ who) : ∃ before after, precedence last = before ++ who :: after ∧ r ∈ before := by
  have mem : who ∈ first ++ r :: rest := order ▸ mem_precedence last who
  have behind : who ∈ rest := by
    rcases List.mem_append.mp mem with early | late
    · exact absurd waits (absent who early)
    · exact (List.mem_cons.mp late).resolve_left (Ne.symm other)
  obtain ⟨between, after, split⟩ := List.append_of_mem behind
  exact ⟨first ++ r :: between, after, by simp [order, split], by simp⟩

/-- Where enough grants may pass, a waiting client comes to be granted. -/
theorem passGrants_grants {who : Requester} {n : Nat} {m : FrameMemory} (ready : m.calibrating = false)
    (other : m.granted ≠ some (.burst who true)) (waits : who ∈ m.waiting) (room : m.debt + m.waiting.length ≤ n) :
    ∃ i, grantReady who m i ∧ passGrants who n m = decideGrant i := by
  induction n generalizing m with
  | zero =>
    have : 0 < m.waiting.length := List.length_pos_of_mem waits
    omega
  | succ n ih =>
    rw [passGrants, if_neg other]
    by_cases owed : 0 < m.debt
    · rw [decideGrant_refresh (m := { m with granted := none }) ready rfl owed]
      exact ih (m := { m with granted := some .refresh, debt := m.debt - 1 }) ready (by simp) waits (by simp only; omega)
    · have even : m.debt = 0 := by omega
      obtain ⟨first, r, rest, order, absent, mem, decision⟩ :=
        decideGrant_client (m := { m with granted := none }) ready rfl even waits
      have less := grantBurst_waiting_lt (m := { m with granted := none }) mem
      by_cases same : r = who
      · subst same
        refine ⟨{ m with granted := none }, ⟨ready, rfl, even, mem, ⟨first, rest, order, absent⟩, fun q waiting => waiting,
          fun q waiting _ gone => absurd waiting gone⟩, ?_⟩
        rw [decision, passGrants_held rfl]
      · have waits' : who ∈ (grantBurst r { m with granted := none }).waiting := by
          simpa [grantBurst, Ne.symm same] using waits
        have room' : (grantBurst r { m with granted := none }).debt + (grantBurst r { m with granted := none }).waiting.length
            ≤ n := by
          have : (grantBurst r { m with granted := none }).debt = m.debt := rfl
          simp only at less
          omega
        obtain ⟨i, ⟨calm, idle, paid, stays, place, from_, served⟩, reached⟩ :=
          ih (m := grantBurst r { m with granted := none }) ready (by simpa [grantBurst] using same) waits' room'
        refine ⟨i, ⟨calm, idle, paid, stays, place, fun q waiting => ?_, fun q waiting this gone => ?_⟩, by rw [decision, reached]⟩
        · exact List.mem_of_mem_filter (from_ q waiting)
        · by_cases granted : q = r
          · subst granted
            obtain ⟨before, after, split, before_⟩ := precedes_of_granted order absent waits same
            exact ⟨m.lastLane, before, after, split, before_⟩
          · exact served q (by simpa [grantBurst, granted] using waiting) this gone

/-- From such a memory the client is granted (R151). -/
theorem grantReady_decision {who : Requester} {m i : FrameMemory} (h : grantReady who m i) :
    decideGrant i = grantBurst who i := by
  obtain ⟨ready, idle, even, waits, ⟨first, rest, order, absent⟩, -, -⟩ := h
  have found : (precedence i.lastLane).find? (fun r => i.waiting.contains r) = some who :=
    List.find?_eq_some_iff_append.mpr ⟨by simpa using waits, first, rest, order, fun q mem => by simpa using absent q mem⟩
  unfold decideGrant
  rw [found]
  simp [ready, idle, even]

/-- The client holds the grant then, and no refresh is owed. -/
theorem grantReady_decides {who : Requester} {m i : FrameMemory} (h : grantReady who m i) :
    (decideGrant i).granted = some (.burst who true) ∧ (decideGrant i).debt = 0 := by
  rw [grantReady_decision h]
  exact ⟨rfl, h.2.2.1⟩

/-- A client that waits for the grant comes to hold it; where it did not hold it before, it is granted from a memory in which no
refresh is owed and nobody that stands before it waits (R151, R152, R154). -/
theorem reachGrant_grants (who : Requester) {m : FrameMemory} (ready : m.calibrating = false) :
    (reachGrant who m).granted = some (.burst who true)
      ∧ (m.granted ≠ some (.burst who true) →
          ∃ i, grantReady who { m with waiting := if m.waiting.contains who then m.waiting else m.waiting ++ [who] } i
            ∧ reachGrant who m = decideGrant i) := by
  unfold reachGrant
  split
  · rename_i holds
    exact ⟨holds, fun other => absurd holds other⟩
  · rename_i other
    have waits : who ∈ (if m.waiting.contains who then m.waiting else m.waiting ++ [who]) := by
      split
      · simpa using ‹m.waiting.contains who = true›
      · simp
    obtain ⟨i, grant, reached⟩ :=
      passGrants_grants (m := { m with waiting := if m.waiting.contains who then m.waiting else m.waiting ++ [who] })
        ready other waits (Nat.le_refl _)
    exact ⟨by rw [reached]; exact (grantReady_decides grant).1, fun _ => ⟨i, grant, reached⟩⟩

/-- Who waits when the client has its grant waited before, or is the client; and who no longer waits stood before it. -/
theorem reachGrant_waiting (who : Requester) {m : FrameMemory} (ready : m.calibrating = false) (q : Requester) :
    (q ∈ (reachGrant who m).waiting → q = who ∨ q ∈ m.waiting)
      ∧ (q ∈ m.waiting → q ≠ who → q ∉ (reachGrant who m).waiting → standsBefore q who) := by
  by_cases holds : m.granted = some (.burst who true)
  · rw [reachGrant, if_pos holds]
    exact ⟨.inr, fun waits _ gone => absurd waits gone⟩
  · obtain ⟨i, grant, reached⟩ := (reachGrant_grants who ready).2 holds
    have after : (reachGrant who m).waiting = i.waiting.filter fun q => q ≠ who := by
      rw [reached, grantReady_decision grant]
      rfl
    obtain ⟨-, -, -, -, -, from_, served⟩ := grant
    rw [after]
    refine ⟨fun waits => ?_, fun waits other gone => served q ?_ other fun still => gone ?_⟩
    · have began := from_ q (List.mem_of_mem_filter waits)
      simp only at began
      split at began
      · exact .inr began
      · exact (List.mem_append.mp began).elim .inr fun last => .inl (List.mem_singleton.mp last)
    · simp only
      split
      · exact waits
      · exact List.mem_append_left _ waits
    · exact List.mem_filter.mpr ⟨still, by simpa using other⟩

/-- With units left, the operation's client holds the grant at its last burst; where its rest takes more than one burst, or it
did not hold the grant before, it is granted from a memory in which no refresh is owed and nobody that stands before it waits;
nobody has come to wait, and who has been served stood before the client (R151, R152, R154). -/
theorem lastBursts_grants (who : Requester) (s : State) (ready : s.mem.calibrating = false) (left : 0 < restOf s who) :
    (lastBursts who s).mem.granted = some (.burst who true)
      ∧ (s.mem.granted ≠ some (.burst who true) ∨ burstUnits who < restOf s who →
          (lastBursts who s).mem.debt = 0
            ∧ ∃ i, (lastBursts who s).mem = decideGrant i ∧ i.calibrating = false ∧ i.granted = none ∧ i.debt = 0
              ∧ who ∈ i.waiting
              ∧ (∃ first rest, precedence i.lastLane = first ++ who :: rest ∧ ∀ q ∈ first, q ∉ i.waiting)
              ∧ ∀ q, (q ∈ i.waiting → q = who ∨ q ∈ s.mem.waiting)
                ∧ (q ∈ s.mem.waiting → q ≠ who → q ∉ i.waiting → standsBefore q who)) := by
  have began (m : FrameMemory) (q : Requester) :
      (q ∈ (if m.waiting.contains who then m.waiting else m.waiting ++ [who]) → q = who ∨ q ∈ m.waiting)
        ∧ (q ∈ m.waiting → q ∈ (if m.waiting.contains who then m.waiting else m.waiting ++ [who])) := by
    constructor
    · intro h
      split at h
      · exact .inr h
      · exact (List.mem_append.mp h).elim .inr fun last => .inl (List.mem_singleton.mp last)
    · intro h
      split
      · exact h
      · exact List.mem_append_left _ h
  unfold lastBursts
  rw [if_neg (by simp [ready, Nat.pos_iff_ne_zero.mp left])]
  split
  · rename_i fits
    have reached := reachGrant_grants who ready
    refine ⟨reached.1, fun why => ?_⟩
    obtain ⟨i, grant, same⟩ := reached.2 (why.resolve_right (Nat.not_lt.mpr fits))
    refine ⟨by rw [same]; exact (grantReady_decides grant).2, i, same, grant.1, grant.2.1, grant.2.2.1, grant.2.2.2.1,
      grant.2.2.2.2.1, fun q => ⟨fun waits => (began _ q).1 (grant.2.2.2.2.2.1 q waits), fun waits other gone => ?_⟩⟩
    exact grant.2.2.2.2.2.2 q ((began _ q).2 waits) other gone
  · have reached := reachGrant_grants who (m := { reachGrant who s.mem with granted := none }) (by simp [ready])
    refine ⟨reached.1, fun _ => ?_⟩
    obtain ⟨i, grant, same⟩ := reached.2 (by simp)
    refine ⟨by rw [same]; exact (grantReady_decides grant).2, i, same, grant.1, grant.2.1, grant.2.2.1, grant.2.2.2.1,
      grant.2.2.2.2.1, fun q => ⟨fun waits => ?_, fun waits other gone => ?_⟩⟩
    · exact ((began _ q).1 (grant.2.2.2.2.2.1 q waits)).elim .inl (reachGrant_waiting who ready q).1
    · by_cases still : q ∈ (reachGrant who s.mem).waiting
      · exact grant.2.2.2.2.2.2 q ((began { reachGrant who s.mem with granted := none } q).2 still) other gone
      · exact (reachGrant_waiting who ready q).2 waits other still

end Sys2Proof.Machine
end

