-- ==== Sys2Proof/Laws/Stores.lean ====
section
/-!
SUPPORT. What the sparse stores do: reading after writing, the canonical form, and that every operation on staging bytes, on
pixel records and on the free page list keeps it.
-/

namespace Sys2Proof.Machine

/-! ### Sparse stores -/

/-- The canonical form is: keys strictly rising. -/
theorem storeWf_iff {α : Type} (m : List (Nat × α)) : storeWf m = true ↔ m.Pairwise fun a b => a.1 < b.1 := by
  induction m with
  | nil => simp [storeWf]
  | cons e m ih =>
    cases m with
    | nil => simp [storeWf]
    | cons e' m =>
      simp only [storeWf, Bool.and_eq_true, decide_eq_true_eq, ih, List.pairwise_cons]
      constructor
      · rintro ⟨lt, below, tail⟩
        refine ⟨?_, below, tail⟩
        intro a mem
        rcases List.mem_cons.mp mem with rfl | mem
        · exact lt
        · exact Nat.lt_trans lt (below a mem)
      · rintro ⟨all, below, tail⟩
        exact ⟨all e' (by simp), below, tail⟩

/-- A key just written reads as written, and every other key as before; no canonical form is needed. -/
theorem storeGet_put {α : Type} (m : List (Nat × α)) (key k : Nat) (v : α) :
    storeGet (storePut m key v) k = if k = key then some v else storeGet m k := by
  induction m with
  | nil => simp only [storePut, storeGet, eq_comm (a := k)]
  | cons e m ih =>
    obtain ⟨k', w⟩ := e
    simp only [storePut]
    split
    · simp only [storeGet, eq_comm (a := k)]
    · split
      · rename_i same
        simp only [storeGet, same, eq_comm (a := k)]
        split <;> rfl
      · rename_i other
        simp only [storeGet, ih]
        by_cases here : k' = k
        · rw [if_pos here, if_neg fun same => other (same.symm.trans here.symm), if_pos here]
        · rw [if_neg here, if_neg here]

/-- What a store lists after a write was listed before or is the pair written. -/
theorem mem_storePut {α : Type} {m : List (Nat × α)} {key : Nat} {v : α} {e : Nat × α} (h : e ∈ storePut m key v) :
    e = (key, v) ∨ e ∈ m := by
  induction m with
  | nil => simpa [storePut] using h
  | cons e' m ih =>
    obtain ⟨k', w⟩ := e'
    simp only [storePut] at h
    split at h
    · simpa using h
    · split at h
      · rcases List.mem_cons.mp h with h | h
        · exact .inl h
        · exact .inr (List.mem_cons_of_mem _ h)
      · rcases List.mem_cons.mp h with h | h
        · exact .inr (h ▸ List.mem_cons_self)
        · rcases ih h with h | h
          · exact .inl h
          · exact .inr (List.mem_cons_of_mem _ h)

/-- A write keeps the canonical form. -/
theorem storePut_wf {α : Type} {m : List (Nat × α)} (h : storeWf m = true) (key : Nat) (v : α) :
    storeWf (storePut m key v) = true := by
  rw [storeWf_iff] at h ⊢
  induction m with
  | nil => simp [storePut]
  | cons e m ih =>
    obtain ⟨k, w⟩ := e
    obtain ⟨below, tail⟩ := List.pairwise_cons.mp h
    simp only [storePut]
    split
    · rename_i lt
      refine List.pairwise_cons.mpr ⟨?_, h⟩
      intro a mem
      rcases List.mem_cons.mp mem with rfl | mem
      · exact lt
      · exact Nat.lt_trans lt (below a mem)
    · split
      · subst_vars
        exact List.pairwise_cons.mpr ⟨below, tail⟩
      · refine List.pairwise_cons.mpr ⟨?_, ih tail⟩
        intro a mem
        rcases mem_storePut mem with rfl | mem
        · dsimp only; omega
        · exact below a mem

/-- What a store lists after an erasure was listed before. -/
theorem mem_storeErase {α : Type} {m : List (Nat × α)} {key : Nat} {e : Nat × α} (h : e ∈ storeErase m key) : e ∈ m := by
  induction m with
  | nil => exact h
  | cons e' m ih =>
    obtain ⟨k', w⟩ := e'
    simp only [storeErase] at h
    split at h
    · exact List.mem_cons_of_mem _ h
    · rcases List.mem_cons.mp h with h | h
      · exact h ▸ List.mem_cons_self
      · exact List.mem_cons_of_mem _ (ih h)

/-- An erasure keeps the canonical form. -/
theorem storeErase_wf {α : Type} {m : List (Nat × α)} (h : storeWf m = true) (key : Nat) :
    storeWf (storeErase m key) = true := by
  rw [storeWf_iff] at h ⊢
  induction m with
  | nil => simp [storeErase]
  | cons e m ih =>
    obtain ⟨k, w⟩ := e
    obtain ⟨below, tail⟩ := List.pairwise_cons.mp h
    simp only [storeErase]
    split
    · exact tail
    · exact List.pairwise_cons.mpr ⟨fun a mem => below a (mem_storeErase mem), ih tail⟩

/-- Nothing is listed under a key below every key. -/
theorem storeGet_below {α : Type} {m : List (Nat × α)} {k : Nat} (h : ∀ e ∈ m, k < e.1) : storeGet m k = none := by
  induction m with
  | nil => rfl
  | cons e m ih =>
    obtain ⟨k', w⟩ := e
    have lt : k < k' := h (k', w) List.mem_cons_self
    simp only [storeGet]
    rw [if_neg (by omega)]
    exact ih fun e mem => h e (List.mem_cons_of_mem _ mem)

/-- In a canonical store a key erased reads as unlisted, and every other key as before. -/
theorem storeGet_erase {α : Type} {m : List (Nat × α)} (h : storeWf m = true) (key k : Nat) :
    storeGet (storeErase m key) k = if k = key then none else storeGet m k := by
  rw [storeWf_iff] at h
  induction m with
  | nil => simp [storeErase, storeGet]
  | cons e m ih =>
    obtain ⟨k', w⟩ := e
    obtain ⟨below, tail⟩ := List.pairwise_cons.mp h
    simp only [storeErase]
    split
    · rename_i here
      by_cases same : k = key
      · rw [if_pos same]
        exact storeGet_below fun e mem => same.trans here.symm ▸ below e mem
      · rw [if_neg same]
        simp only [storeGet]
        rw [if_neg fun other => same (other.symm.trans here)]
    · simp only [storeGet, ih tail]
      split <;> split <;> simp_all

/-- A store is read by what it lists: with rising keys, a listed pair is what its key reads as. -/
theorem storeGet_of_mem {α : Type} {m : List (Nat × α)} (h : storeWf m = true) {k : Nat} {v : α} (mem : (k, v) ∈ m) :
    storeGet m k = some v := by
  rw [storeWf_iff] at h
  induction m with
  | nil => cases mem
  | cons e m ih =>
    obtain ⟨k', w⟩ := e
    obtain ⟨below, tail⟩ := List.pairwise_cons.mp h
    rcases List.mem_cons.mp mem with same | mem
    · cases same; simp [storeGet]
    · have lt : k' < k := below (k, v) mem
      simp only [storeGet]
      rw [if_neg (by omega)]
      exact ih tail mem

/-- What a key reads as is listed. -/
theorem mem_of_storeGet {α : Type} {m : List (Nat × α)} {k : Nat} {v : α} (h : storeGet m k = some v) : (k, v) ∈ m := by
  induction m with
  | nil => cases h
  | cons e m ih =>
    obtain ⟨k', w⟩ := e
    simp only [storeGet] at h
    split at h
    · subst_vars; cases h; exact List.mem_cons_self
    · exact List.mem_cons_of_mem _ (ih h)

/-! ### Staging bytes -/

/-- A write of a staging byte: that address reads as written, every other as before. -/
theorem stagingByte_writeStaging (a b : Nat) (v : Byte) (s : State) :
    stagingByte (writeStaging a v s) b = if b = a then v else stagingByte s b := by
  simp only [stagingByte, writeStaging, storeGet_put]
  split <;> rfl

/-- Staging bytes are read off the pool's bytes and the power epoch. -/
theorem stagingByte_congr {s t : State} (bytes : t.pool.bytes = s.pool.bytes) (epoch : t.mem.epoch = s.mem.epoch)
    (a : Nat) : stagingByte t a = stagingByte s a := by
  simp only [stagingByte, bytes, epoch]

/-- A write of an image byte writes the staging byte where it lies, and no other. -/
theorem stagingByte_writeImage (pages : List Nat) (b a : Nat) (v : Byte) (s : State) :
    stagingByte (writeImage pages b v s) a = if imageAddress pages b = some a then v else stagingByte s a := by
  unfold writeImage
  cases imageAddress pages b with
  | none => simp
  | some c =>
    simp only [stagingByte_writeStaging, Option.some.injEq]
    by_cases same : a = c
    · simp [same]
    · simp [same, Ne.symm same]

/-- Different image bytes of a page list without duplicates lie at different addresses. -/
theorem imageAddress_inj {pages : List Nat} (distinct : pages.Nodup) {b c a : Nat} (hb : imageAddress pages b = some a)
    (hc : imageAddress pages c = some a) : b = c := by
  simp only [imageAddress, Option.map_eq_some_iff] at hb hc
  obtain ⟨p, hp, eb⟩ := hb
  obtain ⟨q, hq, ec⟩ := hc
  have pb : b % Config.pageBytes < 4096 := Nat.mod_lt _ (by decide)
  have pc : c % Config.pageBytes < 4096 := Nat.mod_lt _ (by decide)
  have page : p = q := by simp only [Config.pageBytes] at *; omega
  subst page
  obtain ⟨lb, vb⟩ := List.getElem?_eq_some_iff.mp hp
  obtain ⟨lc, vc⟩ := List.getElem?_eq_some_iff.mp hq
  have index : b / Config.pageBytes = c / Config.pageBytes :=
    (List.getElem_inj distinct).mp (vb.trans vc.symm)
  simp only [Config.pageBytes] at *
  omega

/-- A run of image bytes written from b on: an address where byte b + i of the image lies reads as the run's byte i. -/
theorem stagingByte_writeImageBytes {pages : List Nat} (distinct : pages.Nodup) (vs : List Byte) (b : Nat) (s : State)
    {i a : Nat} {v : Byte} (value : vs[i]? = some v) (place : imageAddress pages (b + i) = some a) :
    stagingByte (writeImageBytes pages b vs s) a = v := by
  induction vs generalizing b s i with
  | nil => simp at value
  | cons w ws ih =>
    simp only [writeImageBytes]
    cases i with
    | zero =>
      simp only [List.getElem?_cons_zero, Option.some.injEq] at value
      subst value
      have rest : ∀ (ws : List Byte) (c : Nat) (t : State), b < c →
          stagingByte (writeImageBytes pages c ws t) a = stagingByte t a := by
        intro ws
        induction ws with
        | nil => intros; rfl
        | cons x xs ihx =>
          intro c t lt
          simp only [writeImageBytes]
          rw [ihx (c + 1) _ (by omega), stagingByte_writeImage, if_neg]
          intro other
          have := imageAddress_inj distinct place other
          omega
      rw [rest ws (b + 1) _ (by omega), stagingByte_writeImage, if_pos (by simpa using place)]
    | succ i =>
      refine ih (b + 1) _ (i := i) (by simpa using value) ?_
      rw [← place]; congr 1; omega

/-- A run of image bytes written from b on leaves every address where none of its bytes lies. -/
theorem stagingByte_writeImageBytes_other (pages : List Nat) (vs : List Byte) (b : Nat) (s : State) {a : Nat}
    (off : ∀ i, i < vs.length → imageAddress pages (b + i) ≠ some a) :
    stagingByte (writeImageBytes pages b vs s) a = stagingByte s a := by
  induction vs generalizing b s with
  | nil => rfl
  | cons v vs ih =>
    simp only [writeImageBytes]
    rw [ih (b + 1), stagingByte_writeImage, if_neg]
    · simpa using off 0 (by simp)
    · intro i lt
      have := off (i + 1) (by simpa using lt)
      rwa [show b + 1 + i = b + (i + 1) by omega]

/-- Every operation on staging bytes keeps the canonical form of the staging memory: one byte … -/
theorem writeStaging_wf {s : State} (h : Memory.wf s.pool.bytes = true) (a : Nat) (v : Byte) :
    Memory.wf (writeStaging a v s).pool.bytes = true := storePut_wf h a v

/-- … one byte of an image … -/
theorem writeImage_wf {s : State} (h : Memory.wf s.pool.bytes = true) (pages : List Nat) (b : Nat) (v : Byte) :
    Memory.wf (writeImage pages b v s).pool.bytes = true := by
  unfold writeImage
  split
  · exact writeStaging_wf h _ _
  · exact h

/-- … a run of bytes of an image … -/
theorem writeImageBytes_wf (pages : List Nat) (vs : List Byte) (b : Nat) {s : State}
    (h : Memory.wf s.pool.bytes = true) : Memory.wf (writeImageBytes pages b vs s).pool.bytes = true := by
  induction vs generalizing b s with
  | nil => exact h
  | cons v vs ih => exact ih (b + 1) (writeImage_wf h pages b v)

/-- … the bytes of a snapshot … -/
theorem copyPixels_wf (j : Job) (n i : Nat) (half : Option Level) {s : State} (h : Memory.wf s.pool.bytes = true) :
    Memory.wf (copyPixels j n i half s).2.pool.bytes = true := by
  induction n generalizing i half s with
  | zero => exact h
  | succ n ih =>
    unfold copyPixels
    cases half with
    | none => exact ih _ _ h
    | some left => exact ih _ _ (writeImage_wf h _ _ _)

/-- … a snapshot going forward … -/
theorem advanceCopy_wf (n : Nat) {s : State} (h : Memory.wf s.pool.bytes = true) :
    Memory.wf (advanceCopy n s).pool.bytes = true := by
  unfold advanceCopy
  split
  · exact h
  · exact copyPixels_wf _ _ _ _ h

/-- … and a chunk write going forward. -/
theorem advanceChunk_wf (n : Nat) {s : State} (h : Memory.wf s.pool.bytes = true) :
    Memory.wf (advanceChunk n s).pool.bytes = true := by
  unfold advanceChunk
  split
  · dsimp only
    split
    · exact h
    · exact writeImageBytes_wf _ _ _ h
  · exact h

/-- The staging memory is in canonical form after power-on, with nothing listed. -/
theorem reset_memory_wf : Memory.wf State.reset.pool.bytes = true := rfl

/-! ### Pixel records -/

/-- The canonical form of the pixel table, split in its two halves. -/
theorem pixelsWf_iff (m : List (Nat × PixelRecord)) :
    pixelsWf m = true ↔ storeWf m = true ∧ ∀ e ∈ m, e.2 ≠ PixelRecord.initial := by
  simp [pixelsWf]

/-- A record put in its place keeps the canonical form. -/
theorem putPixel_wf {m : List (Nat × PixelRecord)} (h : pixelsWf m = true) (key : Nat) (r : PixelRecord) :
    pixelsWf (putPixel m key r) = true := by
  rw [pixelsWf_iff] at h ⊢
  unfold putPixel
  split
  · exact ⟨storeErase_wf h.1 key, fun e mem => h.2 e (mem_storeErase mem)⟩
  · rename_i fresh
    refine ⟨storePut_wf h.1 key r, ?_⟩
    intro e mem
    rcases mem_storePut mem with rfl | mem
    · exact fresh
    · exact h.2 e mem

/-- The record read at a key after a put is the one put, in a canonical table or where it differs from a fresh one. -/
theorem putPixel_get {m : List (Nat × PixelRecord)} {key : Nat} {r : PixelRecord}
    (h : storeWf m = true ∨ r ≠ PixelRecord.initial) (k : Nat) :
    (storeGet (putPixel m key r) k).getD PixelRecord.initial
      = if k = key then r else (storeGet m k).getD PixelRecord.initial := by
  unfold putPixel
  split
  · rename_i fresh
    rcases h with h | h
    · rw [storeGet_erase h]
      split <;> simp [fresh]
    · exact absurd fresh h
  · rw [storeGet_put]
    split <;> rfl

/-- Two pixels of the panel with one record number are one pixel (R1). -/
theorem recordNumber_inj {w x y x' y' : Nat} (hx : x < w) (hx' : x' < w) :
    y * w + x = y' * w + x' ↔ x = x' ∧ y = y' := by
  constructor
  · intro same
    have pos : 0 < w := by omega
    have col : x = x' := by
      have := congrArg (· % w) same
      simpa [Nat.mod_eq_of_lt hx, Nat.mod_eq_of_lt hx'] using this
    refine ⟨col, ?_⟩
    subst col
    exact Nat.eq_of_mul_eq_mul_right pos (by omega)
  · rintro ⟨rfl, rfl⟩; rfl

/-- An update of one pixel's record: that pixel has the new record, and every other pixel of the panel its own. -/
theorem pixelAt_updatePixel {s : State} {x y : Nat} {f : PixelRecord → PixelRecord} (hx : x < panelWidth s)
    (h : storeWf s.px.pixels = true ∨ f (pixelAt s x y) ≠ PixelRecord.initial) {x' y' : Nat} (hx' : x' < panelWidth s) :
    pixelAt (updatePixel x y f s) x' y' = if x' = x ∧ y' = y then f (pixelAt s x y) else pixelAt s x' y' := by
  have get := putPixel_get h (y' * panelWidth s + x') (key := y * panelWidth s + x)
  simp only [recordNumber_inj hx' hx] at get
  exact get

/-- A map over the listed records keeps the canonical form. -/
theorem mapPixels_wf (f : Nat → PixelRecord → PixelRecord) {m : List (Nat × PixelRecord)} (h : pixelsWf m = true) :
    pixelsWf (mapPixels f m) = true := by
  rw [pixelsWf_iff, storeWf_iff] at h ⊢
  refine ⟨?_, fun e mem => ?_⟩
  · exact List.Pairwise.filter _ (List.pairwise_map.mpr h.1)
  · simpa using (List.mem_filter.mp mem).2

/-- A record read after a map over the listed ones: mapped if it was listed, else as a fresh table has it. -/
theorem mapPixels_get (f : Nat → PixelRecord → PixelRecord) {m : List (Nat × PixelRecord)} (h : storeWf m = true)
    (k : Nat) :
    (storeGet (mapPixels f m) k).getD PixelRecord.initial
      = match storeGet m k with | some r => f k r | none => PixelRecord.initial := by
  rw [storeWf_iff] at h
  induction m with
  | nil => rfl
  | cons e m ih =>
    obtain ⟨k', r⟩ := e
    obtain ⟨below, tail⟩ := List.pairwise_cons.mp h
    have cons : mapPixels f ((k', r) :: m)
        = if f k' r = PixelRecord.initial then mapPixels f m else (k', f k' r) :: mapPixels f m := by
      simp only [mapPixels, List.map_cons, List.filter_cons]
      by_cases fresh : f k' r = PixelRecord.initial <;> simp [fresh]
    rw [cons]
    by_cases same : k' = k
    · subst same
      simp only [storeGet, if_true]
      split
      · rename_i fresh
        rw [ih tail, storeGet_below fun e mem => below e mem, fresh]
      · simp [storeGet]
    · split
      · simp only [storeGet, if_neg same, ih tail]
      · simp only [storeGet, if_neg same, ih tail]

/-! ### The free page list -/

/-- A page put back in its place keeps the list rising. -/
theorem insertPage_rising (m : List Nat) (p : Nat) (h : m.Pairwise fun a b => a < b) :
    (insertPage m p).Pairwise (fun a b => a < b) ∧ ∀ q, q ∈ insertPage m p ↔ q = p ∨ q ∈ m := by
  induction m with
  | nil => simp [insertPage]
  | cons q m ih =>
    obtain ⟨below, tail⟩ := List.pairwise_cons.mp h
    obtain ⟨rising, members⟩ := ih tail
    simp only [insertPage]
    split
    · rename_i lt
      refine ⟨List.pairwise_cons.mpr ⟨?_, h⟩, by simp⟩
      intro a mem
      rcases List.mem_cons.mp mem with rfl | mem
      · exact lt
      · exact Nat.lt_trans lt (below a mem)
    · split
      · subst_vars
        exact ⟨h, by simp⟩
      · refine ⟨List.pairwise_cons.mpr ⟨?_, rising⟩, ?_⟩
        · intro a mem
          rcases (members a).mp mem with rfl | mem
          · omega
          · exact below a mem
        · intro a
          simp only [List.mem_cons, members, or_left_comm]

/-- Pages that return keep the free page list rising. -/
theorem returnPages_rising {s : State} (h : s.pool.free.Pairwise fun a b => a < b) (pages : List Nat) :
    (returnPages pages s).pool.free.Pairwise fun a b => a < b := by
  simp only [returnPages]
  generalize s.pool.free = m at h
  induction pages generalizing m with
  | nil => exact h
  | cons p pages ih => exact ih _ (insertPage_rising m p h).1

/-- Pages taken keep the free page list rising. -/
theorem takePages_rising {s : State} (h : s.pool.free.Pairwise fun a b => a < b) (r : Rect) :
    (takePages r s).pool.free.Pairwise fun a b => a < b := h.drop

/-- Pages of a rising list taken from its front are distinct. -/
theorem allocation_nodup {s : State} (h : s.pool.free.Pairwise fun a b => a < b) (r : Rect) : (allocation r s).Nodup := by
  unfold allocation
  exact (h.take).imp fun lt => Nat.ne_of_lt lt

end Sys2Proof.Machine
end

