-- ==== Sys2Proof/Laws/Jobs.lean ====
section
/-!
SUPPORT. What the judging of the copier's jobs does, said once in the terms of R120: when a job may start, and which one is
started.
-/

namespace Sys2Proof.Machine

open Sys2Proof.Safety

/-- The listed records tell whether a pixel of a rectangle of the panel is owned (R13, R120). -/
theorem anyOwned_of_owner {s : State} {r : Rect} {x y : Nat} {l : LaneId} (inside : x < panelWidth s)
    (there : r.contains x y = true) (own : (pixelAt s x y).owner = some l) : anyOwned s r = true := by
  unfold pixelAt at own
  cases listed : storeGet s.px.pixels (y * panelWidth s + x) with
  | none => simp [listed, PixelRecord.initial] at own
  | some p =>
    rw [listed, Option.getD_some] at own
    refine List.any_eq_true.mpr ⟨_, mem_of_storeGet listed, ?_⟩
    have column : (y * panelWidth s + x) % panelWidth s = x := by
      rw [Nat.mul_comm, Nat.mul_add_mod, Nat.mod_eq_of_lt inside]
    have row : (y * panelWidth s + x) / panelWidth s = y := by
      rw [Nat.mul_comm, Nat.mul_add_div (by omega), Nat.div_eq_of_lt inside, Nat.add_zero]
    simp [own, column, row, there]

/-- Where no pixel of a rectangle has an owner, no listed record says otherwise (R13, R120). -/
theorem anyOwned_of_free {s : State} {r : Rect} (wf : pixelsWf s.px.pixels = true)
    (free : ∀ x y, r.contains x y = true → (pixelAt s x y).owner = none) : anyOwned s r = false := by
  refine Bool.eq_false_iff.mpr fun owned => ?_
  obtain ⟨⟨key, p⟩, mem, here⟩ := List.any_eq_true.mp owned
  simp only [Bool.and_eq_true] at here
  have read : pixelAt s (key % panelWidth s) (key / panelWidth s) = p := by
    unfold pixelAt
    rw [Nat.div_add_mod', storeGet_of_mem (Bool.and_eq_true_iff.mp wf).1 mem, Option.getD_some]
  have none := free _ _ here.2
  rw [read] at none
  simp [none] at here

/-- The start test of the model is that of R120, for a job whose source lies within the panel's columns. -/
theorem startable_iff_mayStart {s : State} {j : Job} (wf : pixelsWf s.px.pixels = true)
    (inside : ∀ x y, j.rect.contains x y = true → x < panelWidth s) : startable s j = true ↔ mayStart s j := by
  have owned : anyOwned s j.rect = false ↔ ∀ x y, j.rect.contains x y = true → (pixelAt s x y).owner = none := by
    refine ⟨fun no x y there => ?_, anyOwned_of_free wf⟩
    cases own : (pixelAt s x y).owner with
    | none => rfl
    | some l => rw [anyOwned_of_owner (inside x y there) there own] at no; cases no
  have pending : j.running = false ↔ j.state = .pending := by
    unfold Job.running
    cases j.state <;> simp
  have older : (s.req.queue.any fun e =>
        decide (e.age < j.age) && match findAge s e.age with | some r => r.rect.intersects j.rect | none => false) = false
      ↔ ∀ e ∈ s.req.queue, e.age < j.age → ∀ r, findAge s e.age = some r → r.rect.intersects j.rect = false := by
    simp only [List.any_eq_false, Bool.and_eq_true, decide_eq_true_eq, not_and, Bool.not_eq_true]
    refine forall₃_congr fun e _ _ => ?_
    cases findAge s e.age <;> simp
  have walking : initialising s = false ↔ s.px.walk = none := by simp [initialising]
  simp only [startable, Bool.and_eq_true, Bool.not_eq_true', mayStart, owned, pending, walking, and_assoc]
  exact and_congr_right fun _ => and_congr_right fun _ => and_congr_right fun _ => older

/-- A job that may start is one the model's test finds, wherever its source lies (R120). -/
theorem startable_of_mayStart {s : State} {j : Job} (wf : pixelsWf s.px.pixels = true) (may : mayStart s j) :
    startable s j = true := by
  obtain ⟨pending, free, still, order⟩ := may
  simp only [startable, Bool.and_eq_true, Bool.not_eq_true', anyOwned_of_free wf free, initialising, still, Job.running,
    pending, Option.isSome_none, true_and, and_self, List.any_eq_false, decide_eq_true_eq, not_and, Bool.not_eq_true]
  intro e mem younger
  cases found : findAge s e.age with
  | none => rfl
  | some r => exact order e mem younger r found

/-- The judging leaves nothing to judge: a job is RUNNING, or none may start (R120). -/
theorem judgeJobs_judged {s : State} (wf : pixelsWf s.px.pixels = true) : jobsJudged (judgeJobs s) := by
  unfold judgeJobs
  split
  · rename_i run
    exact .inl (List.any_eq_true.mp run)
  · split
    · rename_i none
      exact .inr fun j mem may => absurd (startable_of_mayStart wf may) (List.find?_eq_none.mp none j mem)
    · rename_i j found
      refine .inl ⟨{ j with state := .running 0 none }, ?_, rfl⟩
      simp only [beginWait]
      split <;> exact List.mem_map.mpr ⟨j, List.mem_of_find?_eq_some found, by simp⟩

/-- With none RUNNING, the oldest job that may start is started, and no other (R119, R120). -/
theorem judgeJobs_starts {s : State} {first later : List Job} {j : Job} (jobs : s.copier.jobs = first ++ j :: later)
    (idle : ∀ k ∈ s.copier.jobs, k.running = false) (ages : s.copier.jobs.Pairwise fun a b => a.age < b.age)
    (before : ∀ k ∈ first, startable s k = false) (may : startable s j = true) :
    (judgeJobs s).copier = { s.copier with jobs := first ++ { j with state := .running 0 none } :: later }
      ∧ .copier ∈ (judgeJobs s).mem.waiting := by
  have found : s.copier.jobs.find? (startable s) = some j := by
    rw [jobs, List.find?_append, List.find?_eq_none.mpr fun k mem => by simp [before k mem]]
    simp [may]
  have still : s.copier.jobs.any Job.running = false := by
    simp only [List.any_eq_false, Bool.not_eq_true]
    exact idle
  rw [jobs, List.pairwise_append, List.pairwise_cons] at ages
  have others : ∀ k ∈ first ++ later, k.age ≠ j.age := fun k mem => by
    rcases List.mem_append.mp mem with h | h
    · exact Nat.ne_of_lt (ages.2.2 k h j List.mem_cons_self)
    · exact Nat.ne_of_gt (ages.2.1.1 k h)
  have started : (s.copier.jobs.map fun k => if k.age = j.age then { k with state := .running 0 none } else k)
      = first ++ { j with state := .running 0 none } :: later := by
    have same : ∀ ks : List Job, (∀ k ∈ ks, k.age ≠ j.age) →
        (ks.map fun k => if k.age = j.age then { k with state := .running 0 none } else k) = ks := fun ks other =>
      (List.map_congr_left fun k mem => if_neg (other k mem)).trans (List.map_id' ks)
    rw [jobs, List.map_append, List.map_cons, if_pos rfl, same first fun k mem => others k (List.mem_append_left _ mem),
      same later fun k mem => others k (List.mem_append_right _ mem)]
  unfold judgeJobs
  rw [still, found]
  simp only [Bool.false_eq_true, if_false, started, beginWait]
  split
  · rename_i waits
    exact ⟨rfl, by simpa using waits⟩
  · simp

end Sys2Proof.Machine
end

