-- ==== Sys2Proof/Laws/Tidies.lean ====
section
/-!
SUPPORT. What the shared operations on requests may do, said once: `Tidies before after`. Requests and jobs may leave or have
their progress noted, queue entries may leave, notices may come, records may join the log; nothing is created.
-/

namespace Sys2Proof.Machine

/-- A record as it may stand later: what the posting fixed, and the rows written, are the same. -/
structure Request.Continues (r q : Request) : Prop where
  age : q.age = r.age
  tag : q.tag = r.tag
  source : q.source = r.source
  rect : q.rect = r.rect
  requestedMode : q.requestedMode = r.requestedMode
  early : q.early = r.early
  rowsWritten : q.rowsWritten = r.rowsWritten
  withdrawn : q.withdrawn = r.withdrawn

/-- What the shared operations on requests may do to table, queue, jobs, flags and log. -/
structure Tidies (s u : State) : Prop where
  table : ∀ q ∈ u.req.table, ∃ r ∈ s.req.table, r.Continues q
  tableLength : u.req.table.length ≤ s.req.table.length
  queue : ∀ e ∈ u.req.queue, ∃ e' ∈ s.req.queue, e'.age = e.age ∧ e'.part = e.part
  queueLength : u.req.queue.length ≤ s.req.queue.length
  jobs : ∀ j ∈ u.copier.jobs, ∃ k ∈ s.copier.jobs,
    k.age = j.age ∧ k.purpose = j.purpose ∧ k.rect = j.rect ∧ k.pages = j.pages ∧ k.rounding = j.rounding
  jobsLength : u.copier.jobs.length ≤ s.copier.jobs.length
  flags : ∀ i, s.notices.flags.getLsbD i = true → u.notices.flags.getLsbD i = true
  log : ∃ later, u.notices.log = s.notices.log ++ later
  logLength : s.notices.log.length ≤ Config.logRecords → u.notices.log.length ≤ Config.logRecords

/-- A record continues itself. -/
theorem Request.Continues.rfl {r : Request} : r.Continues r := ⟨.refl _, .refl _, .refl _, .refl _, .refl _, .refl _, .refl _, .refl _⟩

/-- Continuing twice is continuing. -/
theorem Request.Continues.trans {a b c : Request} (h : a.Continues b) (k : b.Continues c) : a.Continues c :=
  ⟨k.age.trans h.age, k.tag.trans h.tag, k.source.trans h.source, k.rect.trans h.rect,
    k.requestedMode.trans h.requestedMode, k.early.trans h.early, k.rowsWritten.trans h.rowsWritten,
    k.withdrawn.trans h.withdrawn⟩

/-- An operation that writes none of these tidies. -/
theorem tidies_of_eq {s u : State} (req : u.req = s.req) (jobs : u.copier.jobs = s.copier.jobs)
    (flags : u.notices.flags = s.notices.flags) (log : u.notices.log = s.notices.log) : Tidies s u where
  table := by rw [req]; exact fun q mem => ⟨q, mem, .rfl⟩
  tableLength := Nat.le_of_eq (congrArg (fun q => q.table.length) req)
  queue := by rw [req]; exact fun e mem => ⟨e, mem, rfl, rfl⟩
  queueLength := Nat.le_of_eq (congrArg (fun q => q.queue.length) req)
  jobs := by rw [jobs]; exact fun j mem => ⟨j, mem, rfl, rfl, rfl, rfl, rfl⟩
  jobsLength := Nat.le_of_eq (congrArg List.length jobs)
  flags := by rw [flags]; exact fun _ h => h
  log := ⟨[], by rw [log, List.append_nil]⟩
  logLength := by rw [log]; exact fun h => h

/-- Doing nothing tidies. -/
theorem Tidies.rfl {s : State} : Tidies s s := tidies_of_eq (.refl _) (.refl _) (.refl _) (.refl _)

/-- Tidying twice is tidying. -/
theorem Tidies.trans {a b c : State} (h : Tidies a b) (k : Tidies b c) : Tidies a c where
  table q mem := by
    obtain ⟨r, mem, cont⟩ := k.table q mem
    obtain ⟨r', mem, cont'⟩ := h.table r mem
    exact ⟨r', mem, cont'.trans cont⟩
  tableLength := Nat.le_trans k.tableLength h.tableLength
  queue e mem := by
    obtain ⟨r, mem, age, part⟩ := k.queue e mem
    obtain ⟨r', mem, age', part'⟩ := h.queue r mem
    exact ⟨r', mem, age'.trans age, part'.trans part⟩
  queueLength := Nat.le_trans k.queueLength h.queueLength
  jobs j mem := by
    obtain ⟨r, mem, h1, h2, h3, h4, h5⟩ := k.jobs j mem
    obtain ⟨r', mem, g1, g2, g3, g4, g5⟩ := h.jobs r mem
    exact ⟨r', mem, g1.trans h1, g2.trans h2, g3.trans h3, g4.trans h4, g5.trans h5⟩
  jobsLength := Nat.le_trans k.jobsLength h.jobsLength
  flags i on := k.flags i (h.flags i on)
  log := by
    obtain ⟨x, hx⟩ := h.log
    obtain ⟨y, hy⟩ := k.log
    exact ⟨x ++ y, by rw [hy, hx, List.append_assoc]⟩
  logLength le := k.logLength (h.logLength le)

/-- A fold of operations that tidy tidies. -/
theorem Tidies.foldl {α : Type} {f : State → α → State} (step : ∀ s a, Tidies s (f s a)) (l : List α) (s : State) :
    Tidies s (l.foldl f s) := by
  induction l generalizing s with
  | nil => exact .rfl
  | cons a l ih => exact (step s a).trans (ih _)

/-- A choice between two operations that tidy tidies. -/
theorem Tidies.ite {c : Prop} [Decidable c] {s a b : State} (h : c → Tidies s a) (k : ¬ c → Tidies s b) :
    Tidies s (if c then a else b) := by
  split
  · exact h ‹_›
  · exact k ‹_›

/-! ### Notices, records, entries, jobs -/

/-- A source raised. -/
theorem raise_tidies (src : NoticeSource) (s : State) : Tidies s (raise src s) where
  table q mem := ⟨q, mem, .rfl⟩
  tableLength := Nat.le_refl _
  queue e mem := ⟨e, mem, rfl, rfl⟩
  queueLength := Nat.le_refl _
  jobs j mem := ⟨j, mem, rfl, rfl, rfl, rfl, rfl⟩
  jobsLength := Nat.le_refl _
  flags i on := by simp [raise, on]
  log := ⟨[], by simp⟩
  logLength le := le

/-- A source raised is pending. -/
theorem raise_flag (src : NoticeSource) (s : State) : (raise src s).notices.flags.getLsbD src.number = true := by
  have own : src.mask.getLsbD src.number = true := by cases src <;> rfl
  simp only [raise, BitVec.getLsbD_or, own, Bool.or_true]

/-- A record rewritten as one that continues it. -/
theorem updateRequest_tidies {age : Nat} {f : Request → Request} (s : State) (h : ∀ r : Request, r.age = age → r.Continues (f r)) :
    Tidies s (updateRequest age f s) where
  table q mem := by
    simp only [updateRequest, List.mem_map] at mem
    obtain ⟨r, mem, rfl⟩ := mem
    refine ⟨r, mem, ?_⟩
    split
    · exact h r ‹_›
    · exact .rfl
  tableLength := by simp [updateRequest]
  queue e mem := ⟨e, mem, rfl, rfl⟩
  queueLength := Nat.le_refl _
  jobs j mem := ⟨j, mem, rfl, rfl, rfl, rfl, rfl⟩
  jobsLength := Nat.le_refl _
  flags _ on := on
  log := ⟨[], by simp [updateRequest]⟩
  logLength le := le

/-- An entry rewritten with its age and part. -/
theorem updateEntry_tidies {age : Nat} {f : QueueEntry → QueueEntry} (s : State)
    (h : ∀ e, (f e).age = e.age ∧ (f e).part = e.part) : Tidies s (updateEntry age f s) where
  table q mem := ⟨q, mem, .rfl⟩
  tableLength := Nat.le_refl _
  queue e mem := by
    simp only [updateEntry, List.mem_map] at mem
    obtain ⟨r, mem, rfl⟩ := mem
    refine ⟨r, mem, ?_⟩
    split
    · exact ⟨(h r).1.symm, (h r).2.symm⟩
    · exact ⟨rfl, rfl⟩
  queueLength := by simp [updateEntry]
  jobs j mem := ⟨j, mem, rfl, rfl, rfl, rfl, rfl⟩
  jobsLength := Nat.le_refl _
  flags _ on := on
  log := ⟨[], by simp [updateEntry]⟩
  logLength le := le

/-- An entry removed. -/
theorem removeEntry_tidies (age : Nat) (s : State) : Tidies s (removeEntry age s) where
  table q mem := ⟨q, mem, .rfl⟩
  tableLength := Nat.le_refl _
  queue e mem := ⟨e, (List.mem_filter.mp mem).1, rfl, rfl⟩
  queueLength := List.length_filter_le _ _
  jobs j mem := ⟨j, mem, rfl, rfl, rfl, rfl, rfl⟩
  jobsLength := Nat.le_refl _
  flags _ on := on
  log := ⟨[], by simp [removeEntry]⟩
  logLength le := le

/-- Records of the table that leave it. -/
theorem filterTable_tidies (p : Request → Bool) (s : State) :
    Tidies s { s with req := { s.req with table := s.req.table.filter p } } where
  table q mem := ⟨q, (List.mem_filter.mp mem).1, .rfl⟩
  tableLength := List.length_filter_le _ _
  queue e mem := ⟨e, mem, rfl, rfl⟩
  queueLength := Nat.le_refl _
  jobs j mem := ⟨j, mem, rfl, rfl, rfl, rfl, rfl⟩
  jobsLength := Nat.le_refl _
  flags _ on := on
  log := ⟨[], by simp⟩
  logLength le := le

/-- Jobs that leave the list. -/
theorem filterJobs_tidies (p : Job → Bool) (s : State) :
    Tidies s { s with copier := { s.copier with jobs := s.copier.jobs.filter p } } where
  table q mem := ⟨q, mem, .rfl⟩
  tableLength := Nat.le_refl _
  queue e mem := ⟨e, mem, rfl, rfl⟩
  queueLength := Nat.le_refl _
  jobs j mem := ⟨j, (List.mem_filter.mp mem).1, rfl, rfl, rfl, rfl, rfl⟩
  jobsLength := List.length_filter_le _ _
  flags _ on := on
  log := ⟨[], by simp⟩
  logLength le := le

/-- Jobs whose state is rewritten. -/
theorem mapJobs_tidies (f : Job → Job) (s : State)
    (h : ∀ j, (f j).age = j.age ∧ (f j).purpose = j.purpose ∧ (f j).rect = j.rect ∧ (f j).pages = j.pages
      ∧ (f j).rounding = j.rounding) :
    Tidies s { s with copier := { s.copier with jobs := s.copier.jobs.map f } } where
  table q mem := ⟨q, mem, .rfl⟩
  tableLength := Nat.le_refl _
  queue e mem := ⟨e, mem, rfl, rfl⟩
  queueLength := Nat.le_refl _
  jobs j mem := by
    obtain ⟨k, kmem, rfl⟩ := List.mem_map.mp mem
    obtain ⟨h1, h2, h3, h4, h5⟩ := h k
    exact ⟨k, kmem, h1.symm, h2.symm, h3.symm, h4.symm, h5.symm⟩
  jobsLength := by simp
  flags _ on := on
  log := ⟨[], by simp⟩
  logLength le := le

/-! ### The operations of chapters 03 and 07 -/

/-- The copier judging its jobs starts one, or none. -/
theorem judgeJobs_tidies (s : State) : Tidies s (judgeJobs s) := by
  unfold judgeJobs
  split
  · exact .rfl
  · split
    · exact .rfl
    · rename_i j _
      have started := mapJobs_tidies (fun k => if k.age = j.age then { k with state := .running 0 none } else k) s
        (fun k => by split <;> exact ⟨rfl, rfl, rfl, rfl, rfl⟩)
      exact started.trans (tidies_of_eq (by simp) (by simp) (by simp) (by simp))

/-- Jobs dropped leave the list. -/
theorem dropJobs_tidies (p : Job → Bool) (s : State) : Tidies s (dropJobs p s) := by
  have left := filterJobs_tidies (fun j => !p j) s
  unfold dropJobs
  exact .ite (fun _ => left.trans (tidies_of_eq (by simp) (by simp) (by simp) (by simp))) fun _ => left

/-- Judging the jobs after an event that may have made it due. -/
theorem judgeAfter_tidies (b s : State) : Tidies s (judgeAfter b s) := by
  unfold judgeAfter
  exact .ite (fun _ => judgeJobs_tidies s) fun _ => .rfl

/-- A record leaves the table. -/
theorem leaveTable_tidies (age : Nat) (s : State) : Tidies s (leaveTable age s) := by
  have left := filterTable_tidies (fun r => decide (r.age ≠ age)) s
  unfold leaveTable
  exact .ite (fun _ => left.trans (raise_tidies _ _)) fun _ => left

/-- A record joins a log that is not full. -/
theorem acceptRecord_tidies (h : Reporting) (s : State) (room : s.notices.log.length < Config.logRecords) :
    Tidies s (acceptRecord h s) := by
  unfold acceptRecord
  refine Tidies.trans ?_ (leaveTable_tidies _ _)
  exact {
    table := fun q mem => ⟨q, mem, .rfl⟩
    tableLength := Nat.le_refl _
    queue := fun e mem => ⟨e, mem, rfl, rfl⟩
    queueLength := Nat.le_refl _
    jobs := fun j mem => ⟨j, mem, rfl, rfl, rfl, rfl, rfl⟩
    jobsLength := Nat.le_refl _
    flags := fun _ on => on
    log := ⟨[h.record], rfl⟩
    logLength := fun _ => by simp only [List.length_append, List.length_singleton]; exact room }

/-- The line offers. -/
theorem offerFrom_tidies (l : List Reporting) (s : State) : Tidies s (offerFrom l s) := by
  induction l generalizing s with
  | nil => exact .rfl
  | cons h l ih =>
    unfold offerFrom
    exact .ite (fun ok => (acceptRecord_tidies h s ok.1).trans (ih _)) fun _ => .rfl

/-- The line offers. -/
theorem offerRecords_tidies (s : State) : Tidies s (offerRecords s) := offerFrom_tidies _ s

/-- Pages return. -/
theorem returnPages_tidies (pages : List Nat) (s : State) : Tidies s (returnPages pages s) :=
  tidies_of_eq rfl rfl rfl rfl

/-- A request's pages return. -/
theorem freeRequestPages_tidies (age : Nat) (s : State) : Tidies s (freeRequestPages age s) := by
  unfold freeRequestPages
  split
  · exact (returnPages_tidies _ _).trans
      (updateRequest_tidies _ fun r _ => ⟨rfl, rfl, rfl, rfl, rfl, rfl, rfl, rfl⟩)
  · exact .rfl

/-- A tally closed. -/
theorem closeTally_tidies (age : Nat) (s : State) : Tidies s (closeTally age s) :=
  updateRequest_tidies _ fun _ _ => ⟨rfl, rfl, rfl, rfl, rfl, rfl, rfl, rfl⟩

/-- An outcome brought in. -/
theorem bringOutcome_tidies (age : Nat) (o : ReqOutcome) (s : State) : Tidies s (bringOutcome age o s) :=
  updateRequest_tidies _ fun _ _ => ⟨rfl, rfl, rfl, rfl, rfl, rfl, rfl, rfl⟩

/-- A part finished. -/
theorem finishPart_tidies (age : Nat) (o : ReqOutcome) (s : State) : Tidies s (finishPart age o s) :=
  updateRequest_tidies _ fun _ _ => ⟨rfl, rfl, rfl, rfl, rfl, rfl, rfl, rfl⟩

/-- A line rewritten. -/
theorem setLine_tidies (l : List Reporting) (s : State) : Tidies s { s with req := { s.req with line := l } } where
  table q mem := ⟨q, mem, .rfl⟩
  tableLength := Nat.le_refl _
  queue e mem := ⟨e, mem, rfl, rfl⟩
  queueLength := Nat.le_refl _
  jobs j mem := ⟨j, mem, rfl, rfl, rfl, rfl, rfl⟩
  jobsLength := Nat.le_refl _
  flags _ on := on
  log := ⟨[], by simp⟩
  logLength le := le

/-- Entering REPORTING. -/
theorem enterReporting_tidies (r : Request) (s : State) : Tidies s (enterReporting r s) := by
  have noted : Tidies s (closeTally r.age (updateRequest r.age (fun q => { q with state := .reporting }) s)) := by
    refine Tidies.trans ?_ (closeTally_tidies _ _)
    exact updateRequest_tidies s fun _ _ => ⟨rfl, rfl, rfl, rfl, rfl, rfl, rfl, rfl⟩
  have dropped := noted.trans (dropJobs_tidies (Job.isCopyOf r.age) _)
  unfold enterReporting
  refine Tidies.trans ?_ (offerRecords_tidies _)
  refine Tidies.trans ?_ (setLine_tidies _ _)
  refine dropped.trans ?_
  exact .ite (fun _ => .rfl) fun _ => freeRequestPages_tidies r.age _

/-- A withdrawn request leaving, if it may. -/
theorem leaveIfDone_tidies (r : Request) (s : State) : Tidies s (leaveIfDone r s) := by
  unfold leaveIfDone
  exact .ite (fun _ => .rfl) fun _ => (freeRequestPages_tidies _ _).trans (leaveTable_tidies _ _)

/-- A request judged. -/
theorem judgeFinish_tidies (age : Nat) (s : State) : Tidies s (judgeFinish age s) := by
  unfold judgeFinish
  split
  · exact .rfl
  · exact .ite (fun _ => leaveIfDone_tidies _ _) fun _ => .ite (fun _ => enterReporting_tidies _ _) fun _ => .rfl

/-- Every request judged. -/
theorem judgeAll_tidies (s : State) : Tidies s (judgeAll s) := .foldl (fun t age => judgeFinish_tidies age t) _ s

/-- An entry dropped. -/
theorem dropEntry_tidies (age : Nat) (o : ReqOutcome) (s : State) : Tidies s (dropEntry age o s) := by
  unfold dropEntry
  split
  · exact (removeEntry_tidies _ _).trans (finishPart_tidies _ _ _)
  · exact .rfl

/-- An entry dropped, with the trigger. -/
theorem dropEntryTriggering_tidies (age : Nat) (o : ReqOutcome) (s : State) :
    Tidies s (dropEntryTriggering age o s) := by
  unfold dropEntryTriggering
  split
  · exact (dropEntry_tidies _ _ _).trans (tidies_of_eq rfl rfl rfl rfl)
  · exact .rfl

/-- Lanes released. -/
theorem releaseArmed_tidies (tag : Nat) (o : ReqOutcome) (s : State) : Tidies s (releaseArmed tag o s) :=
  tidies_of_eq (by simp) (by simp) (by simp) (by simp)

/-- Lanes aborted. -/
theorem abortActive_tidies (tag : Nat) (reason : AbortReason) (s : State) : Tidies s (abortActive tag reason s) :=
  tidies_of_eq (by simp) (by simp) (by simp) (by simp)

/-- A request withdrawn. -/
theorem withdrawRest_tidies (r : Request) (o : ReqOutcome) (s : State) : Tidies s (withdrawRest r o s) := by
  unfold withdrawRest
  exact .ite (fun _ => updateRequest_tidies _ fun _ _ => ⟨rfl, rfl, rfl, rfl, rfl, rfl, rfl, rfl⟩)
    fun _ => (dropEntryTriggering_tidies _ _ _).trans (releaseArmed_tidies _ _ _)

/-- An abort reported. -/
theorem reportAbort_tidies (tag : Nat) (reason : AbortReason) (s : State) : Tidies s (reportAbort tag reason s) := by
  unfold reportAbort
  split
  · exact (closeTally_tidies _ _).trans (withdrawRest_tidies _ _ _)
  · exact .rfl

/-- Queued and ARMED parts ended by a cancel. -/
theorem cancelQueued_tidies (release : ReqOutcome) (r : Request) (s : State) : Tidies s (cancelQueued release r s) :=
  ((dropEntryTriggering_tidies _ _ _).trans (releaseArmed_tidies _ _ _)).trans (bringOutcome_tidies _ _ _)

/-- A pending plain cancel. -/
theorem plainCancel_tidies (r : Request) (s : State) : Tidies s (plainCancel r s) := cancelQueued_tidies _ _ _

/-- A cancel that ends what has not driven. -/
theorem cleanCancel_tidies (force : Bool) (r : Request) (s : State) : Tidies s (cleanCancel force r s) :=
  (cancelQueued_tidies _ _ _).trans (updateRequest_tidies _ fun _ _ => ⟨rfl, rfl, rfl, rfl, rfl, rfl, rfl, rfl⟩)

/-- A forced cancel. -/
theorem forcedCancel_tidies (r : Request) (s : State) : Tidies s (forcedCancel r s) :=
  (((abortActive_tidies _ _ _).trans (dropEntryTriggering_tidies _ _ _)).trans (releaseArmed_tidies _ _ _)).trans
    (bringOutcome_tidies _ _ _)

/-- An entry resolved without a lane. -/
theorem resolveEntry_tidies (age : Nat) (o : ReqOutcome) (s : State) : Tidies s (resolveEntry age o s) :=
  (removeEntry_tidies _ _).trans (finishPart_tidies _ _ _)

/-! ### The end of an event -/

/-- A walk that ends at once for want of its set. -/
theorem resolveUnsupported_tidies (age : Nat) (s : State) : Tidies s (resolveUnsupported age s) :=
  ((resolveEntry_tidies _ _ _).trans (judgeFinish_tidies _ _)).trans (judgeJobs_tidies _)

/-- A walk begins. -/
theorem beginWalk_tidies (r : Request) (band : Nat) (s : State) : Tidies s (beginWalk r band s) := by
  unfold beginWalk
  have walked := updateEntry_tidies (age := r.age) (f := fun e => { e with admitting := true }) s fun _ => ⟨rfl, rfl⟩
  exact walked.trans (tidies_of_eq (by simp) (by simp) (by simp) (by simp))

/-- A pass over queue entries. -/
theorem runPass_tidies (ages : List Nat) (s : State) : Tidies s (runPass ages s) := by
  induction ages generalizing s with
  | nil => exact tidies_of_eq rfl rfl rfl rfl
  | cons age rest ih =>
    have ended : Tidies s (endPass s) := tidies_of_eq rfl rfl rfl rfl
    unfold runPass
    split
    · refine .ite (fun _ => ih _) fun _ => .ite (fun _ => ih _) fun _ => ?_
      split
      · exact .ite (fun _ => (resolveUnsupported_tidies _ _).trans (ih _)) fun _ => beginWalk_tidies _ _ _
      · exact ended
    · exact ih _

/-- A pass that may start. -/
theorem tryPass_tidies (s : State) : Tidies s (tryPass s) := by
  unfold tryPass startPass
  refine .ite (fun _ => ?_) fun _ => .rfl
  refine Tidies.trans ?_ (runPass_tidies _ _)
  exact tidies_of_eq rfl rfl rfl rfl

/-- A pass that goes on. -/
theorem resumePass_tidies (age : Nat) (s : State) : Tidies s (resumePass age s) := by
  unfold resumePass
  exact .ite (fun _ => tidies_of_eq rfl rfl rfl rfl) fun _ => runPass_tidies _ _

/-- The end of every event. -/
theorem finish_tidies (b s : State) : Tidies s (finish b s) := by
  unfold finish
  have holds : Tidies s (noteHolds b s) := tidies_of_eq (by simp) (by simp) (by simp) (by simp)
  exact (holds.trans (tryPass_tidies _)).trans (tidies_of_eq (by simp) (by simp) (by simp) (by simp))

end Sys2Proof.Machine
end

