-- ==== Sys2Proof/Laws/Lanes.lean ====
section
/-!
SUPPORT. What orders to lanes do to every lane, said once: a release, an abort, the withdrawal of a request, and the folds over
the sixteen lanes.
-/

namespace Sys2Proof.Machine

/-- A lane that an order to release has reached (R109). -/
def Lane.released (o : ReqOutcome) (ln : Lane) : Lane :=
  if ln.state = .armed then { ln with state := .retiring (.release o) 0 } else ln

/-- A lane that an abort has reached (R109). -/
def Lane.aborted (reason : AbortReason) (ln : Lane) : Lane :=
  if ln.state = .active then { ln with state := .retiring (.abort reason) 0 } else ln

/-! ### One lane -/

/-- Lanes are read off the lane records. -/
theorem laneAt_congr {s t : State} (lanes : t.lanes = s.lanes) (l : LaneId) : laneAt t l = laneAt s l := by
  simp only [laneAt, lanes]

/-- The end of an event writes no lane. -/
theorem laneAt_finish (b s : State) (l : LaneId) : laneAt (finish b s) l = laneAt s l := laneAt_congr (by simp) l

/-- A lane set. -/
theorem laneAt_setLane (l m : LaneId) (v : Option Lane) (s : State) :
    laneAt (setLane l v s) m = if m = l then v else laneAt s m := by
  show (s.lanes.set l.val v l.isLt)[m.val] = if m = l then v else s.lanes[m.val]
  rw [Vector.getElem_set]
  by_cases same : m = l
  · subst same; simp
  · rw [if_neg same, if_neg fun h => same (Fin.ext h.symm)]

/-- A lane that becomes RETIRING. -/
theorem laneAt_beginRetire (l m : LaneId) (kind : WalkKind) (s : State) :
    laneAt (beginRetire l kind s) m =
      if m = l then (laneAt s l).map fun ln => { ln with state := .retiring kind 0 } else laneAt s m := by
  unfold beginRetire
  cases h : laneAt s l with
  | none => by_cases same : m = l <;> simp [same, h]
  | some ln =>
    have waits : ∀ t, laneAt (beginWait (.retirement l) t) m = laneAt t m := fun t => laneAt_congr (by simp) m
    simp only [waits, laneAt_setLane]
    rfl

/-- An order to release a lane. -/
theorem laneAt_releaseLane (o : ReqOutcome) (s : State) (l m : LaneId) :
    laneAt (releaseLane o s l) m = if m = l then (laneAt s l).map (Lane.released o) else laneAt s m := by
  unfold releaseLane
  cases h : laneAt s l with
  | none => by_cases same : m = l <;> simp [same, h]
  | some ln =>
    dsimp only
    by_cases armed : ln.state = .armed
    · rw [if_pos armed, laneAt_beginRetire, h]
      simp [Lane.released, armed]
    · rw [if_neg armed]
      by_cases same : m = l <;> simp [same, h, Lane.released, armed]

/-- An abort of a lane. -/
theorem laneAt_abortLane (reason : AbortReason) (s : State) (l m : LaneId) :
    laneAt (abortLane reason s l) m = if m = l then (laneAt s l).map (Lane.aborted reason) else laneAt s m := by
  unfold abortLane
  cases h : laneAt s l with
  | none => by_cases same : m = l <;> simp [same, h]
  | some ln =>
    dsimp only
    by_cases active : ln.state = .active
    · rw [if_pos active, laneAt_beginRetire]
      have same : ∀ k, laneAt { s with counters := { s.counters with aborts := bump s.counters.aborts } } k = laneAt s k :=
        fun k => laneAt_congr rfl k
      simp only [same, h]
      simp [Lane.aborted, active]
    · rw [if_neg active]
      by_cases same : m = l <;> simp [same, h, Lane.aborted, active]

/-! ### Every lane -/

/-- Every lane number is among the sixteen. -/
theorem mem_allLanes (l : LaneId) : l ∈ allLanes := List.mem_finRange l

/-- The sixteen lane numbers are distinct. -/
theorem allLanes_nodup : allLanes.Nodup := by decide

/-- A fold of an operation that writes only its lane, as a function of that lane's record, writes the lanes of the list so. -/
theorem laneAt_foldl {f : State → LaneId → State} {g : LaneId → Option Lane → Option Lane}
    (one : ∀ s l m, laneAt (f s l) m = if m = l then g l (laneAt s l) else laneAt s m) (ls : List LaneId)
    (distinct : ls.Nodup) (s : State) (m : LaneId) :
    laneAt (ls.foldl f s) m = if m ∈ ls then g m (laneAt s m) else laneAt s m := by
  induction ls generalizing s with
  | nil => simp
  | cons l ls ih =>
    obtain ⟨fresh, distinct⟩ := List.nodup_cons.mp distinct
    rw [List.foldl_cons, ih distinct, one]
    by_cases here : m = l
    · subst here
      simp [fresh]
    · simp [here]

/-- Every ARMED lane of a tag released. -/
theorem laneAt_releaseArmed (tag : Nat) (o : ReqOutcome) (s : State) (m : LaneId) :
    laneAt (releaseArmed tag o s) m = (laneAt s m).map fun ln => if ln.tag = tag then ln.released o else ln := by
  unfold releaseArmed
  rw [laneAt_foldl (laneAt_releaseLane o) _ (allLanes_nodup.filter _)]
  simp only [List.mem_filter, mem_allLanes, true_and, laneOf]
  cases h : laneAt s m with
  | none => simp
  | some ln =>
    by_cases tagged : ln.tag = tag <;> by_cases armed : ln.state = .armed <;> simp [tagged, armed, Lane.released]

/-- Every ACTIVE lane of a tag aborted. -/
theorem laneAt_abortActive (tag : Nat) (reason : AbortReason) (s : State) (m : LaneId) :
    laneAt (abortActive tag reason s) m =
      (laneAt s m).map fun ln => if ln.tag = tag then ln.aborted reason else ln := by
  unfold abortActive
  rw [laneAt_foldl (laneAt_abortLane reason) _ (allLanes_nodup.filter _)]
  simp only [List.mem_filter, mem_allLanes, true_and, laneOf]
  cases h : laneAt s m with
  | none => simp
  | some ln =>
    by_cases tagged : ln.tag = tag <;> by_cases active : ln.state = .active <;> simp [tagged, active, Lane.aborted]

/-- Every lane at a RESTART (R116). -/
theorem laneAt_restartLanes (s : State) (m : LaneId) :
    laneAt (restartLanes s) m = (laneAt s m).map fun ln => (ln.aborted .restarted).released .aborted := by
  have one : ∀ s l m, laneAt (restartLane s l) m =
      if m = l then (laneAt s l).map (fun ln => (ln.aborted .restarted).released .aborted) else laneAt s m := by
    intro s l m
    unfold restartLane
    rw [laneAt_releaseLane, laneAt_abortLane, laneAt_abortLane, if_pos rfl, Option.map_map]
    by_cases same : m = l
    · rw [if_pos same, if_pos same]
      rfl
    · rw [if_neg same, if_neg same, if_neg same]
  have all := laneAt_foldl (g := fun _ o => o.map fun ln => (ln.aborted .restarted).released .aborted) one allLanes
    allLanes_nodup s m
  simp only [mem_allLanes, if_true] at all
  rw [← all]
  unfold restartLanes
  generalize allLanes.foldl restartLane s = t
  rfl

/-! ### Withdrawals -/

/-- What a withdrawal may do to lanes: ARMED ones may be released, every other stays, and none comes. -/
structure Releases (s u : State) : Prop where
  free : ∀ l, laneAt s l = none → laneAt u l = none
  begun : ∀ l ln, laneAt s l = some ln → ln.state ≠ .armed → laneAt u l = some ln
  armed : ∀ l ln, laneAt s l = some ln → ln.state = .armed → laneAt u l = some ln ∨ ∃ o, laneAt u l = some (ln.released o)

/-- An operation that writes no lane. -/
theorem releases_of_eq {s u : State} (lanes : u.lanes = s.lanes) : Releases s u where
  free l h := by rw [laneAt_congr lanes, h]
  begun l ln h _ := by rw [laneAt_congr lanes, h]
  armed l ln h _ := .inl (by rw [laneAt_congr lanes, h])

/-- One after the other. -/
theorem Releases.trans {a b c : State} (h : Releases a b) (k : Releases b c) : Releases a c where
  free l no := k.free l (h.free l no)
  begun l ln at_a st := k.begun l ln (h.begun l ln at_a st) st
  armed l ln at_a st := by
    rcases h.armed l ln at_a st with at_b | ⟨o, at_b⟩
    · exact k.armed l ln at_b st
    · refine .inr ⟨o, k.begun l _ at_b ?_⟩
      simp [Lane.released, st]

/-- A fold of operations that release at most. -/
theorem Releases.foldl {α : Type} {f : State → α → State} (step : ∀ s a, Releases s (f s a)) (l : List α) (s : State) :
    Releases s (l.foldl f s) := by
  induction l generalizing s with
  | nil => exact releases_of_eq rfl
  | cons a l ih => exact (step s a).trans (ih _)

/-- Every ARMED lane of a tag released. -/
theorem releaseArmed_releases (tag : Nat) (o : ReqOutcome) (s : State) : Releases s (releaseArmed tag o s) where
  free l h := by rw [laneAt_releaseArmed, h]; rfl
  begun l ln h st := by rw [laneAt_releaseArmed, h]; simp [Lane.released, st]
  armed l ln h st := by
    rw [laneAt_releaseArmed, h]
    by_cases tagged : ln.tag = tag
    · exact .inr ⟨o, by simp [tagged]⟩
    · exact .inl (by simp [tagged])

/-- A request withdrawn. -/
theorem withdrawRest_releases (r : Request) (o : ReqOutcome) (s : State) : Releases s (withdrawRest r o s) := by
  unfold withdrawRest
  split
  · exact releases_of_eq rfl
  · exact (releases_of_eq (by simp)).trans (releaseArmed_releases _ _ _)

/-- An abort reported. -/
theorem reportAbort_releases (tag : Nat) (reason : AbortReason) (s : State) : Releases s (reportAbort tag reason s) := by
  unfold reportAbort
  split
  · exact (releases_of_eq (by simp)).trans (withdrawRest_releases _ _ _)
  · exact releases_of_eq rfl

/-- A flush. -/
theorem flushAll_releases (s : State) : Releases s (flushAll s) := by
  unfold flushAll
  split
  · refine Releases.foldl (fun t age => ?_) _ s
    unfold flushRequest
    split
    · split
      · exact (releases_of_eq (by simp)).trans (withdrawRest_releases _ _ _)
      · exact releases_of_eq rfl
    · exact releases_of_eq rfl
  · exact releases_of_eq rfl

/-- The lanes at a rail fault (R115): over the lanes of a list, ACTIVE ones are aborted with RAIL_LOST, and the others are
released at most. -/
theorem laneAt_loseLanes (ls : List LaneId) (s : State) (l : LaneId) (ln : Lane) (h : laneAt s l = some ln) :
    (ln.state = .active → l ∈ ls →
        laneAt (ls.foldl loseLane s) l = some { ln with state := .retiring (.abort .railLost) 0 })
      ∧ (∀ kind done, ln.state = .retiring kind done → laneAt (ls.foldl loseLane s) l = some ln)
      ∧ (ln.state = .active → l ∉ ls → laneAt (ls.foldl loseLane s) l = some ln) := by
  induction ls generalizing s ln with
  | nil => exact ⟨fun _ mem => (by cases mem), fun _ _ _ => h, fun _ _ => h⟩
  | cons m ls ih =>
    rw [List.foldl_cons]
    have one : laneAt (loseLane s m) l = some ln ∨ ln.state = .armed
        ∨ (ln.state = .active ∧ l = m
            ∧ laneAt (loseLane s m) l = some { ln with state := .retiring (.abort .railLost) 0 }) := by
      unfold loseLane
      cases hm : laneAt s m with
      | none => exact .inl h
      | some lm =>
        dsimp only
        by_cases active : lm.state = .active
        · rw [if_pos active]
          have rel := reportAbort_releases lm.tag .railLost (abortLane .railLost s m)
          by_cases same : l = m
          · subst same
            rw [h] at hm; cases hm
            refine .inr (.inr ⟨active, rfl, rel.begun l _ ?_ (by simp)⟩)
            rw [laneAt_abortLane, if_pos rfl, h]
            simp [Lane.aborted, active]
          · by_cases st : ln.state = .armed
            · exact .inr (.inl st)
            · exact .inl (rel.begun l _ (by rw [laneAt_abortLane, if_neg same, h]) st)
        · rw [if_neg active]; exact .inl h
    rcases one with stays | armed | ⟨active, here, aborted⟩
    · obtain ⟨a, r, o⟩ := ih (loseLane s m) ln stays
      refine ⟨fun act mem => ?_, r, fun act out => o act fun mem => out (List.mem_cons_of_mem _ mem)⟩
      rcases List.mem_cons.mp mem with here | mem
      · exfalso
        subst here
        unfold loseLane at stays
        rw [h] at stays
        dsimp only at stays
        rw [if_pos act] at stays
        have rel := reportAbort_releases ln.tag .railLost (abortLane .railLost s l)
        have now := rel.begun l { ln with state := .retiring (.abort .railLost) 0 }
          (by rw [laneAt_abortLane, if_pos rfl, h]; simp [Lane.aborted, act]) (by simp)
        rw [now] at stays
        have bad := congrArg (fun o => o.map Lane.state) stays
        simp [act] at bad
      · exact a act mem
    · refine ⟨fun act => ?_, fun _ _ ret => ?_, fun act => ?_⟩
      · rw [armed] at act; cases act
      · rw [armed] at ret; cases ret
      · rw [armed] at act; cases act
    · obtain ⟨_, r, _⟩ := ih (loseLane s m) _ aborted
      refine ⟨fun _ _ => r _ _ rfl, fun _ _ ret => ?_, fun _ out => ?_⟩
      · rw [active] at ret; cases ret
      · exact absurd (here ▸ List.mem_cons_self) out

end Sys2Proof.Machine
end

