-- ==== Sys2Proof/Laws/Pages.lean ====
section
/-!
SUPPORT. What the laws of pages, jobs and rectangles give a statement about one request, job or walk: its page list has no page
twice, its rectangle lies in the panel and has an even number of pixels.
-/

namespace Sys2Proof.Safety

open Sys2Proof.Machine

/-- A rectangle that passes the check lies in the panel and has an even width. -/
theorem rectCheck_none {s : State} {r : Rect} (ok : rectCheck s.px.geometry r = none) :
    r.col + r.width ≤ panelWidth s ∧ r.row + r.height ≤ panelHeight s ∧ r.width % 2 = 0 := by
  unfold rectCheck at ok
  unfold panelWidth panelHeight
  cases shape : s.px.geometry with
  | none => simp [shape] at ok
  | some g =>
    simp only [shape] at ok
    split at ok
    · cases ok
    · rename_i fields
      split at ok
      · cases ok
      · rename_i inside
        simp only
        omega

/-- A rectangle of even width has an even number of pixels. -/
theorem area_even {r : Rect} (even : r.width % 2 = 0) : r.area % 2 = 0 := by
  rw [Rect.area, Nat.mul_mod, even, Nat.zero_mul, Nat.zero_mod]

/-- A lane's rectangle lies in the panel, as the statements on retirement walks ask. -/
theorem laneRect_inside {s : State} (law : ownershipLaw s) {l : LaneId} {ln : Lane} (used : laneAt s l = some ln) :
    ln.rect.col + ln.rect.width ≤ panelWidth s := by
  obtain ⟨r, live, -, same⟩ := law.2.2.2.1 l ln used
  exact (rectCheck_none (same ▸ (law.2.1.2.2 r live).2.2.1)).1

/-- The rectangle of an assume walk lies in the panel. -/
theorem assumeRect_inside {s : State} (law : rectLaw s) {r : Rect} {level : Level} {done : Nat}
    (walk : s.px.walk = some (.assume r level done)) : r.col + r.width ≤ panelWidth s :=
  (rectCheck_none (law.2 r level done walk).1).1

/-- No page is held twice. -/
theorem heldPages_nodup {s : State} (law : pagesLaw s) : (heldPages s).Nodup :=
  ((law.1.nodup_iff.mpr List.nodup_range).sublist (List.sublist_append_right _ _))

/-- A request's page list has no page twice (R60). -/
theorem requestPages_nodup {s : State} (law : pagesLaw s) {r : Request} (live : r ∈ s.req.table) {pages : List Nat}
    (holds : r.pages = some pages) : pages.Nodup := by
  have all := (heldPages_nodup law).sublist (List.sublist_append_left _ _)
  have own := (List.nodup_flatMap.mp all).1 r live
  rwa [holds] at own

/-- So has an overlay entry's. -/
theorem overlayPages_nodup {s : State} (law : pagesLaw s) {o : Overlay} (mem : o ∈ s.copier.overlays) : o.pages.Nodup := by
  have all := (heldPages_nodup law).sublist (List.sublist_append_right _ _)
  exact (List.nodup_flatMap.mp (all.sublist (List.sublist_append_left _ _))).1 o mem

/-- Two jobs of one age are one. -/
theorem job_of_age {s : State} (law : jobLaw s) {j k : Job} (hj : j ∈ s.copier.jobs) (hk : k ∈ s.copier.jobs)
    (same : j.age = k.age) : j = k := by
  have ages : (s.copier.jobs.map fun k => k.age).Nodup := List.pairwise_map.mpr (law.1.imp fun lt => Nat.ne_of_lt lt)
  exact List.inj_on_of_nodup_map ages hj hk same

/-- A job's page list has no page twice: it is that of its request or entry, or its own (R60, R119, R130). -/
theorem jobPages_nodup {s : State} (jobs : jobLaw s) (law : pagesLaw s) {j : Job} (mem : j ∈ s.copier.jobs) :
    j.pages.Nodup := by
  have about := (jobs.2.2.1 j mem).2.2.2
  by_cases entry : s.copier.overlays.any (fun o => decide (o.capturing = some j.age)) = true
  · obtain ⟨o, held, captures⟩ := List.any_eq_true.mp entry
    obtain ⟨k, listed, age, -, -, pages⟩ := jobs.2.2.2.2 o held j.age (of_decide_eq_true captures)
    rw [job_of_age jobs mem listed age.symm, pages]
    exact overlayPages_nodup law held
  · cases purpose : j.purpose with
    | copy age =>
      rw [purpose] at about
      obtain ⟨r, live, -, -, -, -, pages, -⟩ := about
      exact requestPages_nodup law live pages
    | push | swap =>
      have all := ((heldPages_nodup law).sublist (List.sublist_append_right _ _)).sublist (List.sublist_append_right _ _)
      refine (List.nodup_flatMap.mp all).1 j (List.mem_filter.mpr ⟨mem, ?_⟩)
      simp [purpose, Bool.not_eq_true _ ▸ entry]

/-- What the statements on snapshots ask of the RUNNING job (R119, R121). -/
theorem currentJob_premises {s : State} (jobs : jobLaw s) (law : pagesLaw s) {j : Job} {done : Nat} {half : Option Level}
    (running : currentJob s = some (j, done, half)) :
    (half.isSome = true ↔ done % 2 = 1) ∧ done ≤ j.rect.area ∧ j.rect.area % 2 = 0 ∧ j.pages.Nodup := by
  obtain ⟨k, mem, found⟩ := List.exists_of_findSome?_eq_some running
  cases state : k.state with
  | pending => simp [state] at found
  | running done' half' =>
    simp only [state, Option.some.injEq, Prod.mk.injEq] at found
    obtain ⟨rfl, rfl, rfl⟩ := found
    have about := jobs.2.2.1 k mem
    have moved := about.2.2.1 done' half' state
    exact ⟨moved.2, moved.1, area_even (rectCheck_none about.2.1).2.2, jobPages_nodup jobs law mem⟩

end Sys2Proof.Safety
end

