-- ==== Sys2Proof/Laws/PerInstr.lean ====
section
/-!
SUPPORT. One statement for each command, about the command as syntax (family Shape): a well-formed one that carries bytes
carries bytes that spell it.
-/

namespace Sys2Proof.Laws.Shape

open Sys2Proof Sys2Proof.Machine Sys2Proof.Safety

/-- What a row's bytes must hold (R159, R160). -/
def fits (c : Instr) (a : Arrival) : Prop :=
  match c with
  | .poll _ => a = .poll
  | .linkFailure _ => ∃ r seq, a = .failure r seq
  | .ident _ => ∃ seq p, a = .command .ident seq p
  | .status _ => ∃ seq p, a = .command .status seq p
  | .countersRead _ => ∃ seq p, a = .command .counters seq p ∧ p ≠ [1]
  | .countersReadAndClear _ => ∃ seq p, a = .command .counters seq p ∧ p ≠ [0]
  | .configure _ => ∃ seq p, a = .command .configure seq p
  | .restart _ => ∃ seq p, a = .command .restart seq p
  | .noticeSet _ => ∃ seq p, a = .command .noticeSet seq p
  | .noticeTake _ => ∃ seq p, a = .command .noticeTake seq p
  | .readLog _ => ∃ seq p, a = .command .readLog seq p
  | .libBegin _ => ∃ seq p, a = .command .libBegin seq p
  | .libData _ => ∃ seq p, a = .command .libData seq p
  | .libCommit _ => ∃ seq p, a = .command .libCommit seq p
  | .libAbandon _ => ∃ seq p, a = .command .libAbandon seq p
  | .temp _ => ∃ seq p, a = .command .temp seq p
  | .railsOff _ => ∃ seq p, a = .command .rails seq p ∧ p ≠ [1]
  | .railsClearFault _ => ∃ seq p, a = .command .rails seq p ∧ p ≠ [0]
  | .postUpdate _ => ∃ seq p, a = .command .postUpdate seq p
  | .pixels _ => ∃ seq p, a = .command .pixels seq p
  | .cancel _ => ∃ seq p, a = .command .cancel seq p
  | .clearDiscard _ => ∃ seq p, a = .command .clearDiscard seq p
  | .postCopy _ => ∃ seq p, a = .command .postCopy seq p
  | .overlayPush _ => ∃ seq p, a = .command .overlayPush seq p
  | .overlayPop _ => ∃ seq p, a = .command .overlayPop seq p
  | .overlaySwap _ => ∃ seq p, a = .command .overlaySwap seq p
  | .freeze _ => ∃ seq p, a = .command .freeze seq p
  | .thaw _ => ∃ seq p, a = .command .thaw seq p
  | .assume _ => ∃ seq p, a = .command .assume seq p
  | _ => True

/-- A command carries bytes exactly when it ends a transaction, and a well-formed one carries bytes that spell it (log 4). -/
def Statement (c : Instr) : Prop :=
  (transferOf c).isSome = Safety.endsTransaction c
    ∧ (c.wellFormed = true → ∀ t, transferOf c = some t → fits c (arrivalOf t))

/-- Bytes that spell a kind hold a command of it, with a payload the row admits. -/
theorem spellsWith_holds {t : Transfer} {k : Kind} {admits : List Byte → Bool} (h : t.spellsWith k admits = true) :
    ∃ seq p, arrivalOf t = .command k seq p ∧ admits p = true := by
  unfold Transfer.spellsWith at h
  split at h
  · rename_i k' seq p same
    simp only [Bool.and_eq_true, decide_eq_true_eq] at h
    exact ⟨seq, p, by rw [same, h.1], h.2⟩
  · cases h
  · cases h

/-- The same for a row that takes its kind in all forms. -/
theorem spells_holds {t : Transfer} {k : Kind} (h : t.spells k = true) : ∃ seq p, arrivalOf t = .command k seq p := by
  obtain ⟨seq, p, same, _⟩ := spellsWith_holds h
  exact ⟨seq, p, same⟩

theorem powerOn : Statement .powerOn :=
  ⟨rfl, fun _ _ same => by cases same⟩

theorem resetPin : Statement .resetPin :=
  ⟨rfl, fun _ _ same => by cases same⟩

theorem transactionStart : Statement .transactionStart :=
  ⟨rfl, fun _ _ same => by cases same⟩

theorem poll (t : Transfer) : Statement (.poll t) := by
  refine ⟨rfl, fun ok t' same => ?_⟩
  cases same
  simp only [Instr.wellFormed, Transfer.isPoll] at ok
  simp only [fits]
  split at ok
  · assumption
  · cases ok
  · cases ok

theorem linkFailure (t : Transfer) : Statement (.linkFailure t) := by
  refine ⟨rfl, fun ok t' same => ?_⟩
  cases same
  simp only [Instr.wellFormed, Transfer.isFailure] at ok
  simp only [fits]
  split at ok
  · exact ⟨_, _, by assumption⟩
  · cases ok
  · cases ok

theorem ident (t : Transfer) : Statement (.ident t) :=
  ⟨rfl, fun ok _ same => by cases same; exact spells_holds ok⟩

theorem status (t : Transfer) : Statement (.status t) :=
  ⟨rfl, fun ok _ same => by cases same; exact spells_holds ok⟩

theorem countersRead (t : Transfer) : Statement (.countersRead t) := by
  refine ⟨rfl, fun ok t' same => ?_⟩
  cases same
  obtain ⟨seq, p, holds, admits⟩ := spellsWith_holds ok
  exact ⟨seq, p, holds, by simpa using admits⟩

theorem countersReadAndClear (t : Transfer) : Statement (.countersReadAndClear t) := by
  refine ⟨rfl, fun ok t' same => ?_⟩
  cases same
  obtain ⟨seq, p, holds, admits⟩ := spellsWith_holds ok
  exact ⟨seq, p, holds, by simpa using admits⟩

theorem configure (t : Transfer) : Statement (.configure t) :=
  ⟨rfl, fun ok _ same => by cases same; exact spells_holds ok⟩

theorem restart (t : Transfer) : Statement (.restart t) :=
  ⟨rfl, fun ok _ same => by cases same; exact spells_holds ok⟩

theorem noticeSet (t : Transfer) : Statement (.noticeSet t) :=
  ⟨rfl, fun ok _ same => by cases same; exact spells_holds ok⟩

theorem noticeTake (t : Transfer) : Statement (.noticeTake t) :=
  ⟨rfl, fun ok _ same => by cases same; exact spells_holds ok⟩

theorem readLog (t : Transfer) : Statement (.readLog t) :=
  ⟨rfl, fun ok _ same => by cases same; exact spells_holds ok⟩

theorem libBegin (t : Transfer) : Statement (.libBegin t) :=
  ⟨rfl, fun ok _ same => by cases same; exact spells_holds ok⟩

theorem libData (t : Transfer) : Statement (.libData t) :=
  ⟨rfl, fun ok _ same => by cases same; exact spells_holds ok⟩

theorem libCommit (t : Transfer) : Statement (.libCommit t) :=
  ⟨rfl, fun ok _ same => by cases same; exact spells_holds ok⟩

theorem libAbandon (t : Transfer) : Statement (.libAbandon t) :=
  ⟨rfl, fun ok _ same => by cases same; exact spells_holds ok⟩

theorem temp (t : Transfer) : Statement (.temp t) :=
  ⟨rfl, fun ok _ same => by cases same; exact spells_holds ok⟩

theorem railsOff (t : Transfer) : Statement (.railsOff t) := by
  refine ⟨rfl, fun ok t' same => ?_⟩
  cases same
  obtain ⟨seq, p, holds, admits⟩ := spellsWith_holds ok
  exact ⟨seq, p, holds, by simpa using admits⟩

theorem railsClearFault (t : Transfer) : Statement (.railsClearFault t) := by
  refine ⟨rfl, fun ok t' same => ?_⟩
  cases same
  obtain ⟨seq, p, holds, admits⟩ := spellsWith_holds ok
  exact ⟨seq, p, holds, by simpa using admits⟩

theorem postUpdate (t : Transfer) : Statement (.postUpdate t) :=
  ⟨rfl, fun ok _ same => by cases same; exact spells_holds ok⟩

theorem pixels (t : Transfer) : Statement (.pixels t) :=
  ⟨rfl, fun ok _ same => by cases same; exact spells_holds ok⟩

theorem cancel (t : Transfer) : Statement (.cancel t) :=
  ⟨rfl, fun ok _ same => by cases same; exact spells_holds ok⟩

theorem clearDiscard (t : Transfer) : Statement (.clearDiscard t) :=
  ⟨rfl, fun ok _ same => by cases same; exact spells_holds ok⟩

theorem postCopy (t : Transfer) : Statement (.postCopy t) :=
  ⟨rfl, fun ok _ same => by cases same; exact spells_holds ok⟩

theorem overlayPush (t : Transfer) : Statement (.overlayPush t) :=
  ⟨rfl, fun ok _ same => by cases same; exact spells_holds ok⟩

theorem overlayPop (t : Transfer) : Statement (.overlayPop t) :=
  ⟨rfl, fun ok _ same => by cases same; exact spells_holds ok⟩

theorem overlaySwap (t : Transfer) : Statement (.overlaySwap t) :=
  ⟨rfl, fun ok _ same => by cases same; exact spells_holds ok⟩

theorem freeze (t : Transfer) : Statement (.freeze t) :=
  ⟨rfl, fun ok _ same => by cases same; exact spells_holds ok⟩

theorem thaw (t : Transfer) : Statement (.thaw t) :=
  ⟨rfl, fun ok _ same => by cases same; exact spells_holds ok⟩

theorem assume (t : Transfer) : Statement (.assume t) :=
  ⟨rfl, fun ok _ same => by cases same; exact spells_holds ok⟩

theorem initialisationWalkEnd : Statement .initialisationWalkEnd :=
  ⟨rfl, fun _ _ same => by cases same⟩

theorem assumeWalkEnd : Statement .assumeWalkEnd :=
  ⟨rfl, fun _ _ same => by cases same⟩

theorem libChunkWriteEnd : Statement .libChunkWriteEnd :=
  ⟨rfl, fun _ _ same => by cases same⟩

theorem commitWalkEnd : Statement .commitWalkEnd :=
  ⟨rfl, fun _ _ same => by cases same⟩

theorem inflowChunkWriteEnd : Statement .inflowChunkWriteEnd :=
  ⟨rfl, fun _ _ same => by cases same⟩

theorem admissionWalkEnd : Statement .admissionWalkEnd :=
  ⟨rfl, fun _ _ same => by cases same⟩

theorem frameStart : Statement .frameStart :=
  ⟨rfl, fun _ _ same => by cases same⟩

theorem frameCompletion : Statement .frameCompletion :=
  ⟨rfl, fun _ _ same => by cases same⟩

theorem retirementWalkEnd (lane : LaneId) : Statement (.retirementWalkEnd lane) :=
  ⟨rfl, fun _ _ same => by cases same⟩

theorem copierJobEnd : Statement .copierJobEnd :=
  ⟨rfl, fun _ _ same => by cases same⟩

theorem powerGoodSample (high : Bool) : Statement (.powerGoodSample high) :=
  ⟨rfl, fun _ _ same => by cases same⟩

theorem riseTimeout : Statement .riseTimeout :=
  ⟨rfl, fun _ _ same => by cases same⟩

theorem idleTimerExpiry : Statement .idleTimerExpiry :=
  ⟨rfl, fun _ _ same => by cases same⟩

theorem fallTimeEnd : Statement .fallTimeEnd :=
  ⟨rfl, fun _ _ same => by cases same⟩

theorem intervalTimerExpiry : Statement .intervalTimerExpiry :=
  ⟨rfl, fun _ _ same => by cases same⟩

theorem refreshRequest (ready : List Requester) : Statement (.refreshRequest ready) :=
  ⟨rfl, fun _ _ same => by cases same⟩

theorem refreshEnd (ready : List Requester) : Statement (.refreshEnd ready) :=
  ⟨rfl, fun _ _ same => by cases same⟩

theorem burstEnd (units : Nat) (ready : List Requester) : Statement (.burstEnd units ready) :=
  ⟨rfl, fun _ _ same => by cases same⟩

theorem calibrationEnd : Statement .calibrationEnd :=
  ⟨rfl, fun _ _ same => by cases same⟩

theorem resetRelease : Statement .resetRelease :=
  ⟨rfl, fun _ _ same => by cases same⟩

end Sys2Proof.Laws.Shape
end

