-- ==== Sys2Proof/Laws/Requests.lean ====
section
/-!
SUPPORT. What the line of REPORTING requests does when it offers its records, said once: a prefix of it enters the log and
leaves line and table, and the pass over an empty request table.
-/

namespace Sys2Proof.Machine

/-- What the acceptance of the head of a line does to requests and log (R176). -/
theorem acceptRecord_head (a : Reporting) (l : List Reporting) (s : State) (line : s.req.line = a :: l)
    (other : ∀ e ∈ l, e.age ≠ a.age) :
    (acceptRecord a s).notices.log = s.notices.log ++ [a.record]
      ∧ (acceptRecord a s).req =
        { s.req with line := l, table := s.req.table.filter fun r => r.age ≠ a.age } := by
  unfold acceptRecord leaveTable
  simp only [line, List.filter_cons, ne_eq, not_true_eq_false, decide_false, Bool.false_eq_true, if_false]
  split <;> simpa [raise] using other

/-- The line offers its records: a prefix of it enters the log, as long as the log has room and the next is ready, and
leaves line and table (R57, R62, R176). -/
theorem offerFrom_prefix (l : List Reporting) (s : State) (distinct : (l.map fun h => h.age).Nodup) (line : s.req.line = l) :
    ∃ k, k ≤ l.length
      ∧ (offerFrom l s).notices.log = s.notices.log ++ (l.take k).map (fun h => h.record)
      ∧ (offerFrom l s).req =
        { s.req with
          line := l.drop k
          table := s.req.table.filter fun r => (l.take k).all fun h => h.age ≠ r.age }
      ∧ (∀ i h, i < k → l[i]? = some h → s.notices.log.length + i < 32 ∧ readyToOffer s h = true)
      ∧ ∀ h, l[k]? = some h → ¬ (s.notices.log.length + k < 32 ∧ readyToOffer s h = true) := by
  induction l generalizing s with
  | nil =>
    have same : s.req = { s.req with line := [] } := by rw [← line]
    exact ⟨0, Nat.le_refl _, by simp [offerFrom], by simpa [offerFrom] using same, by simp, by simp⟩
  | cons a l ih =>
    unfold offerFrom
    split
    · rename_i goes
      simp only [List.map_cons, List.nodup_cons] at distinct
      have other : ∀ e ∈ l, e.age ≠ a.age :=
        fun e mem same => distinct.1 (same ▸ List.mem_map_of_mem (f := fun h => h.age) mem)
      obtain ⟨log, req⟩ := acceptRecord_head a l s line other
      have ready : ∀ e ∈ l, readyToOffer (acceptRecord a s) e = readyToOffer s e := by
        intro e mem
        have same : findAge (acceptRecord a s) e.age = findAge s e.age := by
          simp only [findAge, req, List.find?_filter]
          congr 1; funext r
          by_cases hr : r.age = e.age <;> simp [hr, other e mem]
        simp only [readyToOffer, same]
      obtain ⟨k, bound, h2, h3, h4, h5⟩ := ih (acceptRecord a s) distinct.2 (by rw [req])
      refine ⟨k + 1, by simpa using bound, ?_, ?_, ?_, ?_⟩
      · rw [h2, log]; simp
      · rw [h3, req]
        simp only [List.drop_succ_cons, List.take_succ_cons, List.all_cons, List.filter_filter]
        congr 2; funext r
        rw [Bool.and_comm]; congr 1
        simp only [ne_eq, eq_comm]
      · intro i h lt at_i
        cases i with
        | zero =>
          simp only [List.getElem?_cons_zero, Option.some.injEq] at at_i
          subst at_i
          simpa [Config.logRecords] using goes
        | succ i =>
          simp only [List.getElem?_cons_succ] at at_i
          have accepted := h4 i h (by omega) at_i
          rw [ready h (List.mem_of_getElem? at_i), log, List.length_append, List.length_singleton] at accepted
          exact ⟨by omega, accepted.2⟩
      · intro h at_k
        simp only [List.getElem?_cons_succ] at at_k
        have ends := h5 h at_k
        rw [ready h (List.mem_of_getElem? at_k), log, List.length_append, List.length_singleton] at ends
        exact fun more => ends ⟨by omega, more.2⟩
    · rename_i stops
      refine ⟨0, Nat.zero_le _, by simp, by rw [← line]; simp, by simp, ?_⟩
      intro h at_0
      simp only [List.getElem?_cons_zero, Option.some.injEq] at at_0
      subst at_0
      simpa [Config.logRecords] using stops

/-- With no live request a pass over any entries only ends (R81). -/
theorem runPass_of_no_request (ages : List Nat) {s : State} (empty : s.req.table = []) : runPass ages s = endPass s := by
  induction ages with
  | nil => rfl
  | cons age rest ih =>
    have none : findAge s age = none := by simp [findAge, empty]
    unfold runPass
    cases entryOf s age <;> simp [none, ih]

/-- With no live request the end of an event leaves the copier as it is. -/
theorem finish_copier_of_no_request (b : State) {s : State} (empty : s.req.table = []) :
    (finish b s).copier = s.copier := by
  have pass : (finish b s).copier = (tryPass (noteHolds b s)).copier := by simp [finish]
  rw [pass, tryPass]
  split
  · unfold startPass
    rw [runPass_of_no_request _ (by simpa using empty)]
    simp [endPass]
  · simp

end Sys2Proof.Machine
end

