-- ==== Sys2Proof/Laws/Waveforms.lean ====
section
/-!
SUPPORT. What the readings of the waveform library come to in the terms of the manual: sizes, stored codes, imbalances as
driven, the checks of an entry, drive codes, and the bands of a reading.
-/

namespace Sys2Proof.Machine

open Sys2Proof.Safety

/-! ### Sizes and stored codes (R20, R28) -/

/-- BLANK sets come first in the directory (R20). -/
theorem modeOfSet_entries {B : Nat} (bands : 1 ≤ B) (set : Nat) :
    (modeOfSet B set).entries = if set < B then 16 else 256 := by
  unfold modeOfSet
  by_cases h : set < B
  · simp [Nat.div_eq_of_lt h, h, Mode.entries]
  · have : 1 ≤ set / B := (Nat.one_le_div_iff (by omega)).mpr (by omega)
    simp only [h, if_false]
    split <;> simp_all [Mode.entries]

/-- The sets of the clearing modes come first, two to a band (R18, R20). -/
theorem modeOfSet_clearing {B : Nat} (bands : 1 ≤ B) (set : Nat) :
    (modeOfSet B set).clearing = decide (set < 2 * B) := by
  unfold modeOfSet
  have : set / B < 2 ↔ set < 2 * B := Nat.div_lt_iff_lt_mul (by omega)
  rcases h : set / B with _ | _ | _ | _ | n <;> simp_all [Mode.clearing]

/-- The sizes of sets, listed (R28). -/
theorem setSizes_eq {B : Nat} (bands : 1 ≤ B) (dir : List WaveSet) (k : Nat) :
    setSizes B k dir = (dir.zipIdx k).map fun e => setBytes B e.2 e.1 := by
  induction dir generalizing k with
  | nil => rfl
  | cons w rest ih =>
    rw [setSizes, ih, List.zipIdx_cons, List.map_cons, modeOfSet_entries bands]
    rfl

/-- The expected size is the bytes of the directory's sets (R28). -/
theorem expectedSize_eq {B : Nat} (bands : 1 ≤ B) (dir : List WaveSet) : expectedSize B dir = dataBytes B dir := by
  rw [expectedSize, setSizes_eq bands, dataBytes]

/-- A set's data starts behind that of the sets before it (R28). -/
theorem setStart_eq {lib : Library} (bands : 1 ≤ lib.bandCount) (set : Nat) :
    lib.setStart set = dataBytes lib.bandCount (lib.directory.take set) := by
  rw [Library.setStart, setSizes_eq bands, dataBytes, ← List.map_take]
  congr 2
  refine List.ext_getElem? fun i => ?_
  simp only [List.getElem?_take, List.getElem?_zipIdx]
  split <;> simp

/-- A code read from an entry is the one stored for its set, entry and position (R28). -/
theorem codeIn_entryData {lib : Library} (bands : 1 ≤ lib.bandCount) (set : Nat) (w : WaveSet) (e i : Nat)
    (below : i < w.frames) : (codeIn (lib.entryData set w e) i).toNat = storedCode lib set w e i := by
  have room : i / 4 < (w.frames + 3) / 4 := by omega
  unfold codeIn Library.entryData storedCode WaveSet.entryBytes
  rw [setStart_eq bands]
  simp only [List.getD_eq_getElem?_getD, List.getElem?_take, room, if_true, List.getElem?_drop, Nat.add_assoc]
  rw [BitVec.extractLsb'_toNat, Nat.shiftRight_eq_div_pow, Nat.pow_mul]

/-! ### Imbalances and checks (R23, R32) -/

/-- The lead entry of an entry number (R22). -/
theorem leadOfEntry_modeOfSet {B : Nat} (bands : 1 ≤ B) (set e : Nat) :
    leadOfEntry (modeOfSet B set) e = if set < B then 0 else e / 16 * 16 + e / 16 := by
  unfold modeOfSet
  by_cases h : set < B
  · simp [Nat.div_eq_of_lt h, h, leadOfEntry]
  · have : 1 ≤ set / B := (Nat.one_le_div_iff (by omega)).mpr (by omega)
    simp only [h, if_false]
    split <;> simp_all [leadOfEntry]

/-- Net drive over a list is the DARKENs less the LIGHTENs. -/
theorem netDrive_sum (xs : List (BitVec 2)) :
    ((xs.map fun c => netDrive (driveCodeOf c)).sum : Int)
      = ((xs.filter fun c => decide (c.toNat = 1)).length : Int) - (xs.filter fun c => decide (c.toNat = 2)).length := by
  induction xs with
  | nil => rfl
  | cons c rest ih =>
    have : c = 0#2 ∨ c = 1#2 ∨ c = 2#2 ∨ c = 3#2 := by revert c; decide
    rw [List.map_cons, List.sum_cons, ih]
    rcases this with rfl | rfl | rfl | rfl <;> simp [netDrive, driveCodeOf] <;> omega

/-- The imbalance of an entry is DARKENs less LIGHTENs as driven (R23). -/
theorem entryImbalance_eq {lib : Library} (bands : 1 ≤ lib.bandCount) (set : Nat) (w : WaveSet) (e : Nat) :
    entryImbalance w (lib.entryData set w (leadOfEntry (modeOfSet lib.bandCount set) e)) (lib.entryData set w e)
      = drivenImbalance lib set w e := by
  unfold entryImbalance drivenImbalance drivenCodes
  have := netDrive_sum ((List.range w.frames).map fun i =>
    codeIn (if i < w.leads then lib.entryData set w (leadOfEntry (modeOfSet lib.bandCount set) e)
      else lib.entryData set w e) i)
  rw [List.map_map] at this
  simp only [Function.comp_def] at this
  rw [this]
  simp only [List.filter_map, List.length_map, Function.comp_def]
  have same : ∀ i ∈ List.range w.frames,
      (codeIn (if i < w.leads then lib.entryData set w (leadOfEntry (modeOfSet lib.bandCount set) e)
          else lib.entryData set w e) i).toNat
        = storedCode lib set w (if i < w.leads then (if set < lib.bandCount then 0 else e / 16 * 16 + e / 16) else e) i := by
    intro i mem
    rw [← leadOfEntry_modeOfSet bands]
    split <;> exact codeIn_entryData bands _ _ _ _ (List.mem_range.mp mem)
  congr 3
  all_goals exact List.filter_congr fun i mem => by rw [same i mem]

/-- The computed imbalances of a set that is present (R23). -/
theorem allImbalances_getElem? {lib : Library} (bands : 1 ≤ lib.bandCount) {set : Nat} {w : WaveSet}
    (there : lib.directory[set]? = some w) (present : w.frames ≠ 0) :
    lib.allImbalances[set]? =
      some ((List.range (if set < lib.bandCount then 16 else 256)).map (drivenImbalance lib set w)) := by
  simp only [Library.allImbalances, List.getElem?_map, List.getElem?_zipIdx, there, Option.map_some, Library.setImbalances,
    Nat.zero_add, present, if_false, modeOfSet_entries bands, entryImbalance_eq bands]

/-- An entry holds the invalid code (R21, R32). -/
theorem entryFault_badCode {lib : Library} (bands : 1 ≤ lib.bandCount) (set : Nat) (w : WaveSet) (e : Nat) :
    ((List.range w.frames).any fun i => codeIn (lib.entryData set w e) i == 3#2) = true
      ↔ ∃ i < w.frames, storedCode lib set w e i = 3 := by
  simp only [List.any_eq_true, List.mem_range, beq_iff_eq]
  refine exists_congr fun i => and_congr_right fun below => ?_
  rw [← codeIn_entryData bands _ _ _ _ below, ← BitVec.toNat_inj]
  rfl

/-- The checks of one entry (R32). -/
theorem entryFault_spec {lib : Library} (bands : 1 ≤ lib.bandCount) (set : Nat) (w : WaveSet) (e : Nat) :
    ((∃ i < w.frames, storedCode lib set w e i = 3) → lib.entryFault set w e = some .badCode)
      ∧ ((∀ i < w.frames, storedCode lib set w e i ≠ 3) → set < 2 * lib.bandCount → drivenImbalance lib set w e ≠ 0 →
          lib.entryFault set w e = some .unbalanced)
      ∧ ((∀ i < w.frames, storedCode lib set w e i ≠ 3) → 2 * lib.bandCount ≤ set ∨ drivenImbalance lib set w e = 0 →
          lib.entryFault set w e = none) := by
  have bad := entryFault_badCode bands set w e
  unfold Library.entryFault
  simp only [entryImbalance_eq bands, modeOfSet_clearing bands]
  refine ⟨fun h => by rw [if_pos (bad.mpr h)], fun h clear driven => ?_, fun h rest => ?_⟩
  · rw [if_neg fun hb => (bad.mp hb).elim fun i hi => h i hi.1 hi.2]
    simp [clear, driven]
  · rw [if_neg fun hb => (bad.mp hb).elim fun i hi => h i hi.1 hi.2]
    rcases rest with h | h <;> simp [h]

/-! ### Lookups (R19, R22) -/

/-- The lookup of a drive code (R20 to R22, R28). -/
theorem driveCode_spec {lib : Library} (bands : 1 ≤ lib.bandCount) (m : Mode) (band : Nat) (shown target : Level) (i : Nat)
   (w : WaveSet) (there : lib.directory[m.code * lib.bandCount + band]? = some w) (below : i < w.frames) :
   lib.driveCode m band shown target i =
     match storedCode lib (m.code * lib.bandCount + band) w
        (if i < w.leads then (if m = .blank then 0 else shown.toNat * 16 + shown.toNat)
          else if m = .blank then target.toNat else shown.toNat * 16 + target.toNat) i with
     | 1 => .darken | 2 => .lighten | _ => .none := by
  have hset : lib.setOf m band = w := by simp [Library.setOf, Library.setNumber, there]
  unfold Library.driveCode
  simp only [hset, Library.setNumber]
  have hlead : leadEntry m shown = if m = .blank then 0 else shown.toNat * 16 + shown.toNat := by cases m <;> rfl
  have hen : entryNumber m shown target = if m = .blank then target.toNat else shown.toNat * 16 + target.toNat := by
    cases m <;> rfl
  rw [hlead, hen, ← codeIn_entryData bands _ _ _ _ below]
  generalize codeIn _ _ = c
  revert c
  decide

/-- The band of a reading among ascending bounds (R19). -/
theorem bandAmong_spec (k : Nat) (bounds : List Int) (t : Int) (asc : bounds.Pairwise fun a b => a < b) (n : Nat) :
    bandAmong k bounds t = some n ↔
      ∃ lo hi, k ≤ n ∧ bounds[n - k]? = some lo ∧ bounds[n - k + 1]? = some hi ∧ lo ≤ t ∧ t < hi := by
  induction bounds generalizing k with
  | nil => simp [bandAmong]
  | cons a rest ih =>
    cases rest with
    | nil => simp [bandAmong]
    | cons b rest =>
      rw [bandAmong]
      have up2 : ∀ (i : Nat) (x : Int), (b :: rest)[i]? = some x → b ≤ x := fun i x h => by
        cases i with
        | zero => simp at h; omega
        | succ i =>
          exact le_of_lt ((List.pairwise_cons.mp (List.pairwise_cons.mp asc).2).1 x
            (List.mem_of_getElem? (by simpa using h)))
      split
      · rename_i h
        constructor
        · intro e
          cases e
          exact ⟨a, b, le_refl _, by simp, by simp, h⟩
        · rintro ⟨lo, hi, kn, e1, e2, l, u⟩
          rcases Nat.eq_or_lt_of_le kn with rfl | lt
          · rfl
          · exfalso
            obtain ⟨j, hj⟩ : ∃ j, n - k = j + 1 := ⟨n - k - 1, by omega⟩
            rw [hj] at e1
            have := up2 j lo (by simpa using e1)
            omega
      · rename_i h
        rw [ih _ (List.pairwise_cons.mp asc).2]
        constructor
        · rintro ⟨lo, hi, kn, e1, e2, l, u⟩
          obtain ⟨j, hj⟩ : ∃ j, n - k = j + 1 := ⟨n - k - 1, by omega⟩
          have hj' : n - (k + 1) = j := by omega
          rw [hj'] at e1 e2
          exact ⟨lo, hi, by omega, by rw [hj]; simpa using e1, by rw [hj]; simpa using e2, l, u⟩
        · rintro ⟨lo, hi, kn, e1, e2, l, u⟩
          rcases Nat.eq_or_lt_of_le kn with rfl | lt
          · simp at e1 e2
            subst e1 e2
            exact absurd ⟨l, u⟩ h
          · obtain ⟨j, hj⟩ : ∃ j, n - k = j + 1 := ⟨n - k - 1, by omega⟩
            have hj' : n - (k + 1) = j := by omega
            rw [hj] at e1 e2
            exact ⟨lo, hi, by omega, by rw [hj']; simpa using e1, by rw [hj']; simpa using e2, l, u⟩

end Sys2Proof.Machine
end

