-- ==== Sys2Proof/Tests/Slice0.lean ====
section
/-!
SUPPORT. Tests of the model's author: ill-formed commands that WellFormed refuses, small steps with the values the spec gives,
and for every statement that has hypotheses a state and operands that meet all of them, at the ends of their ranges where it
has several clauses.
-/

namespace Sys2Proof.Tests

open Sys2Proof Sys2Proof.Machine Sys2Proof.Safety

set_option Elab.async false

/-! ### Bytes and states to test with -/

/-- A transaction that brings in the command frame of a kind and a payload, sequence number 7. -/
def sent (k : Kind) (p : List Byte) : Transfer := { mosi := commandFrame k.code 7 p, tailBits := 0 }

/-- A transaction without a byte. -/
def silent : Transfer := { mosi := [], tailBits := 0 }

/-- A transaction whose command frame has a wrong CRC. -/
def spoiled : Transfer := { mosi := [0xA5, 0x01, 7, 0, 0, 0, 0], tailBits := 0 }

/-- The part after power-on and calibration. -/
def calm : State := { State.reset with mem := { FrameMemory.initial 0 with calibrating := false } }

/-- With a panel of 256 by 128 pixels, initialised. -/
def panel : State := { calm with px := { PixelStore.initial with geometry := some { width := 256, height := 128 } } }

/-- A rectangle of four pixels. -/
def small : Rect := { col := 0, row := 0, width := 2, height := 2 }

/-- An INFLOW request over it, tag 1, with page 0. -/
def request : Request := newRequest 0 1 .inflow small .settle .upgrade .wait false (some [0])

/-- Its queue entry. -/
def entry : QueueEntry := { age := 0, part := 1, upgradePending := false, admitting := false }

/-- The panel with that request posted. -/
def posted : State :=
  { panel with
    req := { table := [request], queue := [entry], line := [], nextAge := 1 }
    pool := { free := (List.range 3584).drop 1, bytes := [] } }

/-- A lane of that request. -/
def laneIn (st : LaneState) : Lane :=
  { tag := 1, part := 1, rect := small, mode := .settle, band := 0, frames := 2, leads := 1, early := true, owned := 4,
    index := 0, state := st }

/-- A state with lane 0 in use. -/
def withLane (st : LaneState) (s : State) : State := setLane 0 (some (laneIn st)) s

/-- A state whose rails are ON, with the idle timer running. -/
def idling (s : State) : State :=
  { s with rails := { s.rails with state := .on, enable := true, idleTimer := some 2000 } }

/-- A state whose rails are ON, with the frame timer running. -/
def scanning (s : State) : State :=
  { s with
    rails := { s.rails with state := .on, enable := true }
    scan := { s.scan with timer := some 1200 } }

/-- A state with a load open: one band, one BLANK frame in the set, four bytes expected. -/
def loading (s : State) : State :=
  { s with lib := { Library.initial with state := .loading, bounds := [0, 100], expected := 4 } }

/-- A state at rest, shown by its parts. -/
theorem settled_of_parts {s : State}
    (h : (s.adm.passWanted && !held s && !s.adm.passRunning) = false ∧ syncPower s = s ∧ decideGrant s.mem = s.mem
      ∧ s.notices.attn = s.notices.attnLevel) : settled s :=
  ⟨h.1, h.2.1, h.2.2.1, attnLaw_iff.mpr h.2.2.2⟩

/-- A state whose Link Port takes what comes, shown by its parts. -/
theorem takes_of_parts {s : State} (h : s.link.resetHeld = false ∧ s.link.transaction ≠ some .ignored) : linkTakes s := h

/-! ### WellFormed refuses -/

/-- No row that needs a command frame takes a transaction without one. -/
theorem test_rows_refuse_silence :
    ([Instr.linkFailure, .ident, .status, .countersRead, .countersReadAndClear, .configure, .restart, .noticeSet,
      .noticeTake, .readLog, .libBegin, .libData, .libCommit, .libAbandon, .temp, .railsOff, .railsClearFault, .postUpdate,
      .pixels, .cancel, .clearDiscard, .postCopy, .overlayPush, .overlayPop, .overlaySwap, .freeze, .thaw,
      .assume].all fun row => !(row silent).wellFormed) = true := by decide +kernel

/-- A poll holds no command frame. -/
theorem test_poll_refuses_a_command : (Instr.poll (sent .ident [])).wellFormed = false := by decide +kernel

/-- Each of the two COUNTERS rows refuses the other's accepted form. -/
theorem test_counters_rows_are_told_apart :
    (Instr.countersRead (sent .counters [1])).wellFormed = false
      ∧ (Instr.countersReadAndClear (sent .counters [0])).wellFormed = false := by decide +kernel

/-- Each of the two RAILS rows refuses the other's accepted form. -/
theorem test_rails_rows_are_told_apart :
    (Instr.railsOff (sent .rails [1])).wellFormed = false
      ∧ (Instr.railsClearFault (sent .rails [0])).wellFormed = false := by decide +kernel

/-- A list of ready clients names none twice. -/
theorem test_ready_lists_name_no_client_twice :
    (Instr.refreshRequest [.copier, .copier]).wellFormed = false
      ∧ (Instr.refreshEnd [.copier, .copier]).wellFormed = false
      ∧ (Instr.burstEnd 1 [.copier, .copier]).wellFormed = false := by decide +kernel

/-! ### Small steps -/

/-- The published check value of this CRC over the digits 1 to 9. -/
theorem test_crc_of_the_digits :
    crc16 [0x31, 0x32, 0x33, 0x34, 0x35, 0x36, 0x37, 0x38, 0x39] = 0x6F91 := by decide +kernel

/-- The notices of example 11.5 before the first take: G0, G1 and G4 unmasked. -/
def pendingFour : Notices :=
  { Notices.initial with
    flags := 0x144, masks := 0x2C, attn := true
    log := [composeRecord request, composeRecord request] }

/-- The takes of example 11.5: RAIL_FAULT, COMPLETION while the log holds records, LIBRARY_DONE, none. -/
theorem test_notices_are_taken_as_in_the_example :
    pendingFour.choice = some .railFault
      ∧ ({ pendingFour with flags := 0x140 } : Notices).choice = some .completion
      ∧ ({ pendingFour with flags := 0x140, log := [] } : Notices).choice = some .libraryDone
      ∧ ({ pendingFour with flags := 0x040, log := [] } : Notices).choice = none := by decide +kernel

/-- What IDENT leaves in the slot after power-on is its reply, and the poll that follows delivers it. -/
theorem test_ident_is_answered_and_delivered :
    (match exec (.ident (sent .ident [])) calm with
      | .next u =>
        u.link.slot.map (fun r => (r.result, r.payload.length)) == some (.ok, 21)
          && (match exec (.poll { mosi := List.replicate 41 0xFF, tailBits := 0 }) u with
            | .next v => v.link.slot.isNone
            | _ => false)
      | _ => false) = true := by decide +kernel

/-- A posted request waits while admission is held, and a second posting of its tag is refused. -/
theorem test_a_tag_in_use_is_refused :
    (match exec (.postUpdate (sent .postUpdate [1, 0, 0, 0, 0, 0, 2, 0, 2, 0, 3, 0, 0, 1, 5, 0])) posted with
      | .next u => u.req.table.length == 1 && u.link.slot.map (fun r => r.result) == some .tagInUse
      | _ => false) = true := by decide +kernel

/-- An ARMED lane brings the rails from OFF to RISING at the next event (R137). -/
theorem test_demand_raises_the_rails :
    (finish calm (withLane .armed calm)).rails.state = .rising := by decide +kernel

/-! ### The hypotheses of the statements can be met -/

theorem test_met_StepTakesTheFrontCommand :
    (State.withPending calm [.powerOn]).pending = [.powerOn] ∧ calm.pending = [] := by decide +kernel

theorem test_met_EveryCommandLeavesTheQueue : ∃ u, exec .calibrationEnd State.reset = .next u := ⟨_, rfl⟩

theorem test_met_CommandFramesAreReadAsWritten :
    (List.replicate 4104 (0 : Byte)).length ≤ Config.maxPayload ∧ (0 : BitVec 16) ≠ crc16 (commandBody 1 7 [])
      ∧ (7 : Fin 8) ≠ 0 ∧ ∀ k : Kind, k.code ≠ 0x7F :=
  ⟨Nat.le_of_eq List.length_replicate, by decide +kernel, by decide, fun k => by cases k <;> decide⟩

/-- Every form of the length check at its boundary, with the sequence echo 0 of a frame that ends before it; filler is none of
them, and neither are polls (R159, R160). -/
theorem test_met_CommandFramesAreReadAsWritten_lengths :
    ([([0xA5], 0), ([0xA5, 1], 0), ([0xA5, 1, 7, 0], 7), ([0xA5, 1, 7, 0x09, 0x10, 0, 0], 7), ([0xA5, 1, 7, 1, 0, 0, 0], 7),
        (commandFrame 1 7 [] ++ [0xFF, 0], 7)].all fun ((bytes : List Byte), (seq : Byte)) =>
        decide (bytes.head? = some 0xA5)
          && decide (arrivalOf { mosi := bytes, tailBits := 0 } = .failure .badLength seq)) = true
      ∧ arrivalOf { mosi := commandFrame 1 7 [] ++ [0xFF, 0xFF], tailBits := 0 } = .command .ident 7 []
      ∧ arrivalOf { mosi := commandFrame 1 7 [], tailBits := 1 } = .failure .badLength 7
      ∧ arrivalOf { mosi := [0x5A, 1, 7], tailBits := 1 } = .poll ∧ ∀ c : BitVec 16,
        crcShift c = if c.getLsbD 0 = true then (c >>> 1) ^^^ 0x8408#16 else c >>> 1 :=
  ⟨by decide +kernel, by decide +kernel, by decide +kernel, by decide +kernel, fun _ => rfl⟩

theorem test_met_IllFormedLinkRowsStop :
    endsTransaction (.ident silent) = true ∧ (Instr.ident silent).wellFormed = false := by decide +kernel

/-- A state with RESET held. -/
def heldDown : State := { calm with link := { calm.link with resetHeld := true } }

theorem test_met_ResetsSetEveryBlock : heldDown.link.resetHeld = true ∧ calm.link.resetHeld = false := by decide +kernel

theorem test_met_ResetsEmptyTheRequestManager : Instr.powerOn = .powerOn ∧ Instr.resetPin = .resetPin := ⟨rfl, rfl⟩

/-- A state with a transaction in flight. -/
def inFlight (x : Transaction) : State := { calm with link := { calm.link with transaction := some x } }

theorem test_met_TransactionsDeliverTheOutgoingFrame :
    calm.link.transaction = none ∧ (inFlight .ignored).link.transaction ≠ none ∧ arrivalOf silent = .poll
      ∧ (inFlight (.live (idleFrame calm) false)).link.transaction = some (.live (idleFrame calm) false)
      ∧ (inFlight .ignored).link.transaction = some .ignored
      ∧ exec .transactionStart calm = .next (startTransaction calm)
      ∧ transferOf (.linkFailure spoiled) = some spoiled ∧ arrivalOf spoiled ≠ .poll := by
  refine ⟨rfl, by decide, rfl, rfl, rfl, rfl, rfl, by decide +kernel⟩

/-- A reply that a short transaction does not deliver is discarded by the next one, which carries the flag (R163). -/
theorem test_a_reply_lost_is_marked :
    (match exec (.linkFailure spoiled) calm with
      | .next u =>
        match exec (.linkFailure spoiled) u with
        | .next v => decide ((u.link.slot.map fun r => r.trailer.replyLost) = some false)
            && decide ((v.link.slot.map fun r => r.trailer.replyLost) = some true)
        | _ => false
      | _ => false) = true := by decide +kernel

/-- An IDLE frame by its bytes, as they are on MISO, and 0xFF behind them (R158, R162). -/
theorem test_an_idle_frame_on_miso :
    ((List.range 21).map fun i => misoByte (inFlight (.live (idleFrame calm) false)) i)
      = ([0x5A, 0, 0, 0, 0, 0, 0, 0, 1, 0, 0, 0, 0, 24, 32, 0, 0x0E, 0] ++ leBytes 2 (crc16
          [0, 0, 0, 0, 0, 0, 0, 1, 0, 0, 0, 0, 24, 32, 0, 0x0E, 0]).toNat ++ [0xFF]).map some
      ∧ misoByte (inFlight .ignored) 0 = none ∧ misoByte calm 0 = none := by decide +kernel

theorem test_met_LinkFailuresAreAnswered : arrivalOf spoiled = .failure .badCrc 7 ∧ linkTakes calm :=
  ⟨by decide +kernel, takes_of_parts (by decide +kernel)⟩

/-- The link takes commands, and the part is at rest, in the states the statements on commands are about. -/
theorem test_calm_takes_at_rest : linkTakes calm ∧ settled calm :=
  ⟨takes_of_parts (by decide +kernel), settled_of_parts (by decide +kernel)⟩

theorem test_panel_takes_at_rest : linkTakes panel ∧ settled panel :=
  ⟨takes_of_parts (by decide +kernel), settled_of_parts (by decide +kernel)⟩

theorem test_posted_takes_at_rest : linkTakes posted ∧ settled posted :=
  ⟨takes_of_parts (by decide +kernel), settled_of_parts (by decide +kernel)⟩

/-- Payloads short and full arrive as the commands of IDENT, STATUS, COUNTERS, NOTICE_TAKE, FREEZE, THAW and CLEAR_DISCARD;
`test_calm_takes_at_rest` gives the state. -/
theorem test_met_statements_on_commands_without_payload :
    ([Kind.ident, .status, .noticeTake, .freeze, .thaw, .clearDiscard, .restart].all fun k =>
        decide (arrivalOf (sent k []) = .command k 7 []) && decide (arrivalOf (sent k [0]) = .command k 7 [0])) = true
      ∧ arrivalOf (sent .counters [0]) = .command .counters 7 [0]
      ∧ arrivalOf (sent .counters [1]) = .command .counters 7 [1] := by decide +kernel

/-- An accepted CONFIGURE: 256 by 128 pixels and the default settings. -/
def configuration : List Byte :=
  leBytes 2 256 ++ leBytes 2 128 ++ [0] ++ leBytes 2 1200 ++ [8, 64, 0] ++ leBytes 4 49152 ++ leBytes 4 16384 ++ [0, 0]
    ++ leBytes 2 2000 ++ leBytes 2 100 ++ [10]

theorem test_met_ConfigureSetsEverySetting :
    arrivalOf (sent .configure configuration) = .command .configure 7 configuration ∧ configuration.length = 25
      ∧ calm.mem.calibrating = false ∧ configFieldsOk configuration = true ∧ calm.req.table = []
      ∧ (∀ l, laneAt calm l = none) ∧ calm.lib.state ≠ .loading ∧ calm.scan.frame = none
      ∧ calm.px.geometry ≠ some (configGeometry configuration)
      ∧ panel.px.geometry = some (configGeometry configuration) := by decide +kernel

theorem test_met_NoticeSetSetsMasksAndPriorities :
    ([[], [0x40, 1, 1, 1, 1, 1, 1], [0x3F, 1, 1, 1, 1, 1, 0], [0x3F, 8, 1, 1, 1, 1, 1], [0x3F, 7, 1, 1, 1, 1, 7]].all
        fun p => decide (arrivalOf (sent .noticeSet p) = .command .noticeSet 7 p)) = true
      ∧ 64 ≤ field [0x40, 1, 1, 1, 1, 1, 1] 0 1 ∧ field [0x3F, 7, 1, 1, 1, 1, 7] 0 1 < 64
      ∧ field [0x3F, 1, 1, 1, 1, 1, 0] 6 1 < 1 ∧ 7 < field [0x3F, 8, 1, 1, 1, 1, 1] 1 1
      ∧ (∀ g : Fin 6, 1 ≤ field [0x3F, 7, 1, 1, 1, 1, 7] (1 + g.val) 1 ∧ field [0x3F, 7, 1, 1, 1, 1, 7] (1 + g.val) 1 ≤ 7)
      := by decide +kernel

/-- A state with the notices of example 11.5. -/
def noticed : State := { calm with notices := pendingFour }

theorem test_met_NoticeTakeReturnsTheHighestPriority :
    linkTakes noticed ∧ settled noticed ∧ noticed.notices.isPending .railFault = true
      ∧ noticed.notices.unmasked .railFault = true
      ∧ (NoticeSource.all.all fun o => !(noticed.notices.isPending o && noticed.notices.unmasked o)
          || decide (noticed.notices.priorities.get o.group < noticed.notices.priorities.get NoticeSource.railFault.group)
          || decide (o = .railFault)) = true
      ∧ (NoticeSource.all.all fun o => !(calm.notices.isPending o && calm.notices.unmasked o)) = true :=
  ⟨takes_of_parts (by decide +kernel), settled_of_parts (by decide +kernel), by decide +kernel, by decide +kernel,
    by decide +kernel, by decide +kernel⟩

/-- A state with the request in line, its pages given back or not. -/
def inLine (pages : Option (List Nat)) : State :=
  { noticed with
    req := { posted.req with
      table := [{ request with state := .reporting, pages := pages }], queue := []
      line := [{ age := 0, record := composeRecord request }] } }

theorem test_met_ReadLogReturnsTheOldestRecords :
    ([[], [0], [33], [1], [32]].all fun p => decide (arrivalOf (sent .readLog p) = .command .readLog 7 p)) = true
      ∧ field [0] 0 1 = 0 ∧ 32 < field [33] 0 1 ∧ 1 ≤ field [1] 0 1 ∧ field [32] 0 1 ≤ 32
      ∧ noticed.notices.log.length = 2 ∧ noticed.req.line = []
      ∧ ((inLine none).req.line.map fun h => h.age).Nodup
      ∧ readyToOffer (inLine none) { age := 0, record := composeRecord request } = true
      ∧ readyToOffer (inLine (some [0])) { age := 0, record := composeRecord request } = false
      ∧ [ReqOutcome.done, .noChange, .cancelled, .aborted, .starved, .railLost, .ghostRefused, .unsupported, .flushed].map
          (fun o => BitVec.ofNat 8 o.code) = [(0 : Byte), 1, 2, 3, 4, 5, 6, 7, 8]
      ∧ [Mode.blank, .clear, .settle, .quick, .stroke].map (fun m => BitVec.ofNat 8 m.selector) = [(1 : Byte), 2, 3, 4, 5]
      ∧ (composeRecord { request with upgradeReason := some .balance, bandUsed := some 11 }).bytes
          = [1, 0, 1, 3, 3, 2, 11, 1, 0, 0, 0, 0, 0] := by decide +kernel

/-- With 24 records, one of them in line, a READ_LOG that lets it into the log raises QUEUE_ROOM (R57). -/
theorem test_met_ReadLogReturnsTheOldestRecords_room :
    (match exec (.readLog (sent .readLog [1]))
        { inLine none with
          req := { (inLine none).req with
            table := (inLine none).req.table
              ++ (List.range 23).map fun i => { request with age := i + 1, tag := i + 2, pages := none } } } with
      | .next u => decide (u.req.table.length = 23) && u.notices.flags.getLsbD 10
      | _ => false) = true := by decide +kernel

/-! ### … the library's -/

/-- A LIB_BEGIN of one band from 0 to 10 degrees, BLANK, CLEAR and SETTLE of one frame each. -/
def oneBand : List Byte := [1] ++ leSigned 0 ++ leSigned 100 ++ [1, 0, 1, 0, 1, 0, 0, 0, 0, 0]

theorem test_met_LibBeginOpensALoad :
    arrivalOf (sent .libBegin oneBand) = .command .libBegin 7 oneBand ∧ calm.mem.calibrating = false
      ∧ calm.lib.commit = .none ∧ (∀ l, laneAt calm l = none) ∧ calm.req.table = []
      ∧ 1 ≤ libBandCount oneBand ∧ libBandCount oneBand ≤ 12 ∧ oneBand.length = 3 + 12 * libBandCount oneBand
      ∧ libFieldsBad oneBand = false
      ∧ expectedSize 1 [⟨4, 0⟩, ⟨5, 0⟩, ⟨1, 0⟩, ⟨0, 0⟩, ⟨255, 0⟩] = 16 * 1 + 256 * (2 + 1 + 0 + 64) := by decide +kernel

theorem test_met_LibDataExtendsTheLoad :
    ([[0, 0, 0, 0], [0, 0, 0, 0, 0xFF], [1, 0, 0, 0, 0xFF]].all fun p =>
        decide (arrivalOf (sent .libData p) = .command .libData 7 p)) = true
      ∧ linkTakes (loading calm) ∧ calm.lib.state ≠ .loading ∧ (loading calm).lib.state = .loading
      ∧ (loading calm).lib.commit = .none ∧ (loading calm).lib.write = none
      ∧ field [0, 0, 0, 0, 0xFF] 0 4 = (loading calm).lib.received
      ∧ field [1, 0, 0, 0, 0xFF] 0 4 ≠ (loading calm).lib.received :=
  ⟨by decide +kernel, takes_of_parts (by decide +kernel), by decide +kernel⟩

/-- A load with a chunk write in flight. -/
def writing : State :=
  { loading calm with lib := { (loading calm).lib with write := some { offset := 0, bytes := [0xFF] } } }

/-- A load whose commit walk is in flight. -/
def committing : State := { loading calm with lib := { (loading calm).lib with commit := .walking } }

theorem test_met_LibCommitStartsTheCommitWalk :
    arrivalOf (sent .libCommit [0, 0]) = .command .libCommit 7 [0, 0] ∧ (loading calm).lib.state = .loading
      ∧ (loading calm).lib.commit = .none ∧ writing.lib.write = some { offset := 0, bytes := [0xFF] }
      ∧ committing.lib.commit = .walking ∧ committing.lib.generation ≤ 65535 ∧ committing.lib.commitFault = some .size
      ∧ ({ committing.lib with received := 4 } : Library).commitFault = some .crc
      ∧ ({ committing.lib with received := 4, hostCrc := 0xFFFF } : Library).commitFault = none
      ∧ settled (loading calm) ∧ (loading calm).lib.write = none
      ∧ (loading calm).lib.received ≠ (loading calm).lib.expected :=
  ⟨by decide +kernel, by decide +kernel, by decide +kernel, by decide +kernel, by decide +kernel, by decide +kernel,
    by decide +kernel, by decide +kernel, by decide +kernel, settled_of_parts (by decide +kernel), by decide +kernel⟩

/-- A library in which entry 1 of CLEAR, behind 16 bytes of BLANK, holds a code of a value, and its lead entry another. -/
def coded (lead own : Byte) : Library :=
  { Library.initial with
    bounds := [0, 100], directory := [⟨1, 0⟩, ⟨2, 1⟩, ⟨1, 0⟩, ⟨0, 0⟩, ⟨0, 0⟩]
    data := List.replicate 16 0 ++ [lead, own * 4] }

/-- The first set with an imbalance check is BLANK's, the last CLEAR's; SETTLE has none (R23, R32). -/
theorem test_met_LibCommitStartsTheCommitWalk_entries :
    1 ≤ (coded 1 2).bandCount ∧ (coded 1 2).directory[1]? = some ⟨2, 1⟩
      ∧ storedCode (coded 1 2) 1 ⟨2, 1⟩ 0 0 = 1 ∧ storedCode (coded 1 2) 1 ⟨2, 1⟩ 1 1 = 2
      ∧ drivenImbalance (coded 1 2) 1 ⟨2, 1⟩ 1 = 0 ∧ (coded 1 2).entryFault 1 ⟨2, 1⟩ 1 = none
      ∧ drivenImbalance (coded 1 1) 1 ⟨2, 1⟩ 1 = 2 ∧ (coded 1 1).entryFault 1 ⟨2, 1⟩ 1 = some .unbalanced
      ∧ drivenImbalance (coded 0 2) 1 ⟨2, 1⟩ 1 = -1 ∧ (coded 1 3).entryFault 1 ⟨2, 1⟩ 1 = some .badCode
      ∧ (coded 1 1).allImbalances[1]?.map (fun xs => xs.take 2) = some [1, 2]
      ∧ 2 * (coded 1 1).bandCount ≤ 2 ∧ 1 < 2 * (coded 1 1).bandCount := by decide +kernel

theorem test_met_LibAbandonEndsTheLoad :
    arrivalOf (sent .libAbandon []) = .command .libAbandon 7 [] ∧ arrivalOf (sent .libAbandon [0]) = .command .libAbandon 7 [0]
      ∧ calm.lib.state ≠ .loading ∧ committing.lib.commit ≠ .none
      ∧ (loading calm).temp.band = (loading calm).temp.reading.bind (loading calm).lib.lookupBand := by decide +kernel

theorem test_met_GenerationNumberFollowsTheCommits :
    resets .powerOn = true ∧ committing.lib.generation ≤ 65535 ∧ (∃ u, exec .commitWalkEnd committing = .next u)
      ∧ resets .calibrationEnd = false ∧ Instr.calibrationEnd ≠ .commitWalkEnd :=
  ⟨rfl, by decide, ⟨_, rfl⟩, rfl, by decide⟩

/-! ### … temperature and rails -/

theorem test_met_ReadingsAndExpiriesMoveTheTemperature :
    arrivalOf (sent .temp (leSigned 1000)) = .command .temp 7 (leSigned 1000)
      ∧ arrivalOf (sent .temp (leSigned (-400))) = .command .temp 7 (leSigned (-400))
      ∧ fieldSigned (leSigned 1000) 0 = 1000 ∧ fieldSigned (leSigned (-400)) 0 = -400
      ∧ calm.temp.reading = none ∧ calm.temp.state ≠ .valid ∧ calm.req.queue = [] ∧ posted.req.queue ≠ []
      ∧ ({ calm.temp with reading := some 0, staleness := 2 } : Temperature).reading ≠ none
      ∧ (([-100, 0, 100] : List Int).Pairwise fun a b => a < b)
      ∧ [-101, -100, -1, 0, 99, 100].map
          ({ Library.initial with state := .valid, bounds := [-100, 0, 100] } : Library).lookupBand
          = [none, some 0, some 0, some 1, some 1, none] := by decide +kernel

theorem test_met_RailsAlwaysAnswersTheRailState :
    ([[], [0], [1], [2]].all fun p => decide (arrivalOf (sent .rails p) = .command .rails 7 p)) = true
      ∧ ([2] : List Byte) ≠ [1] ∧ ([2] : List Byte) ≠ [0] ∧ 1 < field [2] 0 1 := by decide +kernel

/-- A state whose rails have failed. -/
def failed : State := { calm with rails := { calm.rails with state := .fault } }

/-- A state whose rails are falling. -/
def falling : State := { calm with rails := { calm.rails with state := .falling, fallTime := some 20 } }

/-- A state whose rails are rising, with an ARMED lane. -/
def rising : State :=
  withLane .armed { calm with rails := { calm.rails with state := .rising, enable := true, riseTimer := some 100 } }

theorem test_met_RailCommandsAndTimersMoveTheRails :
    linkTakes (idling calm) ∧ (idling calm).rails.state = .on ∧ demand (idling calm) = false
      ∧ calm.rails.state ≠ .on ∧ demand (scanning (withLane .armed calm)) = true
      ∧ linkTakes failed ∧ failed.rails.state = .fault ∧ (idling calm).rails.idleTimer ≠ none
      ∧ falling.rails.state = .falling ∧ falling.rails.fallTime ≠ none :=
  ⟨takes_of_parts (by decide +kernel), by decide +kernel, by decide +kernel, by decide +kernel, by decide +kernel,
    takes_of_parts (by decide +kernel), by decide +kernel⟩

/-- A state whose rails are rising without demand, one high sample before ON, with a hold time. -/
def unasked (hold : Nat) : State :=
  { calm with
    settings := { calm.settings with holdTime := hold }
    rails := { calm.rails with state := .rising, enable := true, riseTimer := some 100, lastSample := true } }

/-- At ON without demand the idle timer runs with the hold time; with a hold time of 0 the rails fall (R138); a lane that
is left by demand at hold time 0 lets them fall too, and in FAULT a CLEAR_FAULT alone leaves it. -/
theorem test_met_RailCommandsAndTimersMoveTheRails_loads :
    ([(2000, RailState.on), (0, .falling)].all fun (hold, state) =>
        decide (demand (unasked hold) = false) && decide ((unasked hold).rails.idleTimer = none)
          && match exec (.powerGoodSample true) (unasked hold) with
            | .next u => decide (u.rails.state = state) && decide (u.rails.accepted = true)
                && decide (u.rails.idleTimer = if hold = 0 then none else some hold)
                && decide (u.rails.fallTime = if hold = 0 then some 20 else none)
            | _ => false) = true
      ∧ settled (scanning (withLane .armed calm)) ∧ (scanning (withLane .armed calm)).rails.idleTimer = none
      ∧ settled calm ∧ calm.rails.state ≠ .fault ∧ resets (.powerGoodSample true) = false :=
  ⟨by decide +kernel, settled_of_parts (by decide +kernel), by decide +kernel, settled_of_parts (by decide +kernel),
    by decide +kernel, by decide +kernel⟩

theorem test_met_PowerGoodIsFiltered :
    rising.rails.state = .rising ∧ demand rising = true ∧ rising.scan.timer = none
      ∧ (filterSample true { rising.rails with lastSample := true }).accepted = true
      ∧ (filterSample true rising.rails).accepted = false ∧ settled calm ∧ calm.rails.state ≠ .rising
      ∧ calm.rails.state ≠ .on :=
  ⟨by decide +kernel, by decide +kernel, by decide +kernel, by decide +kernel, by decide +kernel,
    settled_of_parts (by decide +kernel), by decide +kernel, by decide +kernel⟩

/-- A state whose lane 0 drives, one low power-good sample before a rail fault. -/
def failing : State :=
  { scanning (withLane .active posted) with
    rails := { (scanning posted).rails with accepted := true } }

/-- A state that keeps the laws: rails ON, a DRIVEN frame in flight, lane 0 driving one part of the request, the other WAITING,
its chunk in a write, and behind it a chunk of a request that has gone. -/
def lawful : State :=
  { failing with
    req := { failing.req with
      table := [{ request with partsUsed := 2, state := .running, tally := some { rowsAccepted := 2, closed := false } }]
      nextAge := 2 }
    inflow := { failing.inflow with
      buffer := [{ age := 0, firstRow := 0, rowCount := 2, data := [0x35, 0x7A] },
        { age := 1, firstRow := 0, rowCount := 1, data := [0x11] }]
      writing := some 1 }
    scan := { failing.scan with frame := some { mark := .driven, nextRow := 128 } } }

/-- Fresh pixels have no owner. -/
theorem ownerLaw_of_fresh {s : State} (fresh : s.px.pixels = []) : ownerLaw s := by
  intro x y l _ own
  simp [pixelAt, fresh, storeGet, PixelRecord.initial] at own

/-- Its one lane. -/
theorem laneAt_lawful (l : LaneId) : laneAt lawful l = if l = 0 then some (laneIn .active) else none := by
  revert l; decide +kernel

theorem test_lawful_owners_and_requests : ownershipLaw lawful := by
  refine ⟨⟨by decide +kernel, by decide +kernel⟩, ?_, ⟨?_, ?_, ?_⟩, ?_, ?_, ?_, ⟨rfl, ?_⟩, ownerLaw_of_fresh rfl, ?_⟩
  · unfold requestLaw; decide +kernel
  · decide +kernel
  · decide +kernel
  · have waiting : ∀ e ∈ lawful.req.queue, e.admitting = false
        ∧ ∃ r ∈ lawful.req.table, r.age = e.age ∧ r.state ≠ .reporting ∧ (r.withdrawn = true → e.admitting = true) := by
      decide +kernel
    intro e mem
    refine ⟨(waiting e mem).2, fun admitting => ?_, fun ⟨_, walk, _⟩ => nomatch walk⟩
    rw [(waiting e mem).1] at admitting
    cases admitting
  · unfold laneLaw; decide +kernel
  · unfold partsLaw; decide +kernel
  · exact ⟨List.nodup_nil, fun _ mem => nomatch mem⟩
  · exact fun _ walk => nomatch walk
  · exact ⟨fun _ mem => (nomatch mem), fun _ _ _ walk => nomatch walk⟩

theorem test_lawful_jobs_and_pages : jobLaw lawful ∧ freePagesLaw lawful ∧ pagesLaw lawful := by
  have whole : List.range 3584 = 0 :: (List.range 3583).map Nat.succ := List.range_succ_eq_map
  have free : lawful.pool.free = (List.range 3583).map Nat.succ := by
    simp only [lawful, failing, scanning, withLane, setLane, posted, whole, List.drop_one, List.tail_cons]
  have held : heldPages lawful = [0] := by decide +kernel
  refine ⟨⟨.nil, by decide +kernel, fun _ mem => (nomatch mem), .nil, fun _ mem => nomatch mem⟩, ?_, ?_, by decide +kernel⟩
  · rw [freePagesLaw, free]
    exact List.pairwise_map.mpr (List.pairwise_lt_range.imp Nat.succ_lt_succ)
  · rw [free, held, Config.stagingPages, whole]
    exact List.perm_append_singleton 0 _

theorem test_lawful_order_rows_and_start : orderLaw lawful ∧ rowsLaw lawful ∧ startLaw lawful := by
  refine ⟨?_, ?_, ?_⟩
  · have one : ∀ r ∈ lawful.req.table, r.age = 0 := by decide +kernel
    exact fun _ _ q live _ r other => by simp [one q live, one r other]
  · unfold rowsLaw; decide +kernel
  · refine ⟨fun l ln used => ?_, fun _ walk => nomatch walk⟩
    rw [laneAt_lawful] at used
    split at used
    · cases used
      exact ⟨fun _ reached => absurd reached (by decide), fun _ early => (by cases early), fun armed => (by cases armed)⟩
    · cases used

theorem test_met_RailFaultsAbortEveryActiveLane_requests :
    lawful.rails.state = .on ∧ lawful.rails.accepted = true ∧ lawful.rails.lastSample = false
      ∧ (lawful.req.table.map fun r => (r.age, r.tag, r.flushable, r.partsUsed)) = [(0, 1, true, 2)]
      ∧ anyLane lawful 1 (fun st => decide (st = .active)) = true
      ∧ (entryOf lawful 0).isSome = true ∧ isAdmitting lawful 0 = false
      ∧ anyLane (setLane 0 none lawful) 1 (fun st => decide (st = .active)) = false := by
  decide +kernel

theorem test_met_RailFaultsAbortEveryActiveLane :
    failing.rails.state = .on ∧ failing.rails.accepted = true ∧ failing.rails.lastSample = false
      ∧ rising.rails.riseTimer ≠ none ∧ laneAt failing 0 = some (laneIn .active)
      ∧ laneAt (withLane (.retiring .complete 0) failing) 0 = some (laneIn (.retiring .complete 0)) := by decide +kernel

/-! ### … requests and inflow -/

/-- A POST_UPDATE over the small rectangle: tag 2, SETTLE, INFLOW or FILL. -/
def posting (source : Byte) : List Byte := [2, 0, 0, 0, 0, 0, 2, 0, 2, 0, 3, 0, 0, source, 5, 0]

theorem test_met_PostUpdateCreatesItsRequest :
    ([0, 1].all fun src =>
        decide (arrivalOf (sent .postUpdate (posting src)) = .command .postUpdate 7 (posting src))
          && decide ((posting src).length = 16) && (postUpdateFields (posting src)).isSome) = true
      ∧ posted.mem.calibrating = false ∧ rectCheck posted.px.geometry small = none ∧ posted.lib.state ≠ .loading
      ∧ (∀ r ∈ posted.req.table, r.tag ≠ 2) ∧ posted.req.table.length < 24
      ∧ pagesNeeded small ≤ posted.pool.free.length ∧ held posted = true := by decide +kernel

/-- PIXELS of one row of the small rectangle for tag 1, from a first row on. -/
def oneRow (first : Byte) : List Byte := [1, 0, first, 0, 1, 0, 1, 0, 0x35]

theorem test_met_PixelsAreAcceptedInOrder :
    arrivalOf (sent .pixels (oneRow 0)) = .command .pixels 7 (oneRow 0)
      ∧ arrivalOf (sent .pixels (oneRow 1)) = .command .pixels 7 (oneRow 1) ∧ 8 ≤ (oneRow 0).length
      ∧ (pixelsFields (oneRow 0)).dataLength = (pixelsFields (oneRow 0)).data.length
      ∧ posted.mem.calibrating = false ∧ findTag posted (pixelsFields (oneRow 0)).tag = some request
      ∧ findAge posted request.age = some request ∧ request.withdrawn = false ∧ request.source = .inflow
      ∧ request.tally = some { rowsAccepted := 0, closed := false } ∧ 0 ≠ request.rect.height
      ∧ (pixelsFields (oneRow 0)).rowCount ≠ 0 ∧ (pixelsFields (oneRow 1)).firstRow ≠ 0
      ∧ (pixelsFields (oneRow 0)).firstRow = 0
      ∧ (pixelsFields (oneRow 0)).dataLength = (pixelsFields (oneRow 0)).rowCount * (request.rect.width / 2)
      ∧ (pixelsFields (oneRow 0)).dataLength ≤ freeSpace posted ∧ posted.inflow.writing = none
      ∧ lawful.inflow.writing ≠ none
      ∧ posted.inflow.buffer = [] := by decide +kernel

/-- The request's entry under its walk. -/
def walked : State :=
  { posted with
    req := { posted.req with queue := [{ entry with admitting := true }] }
    adm := { posted.adm with
      walk := some { age := 0, band := 0, mode := .settle, dataReady := true, pages := some [0], readings := [] } } }

theorem test_met_CancelEndsWhatHasNotDriven :
    arrivalOf (sent .cancel [1, 0, 0]) = .command .cancel 7 [1, 0, 0]
      ∧ arrivalOf (sent .cancel [1, 0, 1]) = .command .cancel 7 [1, 0, 1] ∧ field [1, 0, 1] 2 1 = 1
      ∧ findTag posted (field [1, 0, 0] 0 2) = some request ∧ request.withdrawn = false ∧ request.state ≠ .reporting
      ∧ isAdmitting posted request.age = false ∧ anyLane posted request.tag LaneState.begun = false
      ∧ anyLane (failing) request.tag LaneState.begun = true ∧ isAdmitting failing request.age = false
      ∧ laneAt (withLane .armed posted) 0 = some (laneIn .armed)
      ∧ isAdmitting walked request.age = true ∧ anyLane walked request.tag LaneState.begun = false
      ∧ anyLane (scanning (withLane .active walked)) request.tag LaneState.begun = true
      ∧ isAdmitting (scanning (withLane .active walked)) request.age = true ∧ request.cancelPending = .none
      ∧ entryOf posted request.age ≠ none ∧ request.partsFinished + 1 = request.partsUsed
      ∧ (request.age :: posted.req.line.map fun h => h.age).Nodup ∧ held posted = true
      ∧ findAge lawful request.age ≠ none ∧ anyLane lawful request.tag LaneState.begun = true
      ∧ (lawful.req.table.all fun r => decide (r.partsFinished + 1 < r.partsUsed)) = true := by decide +kernel

/-- A state whose lane 0 drives, at rest. -/
theorem test_driving_takes_at_rest :
    linkTakes failing ∧ settled failing ∧ linkTakes walked ∧ settled walked
      ∧ settled (scanning (withLane .active walked)) :=
  ⟨takes_of_parts (by decide +kernel), settled_of_parts (by decide +kernel), takes_of_parts (by decide +kernel),
    settled_of_parts (by decide +kernel), settled_of_parts (by decide +kernel)⟩

/-- A CANCEL under a walk is TOO_LATE where a lane has begun, is pending else, and a second one without FORCE keeps what is
pending (R52); one of a request that waits ends it at once with CANCELLED (R50, R56). -/
theorem test_met_CancelEndsWhatHasNotDriven_results :
    (match exec (.cancel (sent .cancel [1, 0, 0])) (scanning (withLane .active walked)) with
      | .next u => decide ((u.link.slot.map fun r => r.result) = some .tooLate)
      | _ => false) = true
      ∧ ([(CancelPending.none, (0 : Byte), CancelPending.plain), (.none, 1, .forced), (.plain, 1, .forced),
          (.forced, 0, .forced)].all fun (old, force, new) =>
        match exec (.cancel (sent .cancel [1, 0, force]))
            { walked with req := { walked.req with table := [{ request with cancelPending := old }] } } with
        | .next u => decide (u.req.table.map (fun r => (r.cancelPending, r.tally))
            = [(new, some { rowsAccepted := 0, closed := true })])
        | _ => false) = true
      ∧ (match exec (.cancel (sent .cancel [1, 0, 1])) posted with
        | .next u => decide ((u.notices.log.map fun c => c.outcome) = [.cancelled]) && u.req.table.isEmpty
        | _ => false) = true := by decide +kernel

theorem test_met_CancelIsCheckedInOrder :
    ([[1, 0], [1, 0, 2], [9, 0, 0], [1, 0, 0]].all fun p =>
        decide (arrivalOf (sent .cancel p) = .command .cancel 7 p)) = true
      ∧ 1 < field [1, 0, 2] 2 1 ∧ findTag posted (field [9, 0, 0] 0 2) = none
      ∧ findTag posted (field [1, 0, 0] 0 2) = some request ∧ request.state = .openState := by decide +kernel

/-! ### … copies and overlays -/

/-- A POST_COPY of the small rectangle to column 2: tag 2, SETTLE. -/
def copying : List Byte := [2, 0, 0, 0, 0, 0, 2, 0, 2, 0, 2, 0, 0, 0, 3, 0, 0]

theorem test_met_PostCopyCreatesAJobAndItsRequest :
    arrivalOf (sent .postCopy copying) = .command .postCopy 7 copying ∧ copying.length = 17
      ∧ posted.mem.calibrating = false ∧ rectCheck posted.px.geometry (copySource copying) = none
      ∧ rectCheck posted.px.geometry (copyDestination copying) = none ∧ (postChoice copying 14).isSome = true
      ∧ posted.lib.state ≠ .loading ∧ (∀ r ∈ posted.req.table, r.tag ≠ field copying 0 2)
      ∧ posted.req.table.length < 24 ∧ posted.copier.jobs.length < 8
      ∧ pagesNeeded (copySource copying) ≤ posted.pool.free.length ∧ held posted = true := by decide +kernel

/-- A saved image of the small rectangle, in a page of its own. -/
def saved (page : Nat) : Overlay := { rect := small, pages := [page], capturing := none }

/-- A state with images on the overlay stack. -/
def stacked (n : Nat) : State :=
  { panel with
    copier := { jobs := [], overlays := (List.range n).map saved }
    pool := { free := (List.range 3584).drop n, bytes := [] } }

theorem test_met_OverlayCommandsMoveTheStack :
    linkTakes (stacked 4)
      ∧ arrivalOf (sent .overlayPush [0, 0, 0, 0, 2, 0, 2, 0]) = .command .overlayPush 7 [0, 0, 0, 0, 2, 0, 2, 0]
      ∧ rectCheck (stacked 4).px.geometry (rectField [0, 0, 0, 0, 2, 0, 2, 0] 0) = none
      ∧ (stacked 4).mem.calibrating = false ∧ (stacked 4).copier.jobs.length < 8
      ∧ pagesNeeded small ≤ (stacked 4).pool.free.length ∧ (stacked 4).copier.overlays.length = 4
      ∧ (stacked 0).copier.overlays.length ≤ 4
      ∧ arrivalOf (sent .overlayPop [2, 0, 3, 0, 0]) = .command .overlayPop 7 [2, 0, 3, 0, 0]
      ∧ arrivalOf (sent .overlaySwap [2, 0, 3, 0, 0]) = .command .overlaySwap 7 [2, 0, 3, 0, 0]
      ∧ (overlayChoice [2, 0, 3, 0, 0]).isSome = true ∧ (stacked 1).lib.state ≠ .loading
      ∧ (stacked 1).copier.overlays.getLast? = some (saved 0) ∧ (saved 0).capturing = none
      ∧ (∀ r ∈ (stacked 1).req.table, r.tag ≠ field [2, 0, 3, 0, 0] 0 2) ∧ (stacked 1).req.table.length < 24
      ∧ held (stacked 1) = true :=
  ⟨takes_of_parts (by decide +kernel), by decide +kernel⟩

/-- For every list of checks a payload that arrives as its command and a check that decides, at a state at rest. -/
theorem test_met_refusals :
    ([Kind.counters, .configure, .restart, .libBegin, .libCommit, .temp, .postUpdate, .pixels, .postCopy, .overlayPush,
        .overlayPop, .overlaySwap, .assume].all fun k =>
        decide (arrivalOf (sent k [0, 0, 9]) = .command k 7 [0, 0, 9])) = true
      ∧ firstRefusal (actionChecks [0, 0, 9]) = some .badLength ∧ firstRefusal (actionChecks [2]) = some .badField
      ∧ firstRefusal (configureChecks [0, 0, 9] posted) = some .badLength
      ∧ firstRefusal (configureChecks configuration posted) = some .busy
      ∧ firstRefusal (configureChecks (configuration.set 8 128) calm) = some .badField
      ∧ firstRefusal (libBeginChecks [0, 0, 9] posted) = some .busy ∧ firstRefusal (libBeginChecks [] calm) = some .badLength
      ∧ firstRefusal (libBeginChecks [0, 0, 9] calm) = some .badField
      ∧ firstRefusal (libBeginChecks (oneBand.set 5 0) calm) = some .badField
      ∧ firstRefusal (libCommitChecks [0, 0] calm) = some .notLoading
      ∧ firstRefusal (libCommitChecks [0, 0] committing) = some .busy
      ∧ firstRefusal (tempChecks (leSigned 1001)) = some .badField ∧ firstRefusal (tempChecks (leSigned (-400))) = none
      ∧ firstRefusal (postUpdateChecks (posting 0) calm) = some .notConfigured
      ∧ firstRefusal (postUpdateChecks ((posting 0).set 15 1) panel) = some .badField
      ∧ firstRefusal (postUpdateChecks ((posting 0).set 0 1) posted) = some .tagInUse
      ∧ firstRefusal (postUpdateChecks ((posting 0).set 7 1) posted) = some .outOfPanel
      ∧ firstRefusal (pixelsChecks [0, 0, 9] posted) = some .badLength
      ∧ firstRefusal (pixelsChecks ((oneRow 0).set 0 9) posted) = some .noTag
      ∧ firstRefusal (pixelsChecks (oneRow 1) posted) = none
      ∧ firstRefusal (rowsChecks (oneRow 1) request { rowsAccepted := 0, closed := false } posted) = some .rowOrder
      ∧ firstRefusal (rowsChecks (oneRow 1) request { rowsAccepted := 1, closed := true } posted) = some .tooLate
      ∧ firstRefusal (postCopyChecks (copying.set 10 1) posted) = some .badField
      ∧ firstRefusal (overlayPushChecks [0, 0, 0, 0, 2, 0, 0, 0] panel) = some .badField
      ∧ firstRefusal (overlayPopChecks [2, 0, 4, 0, 0] (stacked 1)) = some .badField
      ∧ firstRefusal (overlayPopChecks [2, 0, 3, 0, 0] (stacked 0)) = some .empty
      ∧ firstRefusal (overlaySwapChecks [2, 0, 3, 0, 0] (stacked 0)) = some .empty
      ∧ firstRefusal (assumeChecks [0, 0, 0, 0, 2, 0, 2, 0, 16] panel) = some .badField := by decide +kernel

/-- A RUNNING job over the small rectangle, one byte copied. -/
def running : Job :=
  { age := 5, purpose := .push, rect := small, pages := [0], state := .running 2 none, rounding := false }

/-- A state with that job. -/
def snapshotting : State :=
  { panel with copier := { jobs := [running], overlays := [{ rect := small, pages := [0], capturing := some 5 }] } }

theorem test_met_SnapshotsCopyTheShownLevels :
    currentJob snapshotting = some (running, 2, none) ∧ running.rect.area % 2 = 0 ∧ 2 ≤ running.rect.area
      ∧ running.pages.Nodup ∧ imageAddress running.pages 1 = some 1
      ∧ ((none : Option Level).isSome = true ↔ 2 % 2 = 1) ∧ ((some 7 : Option Level).isSome = true ↔ 3 % 2 = 1) := by
  decide +kernel

/-- A state with two PENDING jobs over the small rectangle, which a request older than the first holds back from the
first, and whose entry is gone or not. -/
def waitingJobs (queue : List QueueEntry) : State :=
  { posted with
    req := { posted.req with queue := queue }
    copier := { jobs := [{ running with age := 1, state := .pending },
                  { running with age := 2, state := .pending, rect := { small with col := 2 } }]
                overlays := [{ rect := small, pages := [1], capturing := some 1 },
                  { rect := { small with col := 2 }, pages := [2], capturing := some 2 }] } }

theorem jobs_of_waitingJobs (queue : List QueueEntry) :
    storeLaw (waitingJobs queue) ∧ (∀ k ∈ (waitingJobs queue).copier.jobs, k.running = false)
      ∧ (∀ x y, (pixelAt (waitingJobs queue) x y).owner = none) :=
  ⟨(⟨by decide +kernel, by decide +kernel⟩ : storeLaw (waitingJobs [])), by simp [waitingJobs, running, Job.running],
    fun _ _ => rfl⟩

/-- The older job waits for the older entry, and the younger may start; without the entry the older may (R120). -/
theorem test_met_SnapshotsCopyTheShownLevels_judging :
    ¬ mayStart (waitingJobs [entry]) { running with age := 1, state := .pending }
      ∧ mayStart (waitingJobs [entry]) { running with age := 2, state := .pending, rect := { small with col := 2 } }
      ∧ mayStart (waitingJobs []) { running with age := 1, state := .pending }
      ∧ (((judgeJobs (waitingJobs [entry])).copier.jobs).map Job.running = [false, true])
      ∧ (((judgeJobs (waitingJobs [])).copier.jobs).map Job.running = [true, false]) := by
  refine ⟨fun ⟨_, _, _, order⟩ => ?_, ⟨rfl, fun x y _ => (jobs_of_waitingJobs _).2.2 x y, rfl, ?_⟩,
    ⟨rfl, fun x y _ => (jobs_of_waitingJobs _).2.2 x y, rfl, fun _ mem => nomatch mem⟩, by decide +kernel, by decide +kernel⟩
  · exact absurd (order entry List.mem_cons_self (by decide) request (by decide +kernel)) (by decide +kernel)
  · intro e mem _ r found
    cases List.mem_singleton.mp mem
    cases (show some request = some r from found)
    decide +kernel

/-- A CANCEL that takes an older entry away, and the end of a snapshot, start the next job (R120). -/
theorem test_met_SnapshotsCopyTheShownLevels_events :
    (match exec (.cancel (sent .cancel [1, 0, 0])) (waitingJobs [entry]) with
      | .next u => u.req.queue.isEmpty && decide (u.copier.jobs.map Job.running = [true, false])
      | _ => false) = true
      ∧ (match exec .copierJobEnd (judgeJobs (waitingJobs [])) with
        | .next u => decide (u.copier.jobs.map Job.running = [true])
            && decide (u.copier.overlays.map (fun o => o.capturing) = [none, some 2])
        | _ => false) = true := by decide +kernel

/-! ### … pixels, chunks, admission, lanes -/

/-- An ASSUME of level 15 over the small rectangle. -/
def assuming : List Byte := [0, 0, 0, 0, 2, 0, 2, 0, 15]

/-- A state with an assume walk in flight. -/
def assumed : State := { panel with px := { panel.px with walk := some (.assume small 15 1) } }

/-- A state with the initialisation walk in flight. -/
def initialised : State := { panel with px := { panel.px with walk := some (.initialise 0) } }

theorem test_met_AssumeAndItsWalkWriteTheRectangle :
    arrivalOf (sent .assume assuming) = .command .assume 7 assuming ∧ assuming.length = 9
      ∧ rectCheck panel.px.geometry (rectField assuming 0) = none ∧ field assuming 8 1 ≤ 15 ∧ panel.px.walk = none
      ∧ panel.adm.walk = none ∧ (∀ j ∈ panel.copier.jobs, j.running = true → j.rect.intersects (rectField assuming 0) = false)
      ∧ anyOwned panel (rectField assuming 0) = false ∧ assumed.px.walk = some (.assume small 15 1)
      ∧ small.col + small.width ≤ panelWidth assumed ∧ small.reaches 1 (small.area - 1) 1 0 = true
      ∧ small.reaches 1 (small.area - 1) 0 0 = false ∧ initialised.px.walk = some (.initialise 0) := by decide +kernel

/-- The chunk of a whole image of the small rectangle. -/
def chunk : Chunk := { age := 0, firstRow := 0, rowCount := 2, data := [0x35, 0x7A] }

/-- A state in which its write is in flight. -/
def inflowing : State := { posted with inflow := { posted.inflow with buffer := [chunk], writing := some 1 } }

theorem test_met_InflowChunkWritesFillTheImage :
    inflowing.inflow.writing = some 1 ∧ inflowing.inflow.buffer = [chunk] ∧ findAge inflowing chunk.age = some request
      ∧ request.pages = some [0] ∧ [0].Nodup ∧ (writtenBytes request chunk)[1]? = some 0x7A
      ∧ imageAddress [0] (chunk.firstRow * (request.rect.width / 2) + 1) = some 1
      ∧ request.tally = some { rowsAccepted := 0, closed := false } ∧ request.requestedMode ≠ .quick
      ∧ writtenBytes { request with requestedMode := .quick } { chunk with data := [0x78, 0x8F] } = [0x0F, 0xFF] := by
  decide +kernel

/-- The end of a chunk write drops the chunk behind it, whose request has gone, with flag and notice, and raises REFILL
(R68, R72, R73). -/
theorem test_met_InflowChunkWritesFillTheImage_drop :
    (match exec .inflowChunkWriteEnd { lawful with inflow := { lawful.inflow with latch := true } } with
      | .next u => u.inflow.buffer.isEmpty && u.inflow.writing.isNone && u.inflow.discard && !u.inflow.latch
          && u.notices.flags.getLsbD 6 && u.notices.flags.getLsbD 5
      | _ => false) = true := by decide +kernel

/-- A library in force with one band, in which SETTLE has two frames. -/
def oneBandLibrary : Library :=
  { Library.initial with
    state := .valid, bounds := [0, 100]
    directory := [⟨1, 0⟩, ⟨1, 0⟩, ⟨2, 0⟩, ⟨0, 0⟩, ⟨0, 0⟩] }

/-- The request's walk, all four pixels known to be white and its targets black. -/
def admitting : State :=
  { walked with
    lib := oneBandLibrary
    req := { walked.req with table := [{ request with source := .fill 0 }] }
    px := { walked.px with pixels := (List.range 2).flatMap fun y => (List.range 2).map fun x =>
      (y * 256 + x, { PixelRecord.initial with indeterminate := false }) } }

/-- The same walk under the ghost policy REFUSE: the fresh pixels refuse it. -/
def refusing : State :=
  { walked with req := { walked.req with table := [{ request with ghost := .refuse }] } }

/-- A reading of a white pixel of tile 0. -/
def reading (o : Ownership) (tileForeign : Bool) (target : Level) : Reading :=
  { shown := 15, residue := 0, balance := 0, indeterminate := false, ownership := o, tile := 0, tileForeign := tileForeign
    target := some target }

theorem test_met_AdmissionArmsALane_pass :
    entryOf admitting request.age = some { entry with admitting := true } ∧ freeLane admitting = some 0
      ∧ findAge admitting request.age = some { request with source := .fill 0 }
      ∧ ({ request with rowsWritten := 2 } : Request).dataReady = true ∧ request.dataReady = false
      ∧ earlyEligible admitting request = false ∧ olderIntersects admitting request = false
      ∧ small.intersects small = true ∧ held admitting = true ∧ held calm = true
      ∧ [(1, 128, 8), (15, 129, 121), (16, 5, 5)].all (fun (t, h, rows) => decide (earlyPoint t h = rows)) = true
      ∧ 0 < small.area ∧ small.col + small.width ≤ panelWidth posted
      ∧ ((addToTiles 3 small (ownPixels 3 small [3] posted)).px.tiles = [(0, 3)])
      ∧ (pixelAt (ownPixels 3 small [3] posted) 1 1).owner = some 3
      ∧ (oneBandLibrary.setOf .settle 0).frames ≠ 0 ∧ (oneBandLibrary.setOf .quick 0).frames = 0 := by decide +kernel

theorem test_met_AdmissionArmsALane_judgement :
    collision .pixel .settle [reading .foreign true 0] = true ∧ collision .tile .settle [reading .free true 15] = true
      ∧ collision .pixel .settle [reading .free true 0] = false
      ∧ collisionStage .pixel request entry .settle [reading .foreign true 0] = none
      ∧ collisionStage .pixel { request with collision := .split, partsUsed := 7 } entry .settle
          [reading .foreign true 0, reading .free true 0] = some ([(1, reading .free true 0)], true)
      ∧ collisionStage .pixel { request with collision := .split, partsUsed := 8 } entry .settle
          [reading .foreign true 0, reading .free true 0] = none
      ∧ collisionStage .pixel { request with collision := .split } entry .settle [reading .foreign true 0]
          = some ([], true)
      ∧ collisionStage .pixel request entry .settle [reading .free false 15] = some ([], false)
      ∧ rectBlocked .pixel [reading .sibling false 0] = true ∧ rectBlocked .tile [reading .free true 0] = true
      ∧ ghostFailure 8 64 .quick [{ reading .free false 0 with residue := 6 }] = none
      ∧ ghostFailure 8 64 .quick [{ reading .free false 0 with residue := 7 }] = some (.residue, .clear)
      ∧ ghostFailure 8 64 .settle [{ reading .free false 0 with balance := -63 }] = none
      ∧ ghostFailure 8 64 .settle [{ reading .free false 0 with balance := -64 }] = some (.balance, .clear)
      ∧ ghostFailure 8 64 .clear [{ reading .free false 0 with indeterminate := true }] = some (.indeterminate, .blank)
      ∧ ghostFailure 8 64 .blank [{ reading .free false 0 with indeterminate := true }] = none := by decide +kernel

/-- The walk of a request with two parts, its pass to end with it. -/
def lastWalk (s : State) (r : Request) : State :=
  { s with
    req := { s.req with table := [{ r with partsUsed := 2 }] }
    adm := { s.adm with passRunning := true, passCut := true } }

/-- The walk of fresh pixels with the data not ready: the upgrade to BLANK finds no lead frames to start early with. -/
def upgrading : State :=
  { walked with
    lib := oneBandLibrary
    adm := { walked.adm with walk := walked.adm.walk.map fun w => { w with dataReady := false } } }

theorem test_met_AdmissionArmsALane :
    (∃ w r e, admitting.adm.walk = some w ∧ findAge admitting w.age = some r ∧ entryOf admitting w.age = some e
        ∧ r.withdrawn = false ∧ r.cancelPending = .none ∧ r.withdrawalPending = none
        ∧ judgeWalk admitting.settings admitting.lib r e (advanceWalk admitting r r.rect.area w)
            = .admits .settle none [0, 1, 2, 3] false
        ∧ freeLane admitting = some 0 ∧ r.partsFinished < r.partsUsed ∧ admitting.adm.passCut = false)
      ∧ (∃ w r e, refusing.adm.walk = some w ∧ findAge refusing w.age = some r ∧ entryOf refusing w.age = some e
        ∧ judgeWalk refusing.settings refusing.lib r e (advanceWalk refusing r r.rect.area w)
            = .resolves .ghostRefused (some .indeterminate)
        ∧ r.partsFinished + 1 = r.partsUsed ∧ r.state ≠ .reporting
        ∧ (r.age :: refusing.req.line.map fun h => h.age).Nodup)
      ∧ (∃ w r e, upgrading.adm.walk = some w ∧ findAge upgrading w.age = some r ∧ entryOf upgrading w.age = some e
        ∧ judgeWalk upgrading.settings upgrading.lib r e (advanceWalk upgrading r r.rect.area w)
            = .staysUpgraded .indeterminate .blank)
      ∧ (∃ w r e, admitting.adm.walk = some w ∧ findAge admitting w.age = some r ∧ entryOf admitting w.age = some e
        ∧ judgeWalk admitting.settings admitting.lib r e
            (advanceWalk admitting r r.rect.area { w with dataReady := false }) = .stays)
      ∧ (∃ w r e, (lastWalk refusing { request with ghost := .refuse }).adm.walk = some w
        ∧ findAge (lastWalk refusing { request with ghost := .refuse }) w.age = some r
        ∧ entryOf (lastWalk refusing { request with ghost := .refuse }) w.age = some e
        ∧ held (lastWalk refusing { request with ghost := .refuse }) = true
        ∧ (lastWalk refusing { request with ghost := .refuse }).adm.passCut = true
        ∧ r.partsFinished + 1 < r.partsUsed) :=
  ⟨⟨_, _, _, rfl, rfl, rfl, by decide +kernel⟩, ⟨_, _, _, rfl, rfl, rfl, by decide +kernel⟩,
    ⟨_, _, _, rfl, rfl, rfl, by decide +kernel⟩, ⟨_, _, _, rfl, rfl, rfl, by decide +kernel⟩,
    ⟨_, _, _, rfl, rfl, rfl, by decide +kernel⟩⟩

/-- A plain cancel pending takes the lane the walk has just armed (R52), and a withdrawal pending does, before it (R54). -/
theorem test_met_AdmissionArmsALane_pending :
    ([(CancelPending.plain, (none : Option ReqOutcome), ReqOutcome.cancelled), (.forced, none, .aborted),
        (.plain, some .starved, .starved)].all fun (cancel, withdrawal, outcome) =>
      match exec .admissionWalkEnd
          { admitting with req := { admitting.req with table := admitting.req.table.map fun r =>
              { r with cancelPending := cancel, withdrawalPending := withdrawal } } } with
      | .next u => decide ((laneAt u 0).map (fun ln => ln.state) = some (.retiring (.release outcome) 0))
          && u.req.table.all fun r => decide (r.cancelPending = .none) && decide (r.withdrawalPending = none)
      | _ => false) = true := by decide +kernel

/-- A state in which a frame may start: lane 0 ARMED, rails ON, the frame timer running. -/
def starting : State := scanning (withLane .armed calm)

theorem test_met_FrameStartActivatesArmedLanes :
    starting.scan.timer ≠ none ∧ starting.scan.frame = none ∧ powerLaw starting ∧ starting.scan.freeze = false :=
  ⟨by decide +kernel, by decide +kernel,
    ⟨by unfold enableLaw; decide +kernel, by unfold railTimersLaw; decide +kernel, by unfold frameTimerLaw; decide +kernel,
      fun _ _ _ _ => rfl⟩,
    by decide +kernel⟩

/-- A frame in flight of a mark, with lane 0 driving. -/
def inFrame (mark : FrameMark) : State :=
  { failing with scan := { failing.scan with frame := some { mark := mark, nextRow := 128 } } }

theorem test_met_FrameCompletionAdvancesActiveLanes :
    (inFrame .driven).scan.frame = some { mark := .driven, nextRow := 128 }
      ∧ laneAt (inFrame .driven) 0 = some (laneIn .active) ∧ (laneIn .active).index + 1 ≠ (laneIn .active).frames
      ∧ (laneIn .active).early = true ∧ (laneIn .active).index + 1 = (laneIn .active).leads
      ∧ rowsMissing (inFrame .driven) (laneIn .active) = true
      ∧ ({ laneIn .active with index := 1 } : Lane).index + 1 = (laneIn .active).frames
      ∧ (inFrame .frozen).scan.frame = some { mark := .frozen, nextRow := 128 }
      ∧ starvesAt (inFrame .driven) 0 = true ∧ starvesAt lawful 0 = true
      ∧ laneAt (setLane 1 (some { laneIn .armed with tag := 2 }) (inFrame .driven)) 1
          = some { laneIn .armed with tag := 2 } := by decide +kernel

/-- A state in which lane 0 retires, owning one pixel. -/
def retiring : State :=
  withLane (.retiring .complete 1)
    { posted with px := { posted.px with
        pixels := [(1, { PixelRecord.initial with owner := some 0 })], tiles := [(0, 0)] } }

/-- That state with the lane's request another, and a number of records in the log. -/
def handing (r : Request) (records : Nat) : State :=
  { retiring with
    req := { retiring.req with table := [r], queue := [] }
    notices := { retiring.notices with log := List.replicate records (composeRecord request) } }

/-- That state with another request in the line, and a chunk write of the first in flight. -/
def behind (s : State) : State :=
  { s with
    req := { s.req with
      table := s.req.table ++ [{ request with age := 9, tag := 9, state := .reporting, pages := none }]
      line := [{ age := 9, record := composeRecord request }] }
    inflow := { s.inflow with buffer := [chunk], writing := some 1 } }

theorem test_met_RetirementWritesTheLanesPixels :
    laneAt retiring 0 = some (laneIn (.retiring .complete 1)) ∧ storeLaw retiring
      ∧ small.col + small.width ≤ panelWidth retiring ∧ (pixelAt retiring 1 0).owner = some 0
      ∧ small.reaches 1 (small.area - 1) 1 0 = true ∧ Mode.clearing .blank = true ∧ Mode.clearing .settle = false :=
  ⟨by decide +kernel, ⟨by decide +kernel, by decide +kernel⟩, by decide +kernel⟩

theorem test_met_RetirementWritesTheLanesPixels_request :
    passBarred (handing request 31) ∧ laneAt (handing request 31) 0 = some (laneIn (.retiring .complete 1))
      ∧ findTag (handing request 31) 1 = some request ∧ findAge (handing request 31) request.age = some request
      ∧ request.partsFinished + 1 = request.partsUsed ∧ request.cancelPending = .none
      ∧ request.withdrawalPending = none ∧ (handing request 31).notices.log.length < 32
      ∧ 32 ≤ (handing request 32).notices.log.length ∧ writingFor (handing request 31) request.age = false
      ∧ (handing request 31).req.line = [] ∧ request.withdrawn = false
      ∧ isAdmitting (handing { request with withdrawn := true } 31) request.age = false
      ∧ laneAt (setLane 1 (some (laneIn .armed)) (handing request 31)) 1 = some (laneIn .armed)
      ∧ request.state ≠ .reporting ∧ ((behind (handing request 31)).req.line.map fun h => h.age) = [9]
      ∧ findAge (behind (handing request 31)) request.age = some request ∧ writingFor (behind (handing request 31)) 0 = true :=
  ⟨Or.inr (Or.inl rfl), by decide +kernel⟩

/-- The log takes the line's record, and the next waits, its request's chunk write in flight (R57, R62, R176). -/
theorem test_a_record_waits_for_its_pages :
    (match exec (.retirementWalkEnd 0) (behind (handing request 30)) with
      | .next u => decide (u.notices.log.length = 31) && decide ((u.req.line.map fun h => h.age) = [0])
          && (findAge u 9).isNone
      | _ => false) = true := by decide +kernel

/-- A walk reads a pixel that a lane of another tag owns as foreign (R12). -/
theorem test_met_AdmissionArmsALane_foreign :
    (readPixel retiring { age := 9, band := 0, mode := .clear, dataReady := true, pages := none, readings := [] }
      { request with tag := 9 } 1).ownership = .foreign := by decide +kernel

/-- The outcome of a RELEASE walk's part behind a cancel of R50 is CANCELLED, whatever the lane holds (R43, R50). -/
theorem test_met_RetirementWritesTheLanesPixels_cancelled :
    ([(true, ReqOutcome.cancelled), (false, .aborted)].all fun (cancelled, outcome) =>
      ({ request with cancelled := cancelled }.behindWalk (laneIn .armed) (.release .aborted)).outcome == some outcome)
      = true := by decide +kernel

/-- Codes below and at the lead count, of BLANK and of CLEAR (R20 to R22, R28). -/
theorem test_met_DriveCodesFollowTheOwner_lookup :
    (coded 1 2).driveCode .clear 0 0 1 0 = .darken ∧ (coded 1 2).driveCode .clear 0 0 1 1 = .lighten
      ∧ (coded 1 2).driveCode .clear 0 0 0 1 = .none
      ∧ ({ coded 1 2 with data := [0, 2] } : Library).driveCode .blank 0 7 1 0 = .lighten
      ∧ findTag posted (laneIn .active).tag = some request ∧ request.pages = some [0]
      ∧ (laneTarget { posted with pool := { posted.pool with bytes := [(1, 0x7A)] } } (laneIn .active) 1 1).toNat = 7 := by
  decide +kernel

theorem test_met_DriveCodesFollowTheOwner :
    (pixelAt calm 0 0).owner = none ∧ (pixelAt retiring 1 0).owner = some 0
      ∧ laneAt retiring 0 = some (laneIn (.retiring .complete 1)) ∧ (laneIn (.retiring .complete 1)).state ≠ .active
      ∧ laneAt failing 0 = some (laneIn .active)
      ∧ 0 < (({ oneBandLibrary with directory := [⟨2, 1⟩] } : Library).setOf .blank 0).leads := by decide +kernel

/-! ### … the frame memory's -/

/-- A frame memory that has granted something. -/
def granting (g : Grant) : State := { calm with mem := { calm.mem with granted := some g } }

theorem test_met_FrameMemoryServesInOrder :
    settled calm ∧ settled State.reset ∧ settled (granting .refresh) ∧ calm.mem.granted = none
      ∧ State.reset.mem.calibrating = true ∧ (granting .refresh).mem.granted = some .refresh
      ∧ (granting (.burst .copier true)).mem.granted = some (.burst .copier true)
      ∧ (granting (.burst .copier false)).mem.granted = some (.burst .copier false)
      ∧ precedence 15 = [] ++ .scanner :: (precedence 15).tail
      ∧ precedence 15 = (precedence 15).take 21 ++ .library :: []
      ∧ restOf inflowing .scanner = 0 ∧ settled (granting (.burst .copier true))
      ∧ calm.mem.waiting = [] ∧ (walked.adm.walk.map fun w => w.age) = some request.age
      ∧ findAge walked request.age = some request ∧ currentJob snapshotting = some (running, 2, none)
      ∧ writing.lib.write = some { offset := 0, bytes := [0xFF] } ∧ restOf writing .library = 1
      ∧ committing.lib.commit = .walking ∧ committing.lib.received ≠ committing.lib.expected
      ∧ inflowing.mem.calibrating = false ∧ inflowing.mem.granted = none ∧ inflowing.mem.debt = 0
      ∧ inflowing.mem.waiting = []
      ∧ 0 < restOf inflowing .inflow ∧ restOf calm .inflow = 0
      ∧ inflowing.mem.granted ≠ some (.burst .inflow true)
      ∧ laneAt retiring 0 = some (laneIn (.retiring .complete 1)) ∧ small.col + small.width ≤ panelWidth retiring
      ∧ assumed.px.walk = some (.assume small 15 1) ∧ initialised.px.walk = some (.initialise 0)
      ∧ lawful.scan.frame = some { mark := .driven, nextRow := 128 }
      ∧ findAge inflowing chunk.age = some request ∧ request.pages = some [0] ∧ [0].Nodup :=
  ⟨settled_of_parts (by decide +kernel), settled_of_parts (by decide +kernel), settled_of_parts (by decide +kernel),
    by decide +kernel, by decide +kernel, by decide +kernel, by decide +kernel, by decide +kernel, by decide +kernel,
    by decide +kernel, by decide +kernel, settled_of_parts (by decide +kernel), by decide +kernel⟩

/-- A library under its commit walk, with BLANK, CLEAR and SETTLE sets of one byte an entry. -/
def judged : Library :=
  { oneBandLibrary with state := .loading, commit := .walking, crc := 0xFFFF, hostCrc := 0xFFFF }

/-- The commit walk reads every entry of the present sets where none fails, the first alone where that one fails, and none
where the size or the CRC is wrong (R32). -/
theorem test_what_the_commit_walk_reads :
    judged.toTransfer = 16 + 256 + 256 ∧ { judged with data := [3] }.toTransfer = 1
      ∧ { judged with expected := 1 }.toTransfer = 0 ∧ { judged with hostCrc := 0 }.toTransfer = 0 := by decide +kernel

/-- A library burst stores its bytes; with none left the library waits no longer, and the end of the write takes no grant,
whatever refresh is owed (R151). -/
theorem test_a_library_write_continues_where_it_stood :
    (match exec (.burstEnd 64 [.library])
        { writing with mem := { writing.mem with granted := some (.burst .library true) } } with
      | .next u =>
        decide (u.lib.data = [0xFF]) && decide (u.lib.moved = 1) && decide (restOf u .library = 0)
          && u.mem.waiting.isEmpty && u.mem.granted.isNone
          && decide (lastBursts .library { u with mem := { u.mem with debt := 1 } } = { u with mem := { u.mem with debt := 1 } })
      | _ => false) = true := by decide +kernel

/-- A chunk past the expected size has nothing to transfer, so its write does not hold the frame memory (R29, R151). -/
theorem test_a_chunk_past_the_size_holds_no_grant :
    (match exec (.libData (sent .libData [0, 0, 0, 0, 0xFF]))
        { loading calm with lib := { (loading calm).lib with expected := 0 } } with
      | .next u => u.lib.write.isSome && u.mem.granted.isNone && u.mem.waiting.isEmpty
      | _ => false) = true := by decide +kernel

theorem test_met_OutcomesKeepTheWorst :
    ReqOutcome.railLost.rank ≤ ReqOutcome.noChange.rank ∧ ReqOutcome.railLost.rank < ReqOutcome.noChange.rank
      ∧ ({ request with outcome := some .done } : Request).outcome = some .done := by decide +kernel

/-! ### … and the frames' and laws' -/

/-- A command that succeeds and writes none of what the frames are about. -/
theorem test_met_frames :
    (∃ u, exec .calibrationEnd State.reset = .next u)
      ∧ ([writesPixels, writesTiles, writesLibrary, writesStaging, resets, writesTemperature, writesLanes, writesFreeze,
          writesFrame, writesInflow, writesOverlays, writesCounters, endsTransaction].all fun w =>
            !w .calibrationEnd) = true
      ∧ Instr.calibrationEnd ≠ .transactionStart ∧ Instr.calibrationEnd ≠ .resetRelease
      ∧ ∀ t, Instr.calibrationEnd ≠ .configure t ∧ Instr.calibrationEnd ≠ .noticeSet t :=
  ⟨⟨_, rfl⟩, by decide, by decide, by decide, fun t => ⟨by simp, by simp⟩⟩

/-- A state that keeps every law, and from which a step is taken. -/
theorem test_met_laws :
    (∃ u, step (State.withPending starting [.frameStart]) = .next u)
      ∧ boundsLaw { starting with lib := oneBandLibrary } ∧ attnLaw noticed
      ∧ settled starting ∧ attnLaw starting ∧ pixelLaw starting ∧ storeLaw starting
      ∧ capacityLaw starting ∧ counterLaw starting ∧ settingsLaw starting ∧ temperatureLaw starting
      ∧ loadingLaw starting ∧ freePagesLaw calm := by
  refine ⟨⟨_, rfl⟩, ?_, ?_, settled_of_parts (by decide +kernel), ?_, ?_, ?_, ?_, ?_, ?_, ?_, ?_, ?_⟩
  · unfold boundsLaw; decide +kernel
  · unfold attnLaw; decide +kernel
  · unfold attnLaw; decide +kernel
  · unfold pixelLaw; decide +kernel
  · unfold storeLaw; decide +kernel
  · unfold capacityLaw; decide +kernel
  · unfold counterLaw; decide +kernel
  · unfold settingsLaw; decide +kernel
  · unfold temperatureLaw; decide +kernel
  · unfold loadingLaw; decide +kernel
  · simp only [freePagesLaw, calm, State.reset, State.initial, StagingPool.initial]
    exact List.pairwise_lt_range

/-- A state whose lane 0 holds the one part of its request and owns one pixel; a power-good sample waits. -/
def owning : State :=
  withLane .armed
    { posted with
      req := { posted.req with table := [{ request with state := .running }], queue := [] }
      px := { posted.px with
        pixels := [(1, { PixelRecord.initial with owner := some 0, indeterminate := false })], tiles := [(0, 0)] }
      pending := [.powerGoodSample true] }

/-- Its pixels: the one owned, and fresh ones. -/
theorem pixelAt_owning (x y : Nat) (hx : x < 256) :
    pixelAt owning x y =
      if x = 1 ∧ y = 0 then { PixelRecord.initial with owner := some 0, indeterminate := false }
      else PixelRecord.initial := by
  have key : (1 = y * 256 + x) ↔ x = 1 ∧ y = 0 := by omega
  show (if 1 = y * 256 + x then some _ else none).getD PixelRecord.initial = _
  simp only [key]
  split <;> rfl

/-- A state in which a lane owns a pixel keeps the law, and a step is taken from it. -/
theorem test_met_EveryStepKeepsOwnersAndRequests :
    ownershipLaw owning ∧ ∃ u, step owning = .next u := by
  refine ⟨⟨⟨by decide +kernel, by decide +kernel⟩, ?_, ?_, ?_, ?_, ?_, ?_, ?_, ?_⟩, ⟨_, rfl⟩⟩
  · unfold requestLaw; decide +kernel
  · exact ⟨List.Pairwise.nil, by decide +kernel, fun _ mem => nomatch mem⟩
  · unfold laneLaw; decide +kernel
  · unfold partsLaw; decide +kernel
  · exact ⟨List.nodup_nil, fun _ mem => nomatch mem⟩
  · exact ⟨rfl, fun _ walk => nomatch walk⟩
  · intro x y l hx own
    rw [pixelAt_owning x y hx] at own ⊢
    split at own
    · rename_i here
      obtain ⟨rfl, rfl⟩ := here
      cases own
      exact ⟨by decide +kernel, laneIn .armed, by decide +kernel, by decide +kernel, fun _ _ => nofun, by decide +kernel⟩
    · exact nomatch own
  · exact ⟨fun _ mem => (nomatch mem), fun _ _ _ walk => nomatch walk⟩

/-- From the state that keeps the other laws too a step is taken. -/
theorem test_met_EveryStepKeepsTheStores_and_the_order :
    ∃ u, step (State.withPending lawful [.frameCompletion]) = .next u := ⟨_, rfl⟩

/-! ### Small steps of requests, memory and tiles -/

/-- A RESTART keeps a request with a lane, withdrawn, and the part of its WAITING entry is finished (R42, R59). -/
theorem test_restart_finishes_the_waiting_part :
    (match exec (.restart (sent .restart []))
        (withLane .armed { posted with req := { posted.req with table := [{ request with partsUsed := 2 }] } }) with
      | .next u =>
        u.req.queue.isEmpty
          && decide (u.req.table = [{ request with
              partsUsed := 2, partsFinished := 1, outcome := some .aborted, withdrawn := true, tally := none
              pages := none }])
      | _ => false) = true := by decide +kernel

/-- A forced CANCEL of a request with one ARMED lane releases it with ABORTED in the lane's record, a plain one with CANCELLED;
either way the request ends with CANCELLED (R43, R50, R114). -/
theorem test_a_forced_cancel_of_an_armed_lane :
    ([(1, ReqOutcome.aborted), (0, .cancelled)].all fun (force, outcome) =>
      match exec (.cancel (sent .cancel [1, 0, force]))
          (withLane .armed { posted with req := { posted.req with queue := [] } }) with
      | .next u =>
        decide (laneAt u 0 = some (laneIn (.retiring (.release outcome) 0)))
          && match exec (.retirementWalkEnd 0) u with
            | .next v => decide ((v.notices.log.map fun c => c.outcome) = [.cancelled])
            | _ => false
      | _ => false) = true := by decide +kernel

/-- Of two clients that become ready on an idle memory the first named is granted, whatever its place (R151). -/
theorem test_the_first_client_to_wait_is_granted :
    (becomeReady [.inflow, .admission]
        { walked with inflow := { walked.inflow with buffer := [chunk], writing := some 0 } }).mem.granted
      = some (.burst .inflow true) := by decide +kernel

/-- A chunk write that waits behind a refresh, an owed refresh and an admission walk ends only when these have been
served (R151). -/
theorem test_the_end_of_a_write_waits_for_its_grant :
    (lastBursts .inflow
        { inflowing with mem := { inflowing.mem with granted := some .refresh, debt := 1, waiting := [.admission] } }).mem
      = { inflowing.mem with granted := some (.burst .inflow true) } := by decide +kernel

/-- A chunk write whose last burst is in progress ends with it, whatever refresh is owed (R151). -/
theorem test_the_end_of_a_write_ends_its_burst :
    (lastBursts .inflow
        { inflowing with mem := { inflowing.mem with granted := some (.burst .inflow true), debt := 1 } }).mem
      = { inflowing.mem with granted := some (.burst .inflow true), debt := 1 } := by decide +kernel

/-- A tile read blocked once is blocked for each of its pixels (R12). -/
theorem test_a_tile_collides_as_a_whole :
    (reading .free false 0).collides .tile (blockedTiles [reading .free false 0, reading .free true 0]) = true := by
  decide +kernel

end Sys2Proof.Tests
end

section
/-!
PROOF. What commands leave of the Pixel Store, and the ranges of its records (chapter 01).
-/

namespace Sys2Proof.Machine

open Sys2Proof.Safety

/-! ### Commands that leave a part of the Pixel Store -/

/-- The Pixel Store without its walk: what its walks do not carry in themselves (R1, R11). -/
def PixelStore.contents (p : PixelStore) : Option Geometry × List (Nat × PixelRecord) × List (Nat × LaneId) :=
  (p.geometry, p.pixels, p.tiles)

theorem PixelStore.contents_eq_iff {p q : PixelStore} : p.contents = q.contents ↔ p = { q with walk := p.walk } := by
  obtain ⟨_, _, _, _⟩ := p
  obtain ⟨_, _, _, _⟩ := q
  simp [contents]

/-- A command row leaves whatever of the Pixel Store its effect and the rule after its reply leave. -/
theorem takeCommand_px {α : Type} (look : PixelStore → α) {k : Kind} {t : Transfer} {admits : List Byte → Bool}
    {effect : List Byte → State → Effect} {after : State → State} {s u : State}
    (h : takeCommand k t admits effect after s = .next u) (taken : ∀ p v, look (effect p v).1.px = look v.px)
    (later : ∀ v, (after v).px = v.px) : look u.px = look s.px :=
  takeCommand_frame (fun v => look v.px) h (by simp) (fun p v => by simpa using taken p v) (by simp)
    (fun v => by simp [later v])

/-- The same for a row that takes its kind in all forms. -/
theorem takeKind_px {α : Type} (look : PixelStore → α) {k : Kind} {t : Transfer} {effect : List Byte → State → Effect}
    {s u : State} (h : takeKind k t effect s = .next u) (taken : ∀ p v, look (effect p v).1.px = look v.px) :
    look u.px = look s.px :=
  takeCommand_px look h taken fun _ => rfl

/-- The host commands whose block leaves the Pixel Store alone: every one but CONFIGURE and ASSUME. -/
theorem takeIdent_px (p : List Byte) (s : State) : (takeIdent p s).1.px = s.px := by
  unfold takeIdent; split <;> rfl

theorem takeStatus_px (p : List Byte) (s : State) : (takeStatus p s).1.px = s.px := by
  unfold takeStatus; split <;> rfl

theorem takeCounters_px (p : List Byte) (s : State) : (takeCounters p s).1.px = s.px := by
  unfold takeCounters; split <;> rfl

theorem takeRestart_px (p : List Byte) (s : State) : (takeRestart p s).1.px = s.px := by
  unfold takeRestart; split <;> simp [refused, accepted]

theorem takeNoticeSet_px (p : List Byte) (s : State) : (takeNoticeSet p s).1.px = s.px := by
  unfold takeNoticeSet; split <;> rfl

theorem takeNoticeTake_px (p : List Byte) (s : State) : (takeNoticeTake p s).1.px = s.px := by
  unfold takeNoticeTake; split <;> simp [refused]

theorem takeReadLog_px (p : List Byte) (s : State) : (takeReadLog p s).1.px = s.px := by
  unfold takeReadLog; split <;> simp [refused]

theorem takeLibBegin_px (p : List Byte) (s : State) : (takeLibBegin p s).1.px = s.px := by
  unfold takeLibBegin; split <;> simp [refused]

theorem takeLibData_px (p : List Byte) (s : State) : (takeLibData p s).1.px = s.px := by
  unfold takeLibData; (repeat' split) <;> simp [refused]

theorem takeLibCommit_px (p : List Byte) (s : State) : (takeLibCommit p s).1.px = s.px := by
  unfold takeLibCommit; split <;> simp [refused, accepted]

theorem takeLibAbandon_px (p : List Byte) (s : State) : (takeLibAbandon p s).1.px = s.px := by
  unfold takeLibAbandon; split <;> simp [refused, accepted]

theorem takeTemp_px (p : List Byte) (s : State) : (takeTemp p s).1.px = s.px := by
  unfold takeTemp; split <;> simp [refused]

theorem takeRails_px (p : List Byte) (s : State) : (takeRails p s).1.px = s.px := by
  unfold takeRails railsOffEffect clearFaultEffect; (repeat' split) <;> simp

theorem takePostUpdate_px (p : List Byte) (s : State) : (takePostUpdate p s).1.px = s.px := by
  unfold takePostUpdate; (repeat' split) <;> simp [refused, accepted]

theorem takePixels_px (p : List Byte) (s : State) : (takePixels p s).1.px = s.px := by
  unfold takePixels; dsimp only; (repeat' split) <;> simp [refused]

theorem cancelRequest_px (r : Request) (force : Bool) (s : State) : (cancelRequest r force s).1.px = s.px := by
  unfold cancelRequest; (repeat' split) <;> simp [refused, accepted]

theorem takeCancel_px (p : List Byte) (s : State) : (takeCancel p s).1.px = s.px := by
  unfold takeCancel; (repeat' split) <;> simp [refused, cancelRequest_px]

theorem takeClearDiscard_px (p : List Byte) (s : State) : (takeClearDiscard p s).1.px = s.px := by
  unfold takeClearDiscard; split <;> rfl

theorem takePostCopy_px (p : List Byte) (s : State) : (takePostCopy p s).1.px = s.px := by
  unfold takePostCopy; (repeat' split) <;> simp [refused, accepted]

theorem takeOverlayPush_px (p : List Byte) (s : State) : (takeOverlayPush p s).1.px = s.px := by
  unfold takeOverlayPush; split <;> simp [refused]

theorem takeOverlayPop_px (p : List Byte) (s : State) : (takeOverlayPop p s).1.px = s.px := by
  unfold takeOverlayPop; (repeat' split) <;> simp [refused]

theorem takeOverlaySwap_px (p : List Byte) (s : State) : (takeOverlaySwap p s).1.px = s.px := by
  unfold takeOverlaySwap; (repeat' split) <;> simp [refused]

theorem takeFreeze_px (on : Bool) (p : List Byte) (s : State) : (takeFreeze on p s).1.px = s.px := by
  unfold takeFreeze; split <;> rfl

/-- ASSUME starts a walk of the Pixel Store and writes no record (R13). -/
theorem takeAssume_px (p : List Byte) (s : State) :
    (takeAssume p s).1.px = { s.px with walk := (takeAssume p s).1.px.walk } := by
  unfold takeAssume startAssume; split <;> simp [refused, accepted]

/-- What a command that is no CONFIGURE, walk, burst or reset leaves of the Pixel Store: everything but the walk in flight,
which ASSUME starts and the end of the initialisation walk ends (R9, R13). -/
theorem exec_px {c : Instr} {s u : State} (h : exec c s = .next u) (quiet : writesPixels c = false) :
    u.px = { s.px with walk := u.px.walk } := by
  suffices same : u.px.contents = s.px.contents from PixelStore.contents_eq_iff.mp same
  cases c with
  | powerOn | resetPin | configure _ | admissionWalkEnd | assumeWalkEnd | retirementWalkEnd _ | burstEnd _ _ => cases quiet
  | ident t => exact takeKind_px PixelStore.contents h fun p v => by rw [takeIdent_px]
  | status t => exact takeCommand_px PixelStore.contents h (fun p v => by rw [takeStatus_px]) (by simp)
  | countersRead t => exact takeCommand_px PixelStore.contents h (fun p v => by rw [takeCounters_px]) fun _ => rfl
  | countersReadAndClear t => exact takeCommand_px PixelStore.contents h (fun p v => by rw [takeCounters_px]) (by simp)
  | restart t => exact takeKind_px PixelStore.contents h fun p v => by rw [takeRestart_px]
  | noticeSet t => exact takeKind_px PixelStore.contents h fun p v => by rw [takeNoticeSet_px]
  | noticeTake t => exact takeKind_px PixelStore.contents h fun p v => by rw [takeNoticeTake_px]
  | readLog t => exact takeKind_px PixelStore.contents h fun p v => by rw [takeReadLog_px]
  | libBegin t => exact takeKind_px PixelStore.contents h fun p v => by rw [takeLibBegin_px]
  | libData t => exact takeKind_px PixelStore.contents h fun p v => by rw [takeLibData_px]
  | libCommit t => exact takeKind_px PixelStore.contents h fun p v => by rw [takeLibCommit_px]
  | libAbandon t => exact takeKind_px PixelStore.contents h fun p v => by rw [takeLibAbandon_px]
  | temp t => exact takeKind_px PixelStore.contents h fun p v => by rw [takeTemp_px]
  | railsOff t => exact takeCommand_px PixelStore.contents h (fun p v => by rw [takeRails_px]) fun _ => rfl
  | railsClearFault t => exact takeCommand_px PixelStore.contents h (fun p v => by rw [takeRails_px]) fun _ => rfl
  | postUpdate t => exact takeKind_px PixelStore.contents h fun p v => by rw [takePostUpdate_px]
  | pixels t => exact takeKind_px PixelStore.contents h fun p v => by rw [takePixels_px]
  | cancel t => exact takeKind_px PixelStore.contents h fun p v => by rw [takeCancel_px]
  | clearDiscard t => exact takeKind_px PixelStore.contents h fun p v => by rw [takeClearDiscard_px]
  | postCopy t => exact takeKind_px PixelStore.contents h fun p v => by rw [takePostCopy_px]
  | overlayPush t => exact takeKind_px PixelStore.contents h fun p v => by rw [takeOverlayPush_px]
  | overlayPop t => exact takeKind_px PixelStore.contents h fun p v => by rw [takeOverlayPop_px]
  | overlaySwap t => exact takeKind_px PixelStore.contents h fun p v => by rw [takeOverlaySwap_px]
  | freeze t => exact takeKind_px PixelStore.contents h fun p v => by rw [takeFreeze_px]
  | thaw t => exact takeKind_px PixelStore.contents h fun p v => by rw [takeFreeze_px]
  | assume t => exact takeKind_px PixelStore.contents h fun p v => by rw [takeAssume_px]; rfl
  | transactionStart => simp only [exec, execTransactionStart] at h; split at h <;> cases h; simp [PixelStore.contents]
  | poll t => simp only [exec, execPoll] at h; split at h <;> cases h; simp [PixelStore.contents]
  | linkFailure t => 
    simp only [exec, execLinkFailure, failLink] at h
    split at h <;> cases h
    split <;> simp [PixelStore.contents]
  | initialisationWalkEnd => simp only [exec, execInitialisationWalkEnd] at h; split at h <;> cases h; simp [PixelStore.contents]
  | libChunkWriteEnd => simp only [exec, execLibChunkWriteEnd] at h; split at h <;> cases h; simp [PixelStore.contents]
  | commitWalkEnd => simp only [exec, execCommitWalkEnd] at h; split at h <;> cases h; simp [PixelStore.contents]
  | inflowChunkWriteEnd => simp only [exec, execInflowChunkWriteEnd] at h; split at h <;> cases h; simp [PixelStore.contents]
  | frameStart => simp only [exec, execFrameStart] at h; (repeat' split at h) <;> cases h; simp [PixelStore.contents]
  | frameCompletion => simp only [exec, execFrameCompletion] at h; split at h <;> cases h; simp [PixelStore.contents]
  | copierJobEnd => simp only [exec, execCopierJobEnd] at h; split at h <;> cases h; simp [PixelStore.contents]
  | powerGoodSample high => cases h; simp [PixelStore.contents]
  | riseTimeout => simp only [exec, execRiseTimeout] at h; split at h <;> cases h; simp [PixelStore.contents]
  | idleTimerExpiry => simp only [exec, execIdleTimerExpiry] at h; split at h <;> cases h; simp [PixelStore.contents]
  | fallTimeEnd => simp only [exec, execFallTimeEnd] at h; split at h <;> cases h; simp [PixelStore.contents]
  | intervalTimerExpiry => cases h; simp [PixelStore.contents]
  | refreshRequest ready => cases h; simp [PixelStore.contents]
  | refreshEnd ready => simp only [exec, execRefreshEnd] at h; split at h <;> cases h; simp [PixelStore.contents]
  | calibrationEnd => simp only [exec, execCalibrationEnd] at h; split at h <;> cases h; simp [PixelStore.contents]
  | resetRelease => simp only [exec, execResetRelease] at h; split at h <;> cases h; rfl

/-! ### The frame of the Pixel Store (R2 to R5, R11) -/

/-- A pixel's record is read off geometry and table. -/
theorem pixelAt_congr {s u : State} (geometry : u.px.geometry = s.px.geometry) (pixels : u.px.pixels = s.px.pixels)
    (x y : Nat) : pixelAt u x y = pixelAt s x y := by
  simp only [pixelAt, panelWidth, geometry, pixels]

/-- The width of the panel is read off the geometry. -/
theorem panelWidth_congr {s u : State} (geometry : u.px.geometry = s.px.geometry) : panelWidth u = panelWidth s := by
  simp only [panelWidth, geometry]

/-- An assume walk and the bursts write records, but no tile entry (R11, R14). -/
theorem exec_tiles {c : Instr} {s u : State} (h : exec c s = .next u) (quiet : writesTiles c = false) :
    u.px.tiles = s.px.tiles := by
  by_cases records : writesPixels c = false
  · rw [exec_px h records]
  · cases c with
    | assumeWalkEnd => simp only [exec, execAssumeWalkEnd] at h; split at h <;> cases h; simp
    | burstEnd units ready => 
      simp only [exec, execBurstEnd] at h
      split at h <;> cases h
      split <;> simp
    | powerOn | resetPin | configure _ | admissionWalkEnd | retirementWalkEnd _ => cases quiet
    | _ => exact absurd rfl records

/-- Settles O44: the commands that may write records are split off by `exec_px`, those that may write tile entries by
`exec_tiles`. -/
theorem pixelStoreFrame : Obligations.PixelStoreFrame := by
  intro c s u h
  refine ⟨fun quiet => ?_, exec_tiles h⟩
  have same := exec_px h quiet
  exact ⟨by rw [same], pixelAt_congr (by rw [same]) (by rw [same])⟩

/-! ### Residue and balance (R4) -/

/-- Residue and balance of a record in their ranges (R4). -/
def PixelRecord.inRange (p : PixelRecord) : Prop := p.residue ≤ 15 ∧ -127 ≤ p.balance ∧ p.balance ≤ 127

theorem PixelRecord.inRange_initial : PixelRecord.initial.inRange := by simp [inRange, initial]

/-- The law asks only for the listed records, so it reaches every pixel. -/
theorem pixelLaw_pixelAt {s : State} (law : pixelLaw s) (x y : Nat) : (pixelAt s x y).inRange := by
  unfold pixelAt
  cases found : storeGet s.px.pixels (y * panelWidth s + x) with
  | none => exact PixelRecord.inRange_initial
  | some r => exact law _ (mem_of_storeGet found)

/-- A record put in a table in range is the only new one. -/
theorem pixelLaw_updatePixel {s : State} (law : pixelLaw s) {x y : Nat} {f : PixelRecord → PixelRecord}
    (ok : (f (pixelAt s x y)).inRange) : pixelLaw (updatePixel x y f s) := by
  intro e mem
  simp only [updatePixel, putPixel] at mem
  split at mem
  · exact law e (mem_storeErase mem)
  · rcases mem_storePut mem with rfl | old
    · exact ok
    · exact law e old

/-- So it goes for a walk that puts one record after the other. -/
theorem pixelLaw_foldl {f : Nat → PixelRecord → PixelRecord} {at' : Nat → Nat × Nat}
    (ok : ∀ i p, p.inRange → (f i p).inRange) (is : List Nat) {s : State} (law : pixelLaw s) :
    pixelLaw (is.foldl (fun t i => updatePixel (at' i).1 (at' i).2 (f i) t) s) := by
  induction is generalizing s with
  | nil => exact law
  | cons i is ih => exact ih (pixelLaw_updatePixel law (ok i _ (pixelLaw_pixelAt law _ _)))

theorem clampBalance_inRange (b : Int) : -127 ≤ clampBalance b ∧ clampBalance b ≤ 127 := by
  unfold clampBalance; (repeat' split) <;> omega

/-- Every kind of retirement walk writes records in range: COMPLETE resets, or adds and holds the sums (R4, R111). -/
theorem retiredRecord_inRange (s : State) (ln : Lane) (kind : WalkKind) (x y : Nat) {p : PixelRecord} (ok : p.inRange) :
    (retiredRecord s ln kind x y p).inRange := by
  cases kind with
  | complete =>
    simp only [retiredRecord, completeRecord]
    split
    · simp [PixelRecord.inRange]
    · exact ⟨Nat.min_le_left _ _, clampBalance_inRange _⟩
  | release _ | abort _ => exact ok

theorem pixelLaw_advanceRetire (l : LaneId) (n : Nat) {s : State} (law : pixelLaw s) : pixelLaw (advanceRetire l n s) := by
  unfold advanceRetire
  split
  · split
    · intro e mem
      simp only [setLane_keeps, mapPixels, List.mem_filter, List.mem_map] at mem
      obtain ⟨⟨old, there, rfl⟩, -⟩ := mem
      simp only [retireAt]
      split
      · exact retiredRecord_inRange _ _ _ _ _ (law old there)
      · exact law old there
    · exact law
    · exact law
  · exact law

theorem pixelLaw_advancePixelWalk (n : Nat) {s : State} (law : pixelLaw s) : pixelLaw (advancePixelWalk n s) := by
  unfold advancePixelWalk
  split
  · exact law
  · exact law
  · exact pixelLaw_foldl (fun i p _ => by simp [assumed, PixelRecord.inRange]) _ law

theorem pixelLaw_serveBurst (who : Requester) (units : Nat) {s : State} (law : pixelLaw s) :
    pixelLaw (serveBurst who units s) := by
  cases who with
  | retirement l => exact pixelLaw_advanceRetire l _ law
  | initialisation => exact pixelLaw_advancePixelWalk _ law
  | scanner | admission | inflow | copier => simpa [pixelLaw, serveBurst] using law
  | library => exact law

/-- An admission writes owners alone (R95). -/
theorem pixelLaw_applyResult (r : Request) (e : QueueEntry) (w : AdmissionWalk) (result : WalkResult) {s : State}
    (law : pixelLaw s) : pixelLaw (applyResult r e w result s) := by
  have admitted : ∀ l mode drive remainder, pixelLaw (admitWalk l r e w mode drive remainder s) := by
    intro l mode drive remainder
    have owned : pixelLaw (ownPixels l r.rect drive (setLane l (some (armedLane s.lib r e w mode drive.length)) s)) :=
      pixelLaw_foldl (f := fun _ p => { p with owner := some l }) (fun _ _ ok => ok) drive (by simpa [pixelLaw] using law)
    simpa [pixelLaw, admitWalk] using owned
  cases result with
  | stays => exact law
  | staysUpgraded reason mode => exact law
  | admits mode reason drive remainder =>
    simp only [applyResult]
    split
    · exact law
    · cases reason with
      | none => exact admitted _ _ _ _
      | some why => simpa [pixelLaw] using admitted _ mode drive remainder
  | resolves outcome reason => cases reason <;> exact law

theorem pixelLaw_endWalk (w : AdmissionWalk) {s : State} (law : pixelLaw s) : pixelLaw (endWalk w s) := by
  unfold endWalk
  split
  · simpa [pixelLaw, endAdmission, settleWalk] using pixelLaw_applyResult _ _ _ _ (s := dropWalk s) (by simpa [pixelLaw] using law)
  · simpa [pixelLaw] using law

theorem pixelLaw_takeConfigure (p : List Byte) {s : State} (law : pixelLaw s) : pixelLaw (takeConfigure p s).1 := by
  unfold takeConfigure applyGeometry
  split
  · exact law
  · simp only [accepted]
    split
    · simpa [pixelLaw] using law
    · simp [pixelLaw, newTable]

/-- Every command keeps residue and balance in range: those that write records by the lemmas above, the rest by
`exec_px`. -/
theorem pixelLaw_exec {c : Instr} {s u : State} (law : pixelLaw s) (h : exec c s = .next u) : pixelLaw u := by
  by_cases quiet : writesPixels c = false
  · unfold pixelLaw
    rw [exec_px h quiet]
    exact law
  · cases c with
    | powerOn | resetPin => cases h; simp [pixelLaw, State.initial, PixelStore.initial]
    | configure t =>
      rcases takeCommand_next h with rfl | ⟨seq, p, -, rfl⟩
      · simpa [pixelLaw] using law
      · simpa [pixelLaw] using pixelLaw_takeConfigure p (s := atRisingEdge t s) (by simpa [pixelLaw] using law)
    | admissionWalkEnd =>
      simp only [exec, execAdmissionWalkEnd] at h
      split at h <;> cases h
      simpa [pixelLaw] using pixelLaw_endWalk _ (s := lastBursts .admission s) (by simpa [pixelLaw] using law)
    | assumeWalkEnd =>
      simp only [exec, execAssumeWalkEnd] at h
      split at h <;> cases h
      simpa [pixelLaw, endPixelWalk] using
        pixelLaw_advancePixelWalk _ (s := lastBursts .initialisation s) (by simpa [pixelLaw] using law)
    | retirementWalkEnd l =>
      simp only [exec, execRetirementWalkEnd] at h
      (repeat' split at h) <;> cases h
      simpa [pixelLaw, endRetirement, freeTheLane] using
        pixelLaw_advanceRetire l _ (s := lastBursts (.retirement l) s) (by simpa [pixelLaw] using law)
    | burstEnd units ready =>
      simp only [exec, execBurstEnd] at h
      split at h <;> cases h
      have waited : pixelLaw (becomeReady ready s) := by simpa [pixelLaw] using law
      have served := fun who => pixelLaw_serveBurst who units waited
      unfold pixelLaw
      simp only [finish_keeps, endGrant_keeps]
      split
      · rw [(finishBurst_moves _ _ _).1]; exact served _
      · exact waited
    | _ => exact absurd rfl quiet

/-- Settles O55: the command a step takes keeps the ranges (`pixelLaw_exec`), and the queue has no part in them. -/
theorem everyStepKeepsResidueAndBalance : Obligations.EveryStepKeepsResidueAndBalance := by
  intro s u law h
  unfold step at h
  split at h
  · cases h; exact law
  · rename_i c rest _
    exact pixelLaw_exec (s := s.withPending rest) law h

end Sys2Proof.Machine
end

section
/-!
PROOF. The overlay commands: their checks, the stack they leave, and the requests they post (chapter 07).
-/

namespace Sys2Proof.Machine

open Sys2Proof.Safety

/-! ### Commands taken -/

/-- Two states agree in what the blocks behind the link hold of requests, pixels, pages and notices. -/
structure sameButLink (s u : State) : Prop where
  px : u.px = s.px
  req : u.req = s.req
  inflow : u.inflow = s.inflow
  pool : u.pool = s.pool
  adm : u.adm = s.adm
  copier : u.copier = s.copier
  notices : u.notices = s.notices

/-- A command taken: the reply carries what the block answered, and beside the link the state is that of the event's end. -/
theorem takeKind_answers {k : Kind} {t : Transfer} {effect : List Byte → State → Effect} {s v : State} {seq : Byte}
    {p : List Byte} {r : Result} {body : State → List Byte} (live : linkTakes s) (arrives : arrivalOf t = .command k seq p)
    (taken : effect p (atRisingEdge t s) = (v, r, body)) :
    ∃ u, takeKind k t effect s = .next u ∧ answers u k seq r (body (finish (atRisingEdge t s) v))
      ∧ sameButLink (finish (atRisingEdge t s) v) u := by
  rw [takeKind_takes live arrives, taken]
  refine ⟨_, rfl, answers_placeReply _ _ _ _ _, ?_⟩
  constructor <;> simp only [placeReply_keeps]

/-- While admission is held, the end of the event leaves requests, trigger, pages, flags and jobs as the event left them. -/
theorem finish_of_held_keeps {b s : State} (before : held b = true) (now : held s = true) :
    (finish b s).req = s.req ∧ (finish b s).adm = s.adm ∧ (finish b s).pool = s.pool
      ∧ (finish b s).notices.flags = s.notices.flags ∧ (finish b s).copier = s.copier := by
  rw [finish_of_held before now]
  simp

/-- The holds at a transaction's end are those before it. -/
theorem held_atRisingEdge (t : Transfer) (s : State) : held (atRisingEdge t s) = held s :=
  held_congr (by simp) (by simp) (by simp) (by simp) (by simp)

/-! ### Postings (R48, R79, R80) -/

/-- A request created joins table and queue, and takes the next number of the shared order (R48, R119). -/
theorem createRequest_req (mk : Nat → Request) (s : State) :
    (createRequest mk s).req = { s.req with
      table := s.req.table ++ [mk s.req.nextAge]
      queue := s.req.queue ++ [{ age := s.req.nextAge, part := 1, upgradePending := false, admitting := false }]
      nextAge := s.req.nextAge + 1 } := by
  simp [createRequest]

/-- A request created gives the trigger, and reports the temperature hold it meets (R79, R80). -/
theorem createRequest_noted (mk : Nat → Request) (s : State) : postingNoted s (createRequest mk s) := by
  unfold postingNoted createRequest reportHold
  by_cases meets : s.adm.holdReported = false ∧ s.temp.state ≠ .valid
  · simp [meets, wantPass, raise]
  · have queued : ¬ (s.adm.holdReported = false ∧ ¬ s.temp.state = .valid) := meets
    cases reported : s.adm.holdReported <;> simp_all [wantPass]

/-- What a posting notes is read off the Admission Unit, the temperature and the flags. -/
theorem postingNoted_congr {s s' u u' : State} (noted : postingNoted s u) (adm : s'.adm = s.adm) (temp : s'.temp = s.temp)
    (flags : s'.notices.flags = s.notices.flags) (adm' : u'.adm = u.adm) (flags' : u'.notices.flags = u.notices.flags) :
    postingNoted s' u' := by
  unfold postingNoted at noted ⊢
  rw [adm, temp, flags, adm', flags']
  exact noted

/-! ### The stack (R128 to R133) -/

/-- A full stack loses its bottom entry to a push (R130). -/
theorem discardBottom_overlays {s : State} (room : s.copier.overlays.length ≤ 4) :
    (discardBottom s).copier.overlays =
      if s.copier.overlays.length = 4 then s.copier.overlays.tail else s.copier.overlays := by
  unfold discardBottom
  cases stack : s.copier.overlays with
  | nil => simp [stack]
  | cons bottom rest =>
    simp only [stack, List.length_cons, Config.overlayEntries] at room ⊢
    by_cases full : rest.length + 1 = 4
    · simp [full]
    · have below : rest.length + 1 < 4 := by omega
      simp [below, full, stack]

/-- A discard raises OVERLAY_LOST, notice 7 (R130, R171). -/
theorem discardBottom_lost {s : State} (full : s.copier.overlays.length = 4) :
    (discardBottom s).notices.flags.getLsbD 7 = true := by
  unfold discardBottom
  cases stack : s.copier.overlays with
  | nil => simp [stack] at full
  | cons bottom rest =>
    rw [stack] at full
    simp only [full, Config.overlayEntries, Nat.lt_irrefl, if_false]
    exact raise_flag .overlayLost _

/-- The stack an accepted OVERLAY_PUSH leaves (R129, R130). -/
theorem overlayPush_overlays (r : Rect) {s : State} (room : s.copier.overlays.length ≤ 4) :
    (overlayPush r s).copier.overlays =
      (if s.copier.overlays.length = 4 then s.copier.overlays.tail else s.copier.overlays)
        ++ [{ rect := r, pages := s.pool.free.take (pagesNeeded r), capturing := some s.req.nextAge }] := by
  have discarded := discardBottom_overlays (s := createJob (newJob .push r (allocation r s) false) (takePages r s))
    (by simpa using room)
  simp only [createJob_keeps, takePages_keeps] at discarded
  simp only [overlayPush, judgeJobs_keeps, placeOverlay, discarded]
  rfl

/-- An accepted OVERLAY_PUSH onto a full stack raises OVERLAY_LOST (R130). -/
theorem overlayPush_lost (r : Rect) {s : State} (full : s.copier.overlays.length = 4) :
    (overlayPush r s).notices.flags.getLsbD 7 = true := by
  have lost := discardBottom_lost (s := createJob (newJob .push r (allocation r s) false) (takePages r s))
    (by simpa using full)
  simpa [overlayPush] using lost

/-- The stack an accepted OVERLAY_SWAP leaves (R133). -/
theorem overlaySwap_overlays (tag : Nat) (c : PostChoice) (o : Overlay) (s : State) :
    (overlaySwap tag c o s).copier.overlays = s.copier.overlays.dropLast
      ++ [{ rect := o.rect, pages := s.pool.free.take (pagesNeeded o.rect), capturing := some s.req.nextAge }] := by
  simp [overlaySwap, allocation]

/-- An accepted OVERLAY_SWAP posts its request behind its job's number (R119, R133). -/
theorem overlaySwap_table (tag : Nat) (c : PostChoice) (o : Overlay) (s : State) :
    (overlaySwap tag c o s).req.table = s.req.table ++ [overlayRequest tag c o (s.req.nextAge + 1)] := by
  simp [overlaySwap, createRequest_req, createJob]

theorem overlaySwap_noted (tag : Nat) (c : PostChoice) (o : Overlay) (s : State) :
    postingNoted s (overlaySwap tag c o s) := by
  refine postingNoted_congr (createRequest_noted (overlayRequest tag c o)
    (createJob (newJob .swap o.rect (allocation o.rect s) false) (takePages o.rect s))) ?_ ?_ ?_ ?_ ?_ <;>
  simp [overlaySwap]

/-! ### The checks passed (R129, R131, R132) -/

/-- Two checks in order pass where both pass. -/
theorem or_eq_none {a b : Option Result} (ha : a = none) (hb : b = none) : a.or b = none := by simp [ha, hb]

theorem failIf_false {c : Bool} {r : Result} (h : c = false) : failIf c r = none := by simp [failIf, h]

theorem tooFewPages_false {r : Rect} {s : State} (enough : pagesNeeded r ≤ s.pool.free.length) : tooFewPages r s = false :=
  Bool.eq_false_iff.mpr fun few => Nat.not_lt.mpr enough ((tooFewPages_iff r s).mp few)

theorem snapshotCheck_none {r : Rect} {s : State} (jobs : s.copier.jobs.length < 8)
    (pages : pagesNeeded r ≤ s.pool.free.length) : snapshotCheck r s = none :=
  or_eq_none (failIf_false (by simpa [Config.copierJobs] using jobs)) (failIf_false (tooFewPages_false pages))

theorem tableCheck_none {tag : Nat} {s : State} (unused : ∀ r ∈ s.req.table, r.tag ≠ tag)
    (room : s.req.table.length < 24) : postingCheck.tableCheck tag s = none := by
  refine or_eq_none (failIf_false ?_) (failIf_false (by simpa [Config.requestRecords] using room))
  simpa [findTag] using unused

theorem overlayPushCheck_none {p : List Byte} {s : State} (length : p.length = 8) (ready : s.mem.calibrating = false)
    (rect : rectCheck s.px.geometry (rectField p 0) = none) (jobs : s.copier.jobs.length < 8)
    (pages : pagesNeeded (rectField p 0) ≤ s.pool.free.length) : overlayPushCheck p s = none :=
  or_eq_none (failIf_false (by simp [length])) <| or_eq_none (failIf_false ready) <| or_eq_none rect <|
    snapshotCheck_none jobs pages

theorem overlayPopCheck_none {p : List Byte} {s : State} {c : PostChoice} {o : Overlay} (length : p.length = 5)
    (ready : s.mem.calibrating = false) (choice : overlayChoice p = some c) (loaded : s.lib.state ≠ .loading)
    (top : s.copier.overlays.getLast? = some o) (holds : o.capturing = none)
    (unused : ∀ r ∈ s.req.table, r.tag ≠ field p 0 2) (room : s.req.table.length < 24) : overlayPopCheck p s = none := by
  refine or_eq_none (failIf_false (by simp [length])) <| or_eq_none (failIf_false ready) <|
    or_eq_none (failIf_false (by simp [choice])) <| or_eq_none (failIf_false (by simpa using loaded)) ?_
  rw [topOverlay, top]
  exact or_eq_none (failIf_false (by simp [holds])) (tableCheck_none unused room)

theorem overlaySwapCheck_none {p : List Byte} {s : State} {o : Overlay} (pop : overlayPopCheck p s = none)
    (top : s.copier.overlays.getLast? = some o) (jobs : s.copier.jobs.length < 8)
    (pages : pagesNeeded o.rect ≤ s.pool.free.length) : overlaySwapCheck p s = none := by
  refine or_eq_none pop ?_
  rw [topOverlay, top]
  exact snapshotCheck_none jobs pages

/-- The top entry is restored in any mode but QUICK (R131). -/
theorem overlayChoice_eq_some (p : List Byte) (c : PostChoice) :
    overlayChoice p = some c ↔ postChoice p 2 = some c ∧ c.mode ≠ .quick := by
  unfold overlayChoice
  cases postChoice p 2 with
  | none => simp
  | some d => by_cases quick : d.mode = .quick <;> simp [quick] <;> rintro rfl <;> exact quick

/-! ### The commands -/

/-- An accepted OVERLAY_PUSH (R129, R130). -/
theorem overlayPush_accepted {t : Transfer} {s : State} {seq : Byte} {p : List Byte} (live : linkTakes s)
    (arrives : arrivalOf t = .command .overlayPush seq p) (check : overlayPushCheck p s = none)
    (room : s.copier.overlays.length ≤ 4) :
    ∃ u, exec (.overlayPush t) s = .next u
      ∧ answers u .overlayPush seq .ok [BitVec.ofNat 8 (min 4 (s.copier.overlays.length + 1))]
      ∧ u.copier.overlays =
          (if s.copier.overlays.length = 4 then s.copier.overlays.tail else s.copier.overlays)
            ++ [{ rect := rectField p 0, pages := s.pool.free.take (pagesNeeded (rectField p 0)),
                  capturing := some s.req.nextAge }]
      ∧ (s.copier.overlays.length = 4 → u.notices.flags.getLsbD 7 = true) := by
  have taken : takeOverlayPush p (atRisingEdge t s) = (overlayPush (rectField p 0) (atRisingEdge t s), .ok, depthBody) := by
    have check' : overlayPushCheck p (atRisingEdge t s) = none := by rw [atRisingEdge_eq]; exact check
    rw [takeOverlayPush, check']
  obtain ⟨u, next, reply, same⟩ := takeKind_answers live arrives taken
  have stack := overlayPush_overlays (rectField p 0) (s := atRisingEdge t s) (by simpa using room)
  simp only [atRisingEdge_keeps] at stack
  refine ⟨u, next, ?_, by rw [same.copier]; simpa using stack, fun full => ?_⟩
  · have depth : depthBody (finish (atRisingEdge t s) (overlayPush (rectField p 0) (atRisingEdge t s)))
        = [BitVec.ofNat 8 (min 4 (s.copier.overlays.length + 1))] := by
      simp only [depthBody, finish_keeps, stack, List.length_append, List.length_singleton]
      split
      · rename_i full; simp [full, leBytes]
      · have small : min 4 (s.copier.overlays.length + 1) = s.copier.overlays.length + 1 := by omega
        simp [small, leBytes]
    rwa [depth] at reply
  · rw [same.notices]
    exact (finish_tidies _ _).flags 7 (overlayPush_lost _ (by simpa using full))

/-- An accepted OVERLAY_POP (R131). -/
theorem overlayPop_accepted {t : Transfer} {s : State} {seq : Byte} {p : List Byte} {c : PostChoice} {o : Overlay}
    (live : linkTakes s) (arrives : arrivalOf t = .command .overlayPop seq p) (check : overlayPopCheck p s = none)
    (choice : overlayChoice p = some c) (top : s.copier.overlays.getLast? = some o) :
    ∃ u, exec (.overlayPop t) s = .next u
      ∧ answers u .overlayPop seq .ok [BitVec.ofNat 8 (s.copier.overlays.length - 1)]
      ∧ u.copier.overlays = s.copier.overlays.dropLast
      ∧ (held s = true → ∃ r, u.req.table = s.req.table ++ [r] ∧ r.tag = field p 0 2 ∧ r.source = .overlay
          ∧ r.rect = o.rect ∧ r.pages = some o.pages ∧ r.rowsWritten = o.rect.height ∧ r.early = false
          ∧ u.pool.free = s.pool.free ∧ postingNoted s u) := by
  have taken : takeOverlayPop p (atRisingEdge t s) = (overlayPop (field p 0 2) c o (atRisingEdge t s), .ok, depthBody) := by
    have check' : overlayPopCheck p (atRisingEdge t s) = none := by rw [atRisingEdge_eq]; exact check
    have top' : topOverlay (atRisingEdge t s) = some o := by simpa [topOverlay] using top
    rw [takeOverlayPop, check']
    simp only [choice, top']
  obtain ⟨u, next, reply, same⟩ := takeKind_answers live arrives taken
  refine ⟨u, next, ?_, by rw [same.copier]; simp [overlayPop], fun holds => ?_⟩
  · simpa [depthBody, overlayPop, leBytes] using reply
  · have before : held (atRisingEdge t s) = true := (held_atRisingEdge t s).trans holds
    have now : held (overlayPop (field p 0 2) c o (atRisingEdge t s)) = true :=
      (held_congr (by simp) (by simp) (by simp) (by simp) (by simp)).trans before
    obtain ⟨req, adm, pool, flags, -⟩ := finish_of_held_keeps before now
    refine ⟨overlayRequest (field p 0 2) c o s.req.nextAge, ?_, rfl, rfl, rfl, rfl, rfl, rfl, ?_, ?_⟩
    · rw [same.req, req, overlayPop, createRequest_req]; simp
    · rw [same.pool, pool]; simp
    · refine postingNoted_congr (createRequest_noted (overlayRequest (field p 0 2) c o) _) ?_ ?_ ?_
        (same.adm.trans adm) (by rw [same.notices]; exact flags) <;> simp

/-- An accepted OVERLAY_SWAP (R132, R133). -/
theorem overlaySwap_accepted {t : Transfer} {s : State} {seq : Byte} {p : List Byte} {c : PostChoice} {o : Overlay}
    (live : linkTakes s) (arrives : arrivalOf t = .command .overlaySwap seq p) (check : overlaySwapCheck p s = none)
    (choice : overlayChoice p = some c) (top : s.copier.overlays.getLast? = some o) :
    ∃ u, exec (.overlaySwap t) s = .next u
      ∧ answers u .overlaySwap seq .ok [BitVec.ofNat 8 s.copier.overlays.length]
      ∧ u.copier.overlays = s.copier.overlays.dropLast
          ++ [{ rect := o.rect, pages := s.pool.free.take (pagesNeeded o.rect), capturing := some s.req.nextAge }]
      ∧ (held s = true → ∃ r, u.req.table = s.req.table ++ [r] ∧ r.tag = field p 0 2
          ∧ r.source = .overlay ∧ r.rect = o.rect ∧ r.pages = some o.pages ∧ postingNoted s u) := by
  have taken : takeOverlaySwap p (atRisingEdge t s) =
      (overlaySwap (field p 0 2) c o (atRisingEdge t s), .ok, depthBody) := by
    have check' : overlaySwapCheck p (atRisingEdge t s) = none := by rw [atRisingEdge_eq]; exact check
    have top' : topOverlay (atRisingEdge t s) = some o := by simpa [topOverlay] using top
    rw [takeOverlaySwap, check']
    simp only [choice, top']
  obtain ⟨u, next, reply, same⟩ := takeKind_answers live arrives taken
  have stack := overlaySwap_overlays (field p 0 2) c o (atRisingEdge t s)
  simp only [atRisingEdge_keeps] at stack
  have filled : 0 < s.copier.overlays.length := by
    cases none : s.copier.overlays with
    | nil => simp [none] at top
    | cons _ _ => simp
  refine ⟨u, next, ?_, by rw [same.copier]; simpa using stack, fun holds => ?_⟩
  · have depth : s.copier.overlays.length - 1 + 1 = s.copier.overlays.length := by omega
    simpa [depthBody, stack, leBytes, depth] using reply
  · have before : held (atRisingEdge t s) = true := (held_atRisingEdge t s).trans holds
    have now : held (overlaySwap (field p 0 2) c o (atRisingEdge t s)) = true :=
      (held_congr (by simp) (by simp) (by simp) (by simp) (by simp)).trans before
    obtain ⟨req, adm, -, flags, -⟩ := finish_of_held_keeps before now
    refine ⟨overlayRequest (field p 0 2) c o (s.req.nextAge + 1), ?_, rfl, rfl, rfl, rfl, ?_⟩
    · rw [same.req, req, overlaySwap_table]; simp
    · refine postingNoted_congr (overlaySwap_noted (field p 0 2) c o (atRisingEdge t s)) ?_ ?_ ?_
        (same.adm.trans adm) (by rw [same.notices]; exact flags) <;> simp

/-- Settles O33: each command accepted by the lemmas above; a refused one by the order of its checks
(`firstRefusal_overlayPushChecks` and its kin). -/
theorem overlayCommandsMoveTheStack : Obligations.OverlayCommandsMoveTheStack := by
  refine ⟨fun t s seq p live ready => ⟨fun arrives length rect jobs pages room => ?_, ?_⟩, overlayChoice_eq_some, ?_⟩
  · exact overlayPush_accepted live arrives (overlayPushCheck_none length ready rect jobs pages) room
  · intro c o length choice loaded top holds unused room
    have check := overlayPopCheck_none length ready choice loaded top holds unused room
    exact ⟨fun arrives => overlayPop_accepted live arrives check choice top, fun arrives jobs pages =>
      overlaySwap_accepted live arrives (overlaySwapCheck_none check top jobs pages) choice top⟩
  · intro t s seq p r live rest
    refine ⟨fun arrives refusal => ?_, fun arrives refusal => ?_, fun arrives refusal => ?_⟩
    · rw [firstRefusal_overlayPushChecks] at refusal
      refine refuses_of_refused live rest arrives rfl ?_
      have refusal' : overlayPushCheck p (atRisingEdge t s) = some r := by rw [atRisingEdge_eq]; exact refusal
      rw [takeOverlayPush, refusal']
    · rw [firstRefusal_overlayPopChecks] at refusal
      refine refuses_of_refused live rest arrives rfl ?_
      have refusal' : overlayPopCheck p (atRisingEdge t s) = some r := by rw [atRisingEdge_eq]; exact refusal
      rw [takeOverlayPop, refusal']
    · rw [firstRefusal_overlaySwapChecks] at refusal
      refine refuses_of_refused live rest arrives rfl ?_
      have refusal' : overlaySwapCheck p (atRisingEdge t s) = some r := by rw [atRisingEdge_eq]; exact refusal
      rw [takeOverlaySwap, refusal']

end Sys2Proof.Machine
end

section
/-!
PROOF. ASSUME and the walks of the Pixel Store: what they write, record by record (chapter 01).
-/

namespace Sys2Proof.Machine

open Sys2Proof.Safety

/-! ### Positions of a rectangle (R14, R110) -/

/-- The place of a pixel of a rectangle in row-major order: what `Rect.position` turns back. -/
def Rect.indexOf (r : Rect) (x y : Nat) : Nat := (y - r.row) * r.width + (x - r.col)

theorem Rect.contains_iff (r : Rect) (x y : Nat) :
    r.contains x y = true ↔ r.col ≤ x ∧ x < r.col + r.width ∧ r.row ≤ y ∧ y < r.row + r.height := by
  simp [Rect.contains, and_assoc]

theorem Rect.reaches_iff (r : Rect) (done n x y : Nat) :
    r.reaches done n x y = true ↔ r.contains x y = true ∧ done ≤ r.indexOf x y ∧ r.indexOf x y < done + n := by
  simp [Rect.reaches, Rect.indexOf, and_assoc]

/-- A pixel of a rectangle has its place below the rectangle's area. -/
theorem Rect.indexOf_lt {r : Rect} {x y : Nat} (there : r.contains x y = true) : r.indexOf x y < r.area := by
  obtain ⟨left, right, top, bottom⟩ := (r.contains_iff x y).mp there
  have line : (y - r.row + 1) * r.width ≤ r.height * r.width := Nat.mul_le_mul_right _ (by omega)
  have split : (y - r.row + 1) * r.width = (y - r.row) * r.width + r.width := Nat.succ_mul _ _
  unfold Rect.indexOf Rect.area
  rw [Nat.mul_comm r.width]
  omega

/-- Position and place are inverse to each other. -/
theorem Rect.position_eq_iff {r : Rect} {i : Nat} (inside : i < r.area) (x y : Nat) :
    x = (r.position i).1 ∧ y = (r.position i).2 ↔ r.contains x y = true ∧ r.indexOf x y = i := by
  have wide : 0 < r.width := Nat.pos_of_ne_zero fun none => by simp [Rect.area, none] at inside
  have column : i % r.width < r.width := Nat.mod_lt _ wide
  have row : i / r.width < r.height := Nat.div_lt_of_lt_mul inside
  have whole : i / r.width * r.width + i % r.width = i := Nat.div_add_mod' i r.width
  rw [Rect.contains_iff]
  constructor
  · rintro ⟨rfl, rfl⟩
    refine ⟨⟨?_, ?_, ?_, ?_⟩, ?_⟩ <;>
      simp only [Rect.position, Rect.indexOf, Nat.add_sub_cancel_left, whole, Nat.le_add_right, Nat.add_lt_add_iff_left,
        column, row]
  · rintro ⟨⟨left, right, top, -⟩, rfl⟩
    have narrow : x - r.col < r.width := by omega
    have modulo : r.indexOf x y % r.width = x - r.col := by
      rw [Rect.indexOf, Nat.add_comm, Nat.add_mul_mod_self_right, Nat.mod_eq_of_lt narrow]
    have quotient : r.indexOf x y / r.width = y - r.row := by
      rw [Rect.indexOf, Nat.add_comm, Nat.add_mul_div_right _ _ wide, Nat.div_eq_of_lt narrow, Nat.zero_add]
    simp only [Rect.position, modulo, quotient]
    omega

/-! ### Writing pixels of a rectangle one after the other -/

/-- Pixels of a rectangle written one after the other by a rule that writes the same when it writes again, and never the
record of a fresh table: the pixels at the places written hold what the rule gives, every other pixel stays. -/
theorem pixelAt_foldl_updatePixel {r : Rect} {f : PixelRecord → PixelRecord} (idem : ∀ p, f (f p) = f p)
    (listed : ∀ p, f p ≠ PixelRecord.initial) (is : List Nat) (inside : ∀ i ∈ is, i < r.area) {s : State}
    (fits : r.col + r.width ≤ panelWidth s) {x y : Nat} (hx : x < panelWidth s) :
    pixelAt (is.foldl (fun t i => updatePixel (r.position i).1 (r.position i).2 f t) s) x y =
      if r.contains x y = true ∧ r.indexOf x y ∈ is then f (pixelAt s x y) else pixelAt s x y := by
  induction is generalizing s with
  | nil => simp
  | cons i is ih =>
    have first : i < r.area := inside i List.mem_cons_self
    have column : (r.position i).1 < panelWidth s := by
      have there := ((r.position_eq_iff first _ _).mp ⟨rfl, rfl⟩).1
      have := ((r.contains_iff _ _).mp there).2.1
      omega
    have step := pixelAt_updatePixel (s := s) (y := (r.position i).2) (f := f) column (.inr (listed _)) (y' := y) hx
    rw [List.foldl_cons, ih (fun j mem => inside j (List.mem_cons_of_mem _ mem))
      (s := updatePixel (r.position i).1 (r.position i).2 f s) fits hx]
    by_cases hit : r.contains x y = true ∧ r.indexOf x y = i
    · obtain ⟨hc, hr⟩ := (r.position_eq_iff first x y).mpr hit
      rw [if_pos ⟨hc, hr⟩, ← hc, ← hr] at step
      rw [← hc, ← hr, step, idem, ite_self, if_pos ⟨hit.1, List.mem_cons.mpr (.inl hit.2)⟩]
    · rw [step, if_neg fun here => hit ((r.position_eq_iff first x y).mp here)]
      have same : (r.contains x y = true ∧ r.indexOf x y ∈ i :: is) ↔ r.contains x y = true ∧ r.indexOf x y ∈ is := by
        rw [List.mem_cons]
        exact and_congr_right fun there => or_iff_right fun eq => hit ⟨there, eq⟩
      simp only [same]

/-! ### The assume walk (R14) -/

/-- What n positions of an assume walk leave (R14). -/
theorem pixelAt_assumePixels {r : Rect} {level : Level} {done n : Nat} (inside : n = 0 ∨ done + n ≤ r.area) {s : State}
    (fits : r.col + r.width ≤ panelWidth s) {x y : Nat} (hx : x < panelWidth s) :
    pixelAt (assumePixels r level done n s) x y =
      if r.reaches done n x y = true then assumed level (pixelAt s x y) else pixelAt s x y := by
  have below : ∀ i ∈ List.range' done n, i < r.area := by
    intro i mem
    have := List.mem_range'_1.mp mem
    omega
  rw [assumePixels, pixelAt_foldl_updatePixel (f := assumed level) (fun _ => rfl) (fun p => by simp [assumed, PixelRecord.initial]) _ below fits hx]
  simp only [Rect.reaches_iff, List.mem_range'_1]

/-- An assume walk goes forward by n records, or to its end, and writes those (R14). -/
theorem advancePixelWalk_assume {r : Rect} {level : Level} {done : Nat} (n : Nat) {s : State}
    (walk : s.px.walk = some (.assume r level done)) (fits : r.col + r.width ≤ panelWidth s) :
    (advancePixelWalk n s).px.walk = some (.assume r level (done + min n (r.area - done)))
      ∧ ∀ x y, x < panelWidth s → pixelAt (advancePixelWalk n s) x y =
          if r.reaches done (min n (r.area - done)) x y = true then
            { shown := level, owner := (pixelAt s x y).owner, residue := 0, balance := 0, indeterminate := false }
          else pixelAt s x y := by
  unfold advancePixelWalk
  rw [walk]
  refine ⟨rfl, fun x y hx => ?_⟩
  exact pixelAt_assumePixels (by omega) fits hx

/-- The end of an assume walk has written what the walk had left of its rectangle (R14). -/
theorem assumeWalkEnd_writes {s : State} {r : Rect} {level : Level} {done : Nat}
    (walk : s.px.walk = some (.assume r level done)) (fits : r.col + r.width ≤ panelWidth s) :
    ∃ u, exec .assumeWalkEnd s = .next u ∧ u.px.walk = none ∧ u.px.tiles = s.px.tiles
      ∧ ∀ x y, x < panelWidth s →
          pixelAt u x y =
            (if r.reaches done (r.area - done) x y = true then
              { shown := level, owner := (pixelAt s x y).owner, residue := 0, balance := 0, indeterminate := false }
            else pixelAt s x y) := by
  have meaning : exec .assumeWalkEnd s =
      .next (finish s (endPixelWalk (advancePixelWalk r.area (lastBursts .initialisation s)))) := by
    simp only [exec, execAssumeWalkEnd, walk]
  have px : (finish s (endPixelWalk (advancePixelWalk r.area (lastBursts .initialisation s)))).px
      = { (advancePixelWalk r.area (lastBursts .initialisation s)).px with walk := none } := by
    simp [endPixelWalk]
  refine ⟨_, meaning, by rw [px], by rw [px]; simp, fun x y hx => ?_⟩
  have width : panelWidth (lastBursts .initialisation s) = panelWidth s := panelWidth_congr (by simp)
  have same : pixelAt (lastBursts .initialisation s) x y = pixelAt s x y := pixelAt_congr (by simp) (by simp) x y
  have written := (advancePixelWalk_assume r.area (s := lastBursts .initialisation s) (by simpa using walk)
    (by rwa [width])).2 x y (by rwa [width])
  rw [Nat.min_eq_right (Nat.sub_le _ _), same] at written
  exact (pixelAt_congr (by rw [px]) (by rw [px]) x y).trans written

/-! ### ASSUME (R13) -/

theorem assumeCheck_none {p : List Byte} {s : State} (length : p.length = 9)
    (rect : rectCheck s.px.geometry (rectField p 0) = none) (level : field p 8 1 ≤ 15) (noWalk : s.px.walk = none)
    (noAdmission : s.adm.walk = none)
    (noJob : ∀ j ∈ s.copier.jobs, j.running = true → j.rect.intersects (rectField p 0) = false)
    (unowned : anyOwned s (rectField p 0) = false) : assumeCheck p s = none := by
  refine or_eq_none (failIf_false (by simp [length])) <| or_eq_none rect <| or_eq_none (failIf_false (by simpa using level)) ?_
  exact failIf_false (by simpa [assumeBusy, initialising, noWalk, noAdmission, unowned] using noJob)

/-- An accepted ASSUME starts its walk (R13, R14). -/
theorem assume_accepted {t : Transfer} {s : State} {seq : Byte} {p : List Byte} (live : linkTakes s)
    (arrives : arrivalOf t = .command .assume seq p) (check : assumeCheck p s = none) :
    ∃ u, exec (.assume t) s = .next u ∧ answers u .assume seq .ok []
      ∧ u.px = { s.px with walk := some (.assume (rectField p 0) (BitVec.ofNat 4 (field p 8 1)) 0) } := by
  have taken : takeAssume p (atRisingEdge t s) =
      (startAssume (rectField p 0) (BitVec.ofNat 4 (field p 8 1)) (atRisingEdge t s), .ok, noBody) := by
    have check' : assumeCheck p (atRisingEdge t s) = none := by rw [atRisingEdge_eq]; exact check
    rw [takeAssume, check']
    rfl
  obtain ⟨u, next, reply, same⟩ := takeKind_answers live arrives taken
  exact ⟨u, next, reply, by rw [same.px]; simp [startAssume]⟩

/-- Settles O35: the accepted ASSUME, the two walks' ends, and the refusals in the order of the checks. -/
theorem assumeAndItsWalkWriteTheRectangle : Obligations.AssumeAndItsWalkWriteTheRectangle := by
  refine ⟨?_, fun s r level done => assumeWalkEnd_writes, ?_, ?_⟩
  · intro t s seq p arrives live length rect level noWalk noAdmission noJob unowned
    exact assume_accepted live arrives (assumeCheck_none length rect level noWalk noAdmission noJob unowned)
  · intro s done walk
    refine ⟨finish s (endPixelWalk (lastBursts .initialisation s)), ?_, by simp [endPixelWalk]⟩
    simp only [exec, execInitialisationWalkEnd, walk]
  · intro t s seq p r arrives live rest refusal
    rw [firstRefusal_assumeChecks] at refusal
    refine refuses_of_refused live rest arrives rfl ?_
    have refusal' : assumeCheck p (atRisingEdge t s) = some r := by rw [atRisingEdge_eq]; exact refusal
    rw [takeAssume, refusal']

end Sys2Proof.Machine
end

section
/-!
PROOF. The end of a retirement walk: the records it writes, the lane it frees, and what the request is told (chapter 06).
-/

namespace Sys2Proof.Machine

open Sys2Proof.Safety

/-! ### Record numbers (R1) -/

/-- Column and row of a record number (R1). -/
theorem recordNumber_split {w x : Nat} (hx : x < w) (y : Nat) : (y * w + x) % w = x ∧ (y * w + x) / w = y := by
  rw [Nat.add_comm, Nat.add_mul_mod_self_right, Nat.add_mul_div_right _ _ (Nat.zero_lt_of_lt hx), Nat.mod_eq_of_lt hx,
    Nat.div_eq_of_lt hx, Nat.zero_add]
  exact ⟨rfl, rfl⟩

/-- A table mapped record by record, where a fresh record would stay as it is. -/
theorem pixelAt_mapPixels {s u : State} (f : Nat → PixelRecord → PixelRecord) (wf : storeWf s.px.pixels = true)
    (geometry : u.px.geometry = s.px.geometry) (pixels : u.px.pixels = mapPixels f s.px.pixels)
    (fresh : ∀ key, f key PixelRecord.initial = PixelRecord.initial) (x y : Nat) :
    pixelAt u x y = f (y * panelWidth s + x) (pixelAt s x y) := by
  rw [pixelAt, panelWidth_congr geometry, pixels, mapPixels_get f wf, pixelAt]
  cases storeGet s.px.pixels (y * panelWidth s + x) with
  | none => exact (fresh _).symm
  | some p => rfl

/-! ### What a retirement walk writes (R110, R111) -/

/-- A retirement walk goes forward by n positions, or to the end of its rectangle, and writes those its lane owns
(R110, R111). -/
theorem advanceRetire_writes {l : LaneId} {ln : Lane} {kind : WalkKind} {done : Nat} (n : Nat) {s : State}
    (lane : laneAt s l = some ln) (retiring : ln.state = .retiring kind done) (wf : storeWf s.px.pixels = true) :
    (∀ m, laneAt (advanceRetire l n s) m =
        if m = l then some { ln with state := .retiring kind (done + min n (ln.rect.area - done)) } else laneAt s m)
      ∧ ∀ x y, x < panelWidth s → pixelAt (advanceRetire l n s) x y =
          if (pixelAt s x y).owner = some l ∧ ln.rect.reaches done (min n (ln.rect.area - done)) x y = true then
            retiredRecord s ln kind x y (pixelAt s x y)
          else pixelAt s x y := by
  have meaning : advanceRetire l n s =
      setLane l (some { ln with state := .retiring kind (done + min n (ln.rect.area - done)) })
        { s with px := { s.px with
            pixels := mapPixels (retireAt s l ln kind done (min n (ln.rect.area - done))) s.px.pixels } } := by
    simp only [advanceRetire, lane, retiring]
  refine ⟨fun m => by rw [meaning, laneAt_setLane]; rfl, fun x y hx => ?_⟩
  rw [pixelAt_mapPixels (s := s) (retireAt s l ln kind done (min n (ln.rect.area - done))) wf (by rw [meaning]; rfl)
    (by rw [meaning]; rfl) (fun key => by simp [retireAt, PixelRecord.initial])]
  simp only [retireAt, recordNumber_split hx]

/-- The target of a lane's pixel is read off requests and staging bytes (R104). -/
theorem laneTarget_congr {s t : State} (req : t.req = s.req) (bytes : t.pool.bytes = s.pool.bytes)
    (epoch : t.mem.epoch = s.mem.epoch) (ln : Lane) (x y : Nat) : laneTarget t ln x y = laneTarget s ln x y := by
  simp only [laneTarget, findTag, targetLevel, imageLevel, stagingByte, req, bytes, epoch]

/-- The record a walk writes is read off targets and library (R111). -/
theorem retiredRecord_congr {s t : State} (req : t.req = s.req) (bytes : t.pool.bytes = s.pool.bytes)
    (epoch : t.mem.epoch = s.mem.epoch) (lib : t.lib = s.lib) (ln : Lane) (kind : WalkKind) (x y : Nat) (p : PixelRecord) :
    retiredRecord t ln kind x y p = retiredRecord s ln kind x y p := by
  simp only [retiredRecord, completeRecord, laneTarget_congr req bytes epoch, lib]

/-- A lane freed, and the others as they were (R112). -/
theorem laneAt_freeTheLane (l m : LaneId) (s : State) :
    laneAt (freeTheLane l s) m = if m = l then none else laneAt s m := by
  have same : laneAt (freeTheLane l s) m = laneAt (setLane l none (removeFromTiles l s)) m := laneAt_congr (by simp [freeTheLane]) m
  rw [same, laneAt_setLane, laneAt_congr (s := s) (by simp)]

/-- The row for the end of a retirement walk. -/
theorem exec_retirementWalkEnd {s : State} {l : LaneId} {ln : Lane} {kind : WalkKind} {done : Nat}
    (lane : laneAt s l = some ln) (retiring : ln.state = .retiring kind done) :
    exec (.retirementWalkEnd l) s = .next (finish s (endRetirement l ln kind (lastBursts (.retirement l) s))) := by
  simp only [exec, execRetirementWalkEnd, lane, retiring]

/-- The end of a retirement walk has written the lane's pixels and freed the lane (R110 to R112). -/
theorem retirementWalkEnd_writes {s : State} {l : LaneId} {ln : Lane} {kind : WalkKind} {done : Nat}
    (lane : laneAt s l = some ln) (retiring : ln.state = .retiring kind done) (law : storeLaw s) :
    ∃ u, exec (.retirementWalkEnd l) s = .next u ∧ laneAt u l = none
      ∧ (∀ m, m ≠ l → laneAt u m = laneAt s m)
      ∧ u.px.tiles = (s.px.tiles.filter fun e => e.2 ≠ l)
      ∧ ∀ x y, x < panelWidth s →
          pixelAt u x y =
            (if (pixelAt s x y).owner = some l ∧ ln.rect.reaches done (ln.rect.area - done) x y = true then
              retiredRecord s ln kind x y (pixelAt s x y)
            else pixelAt s x y) := by
  have lanes : ∀ m, laneAt (lastBursts (.retirement l) s) m = laneAt s m := laneAt_congr (by simp)
  have wf : storeWf (lastBursts (.retirement l) s).px.pixels = true := by
    simpa using ((pixelsWf_iff _).mp law.2).1
  obtain ⟨walked, written⟩ := advanceRetire_writes ln.rect.area ((lanes l).trans lane) retiring wf
  have freed : ∀ m, laneAt (finish s (endRetirement l ln kind (lastBursts (.retirement l) s))) m =
      if m = l then none else laneAt s m := by
    intro m
    have same : laneAt (finish s (endRetirement l ln kind (lastBursts (.retirement l) s))) m =
        laneAt (freeTheLane l (advanceRetire l ln.rect.area (lastBursts (.retirement l) s))) m :=
      laneAt_congr (by simp [endRetirement]) m
    rw [same, laneAt_freeTheLane, walked, lanes]
    split <;> rfl
  refine ⟨_, exec_retirementWalkEnd lane retiring, by simp [freed], fun m other => by simp [freed, other], ?_, ?_⟩
  · simp [endRetirement, freeTheLane, removeFromTiles]
  · intro x y hx
    have width : panelWidth (lastBursts (.retirement l) s) = panelWidth s := panelWidth_congr (by simp)
    have same : pixelAt (finish s (endRetirement l ln kind (lastBursts (.retirement l) s))) x y =
        pixelAt (advanceRetire l ln.rect.area (lastBursts (.retirement l) s)) x y :=
      pixelAt_congr (by simp [endRetirement]) (by simp [endRetirement]) x y
    have before : pixelAt (lastBursts (.retirement l) s) x y = pixelAt s x y := pixelAt_congr (by simp) (by simp) x y
    rw [same, written x y (by rwa [width]), before, Nat.min_eq_right (Nat.sub_le _ _),
      retiredRecord_congr (s := s) (by simp) (by simp) (by simp) (by simp)]

/-! ### The records, kind by kind (R4, R111) -/

theorem clampBalance_eq (b : Int) : clampBalance b = max (-127) (min 127 b) := by
  unfold clampBalance; (repeat' split) <;> omega

/-- Residue weight of a mode that is not a clearing one (R18). -/
theorem Mode.weight_eq {m : Mode} (drives : m.clearing = false) : m.weight = if m = .quick then 2 else 1 := by
  cases m <;> first | rfl | cases drives

/-- A COMPLETE walk of a mode that is not a clearing one counts in weight and imbalance (R4, R111). -/
theorem completeRecord_drives (s : State) {ln : Lane} (x y : Nat) (q : PixelRecord) (drives : ln.mode.clearing = false) :
    retiredRecord s ln .complete x y q =
      { shown := laneTarget s ln x y, owner := none
        residue := min 15 (q.residue + if ln.mode = .quick then 2 else 1)
        balance := max (-127) (min 127
          (q.balance + s.lib.imbalance ln.mode ln.band q.shown (laneTarget s ln x y)))
        indeterminate := q.indeterminate } := by
  simp only [retiredRecord, completeRecord, drives, Mode.weight_eq drives, clampBalance_eq]
  rfl

/-- A COMPLETE walk of a clearing mode resets residue and balance (R4, R111). -/
theorem completeRecord_clears (s : State) {ln : Lane} (x y : Nat) (q : PixelRecord) (clears : ln.mode.clearing = true) :
    retiredRecord s ln .complete x y q =
      { shown := laneTarget s ln x y, owner := none, residue := 0, balance := 0, indeterminate := false } := by
  simp only [retiredRecord, completeRecord, clears, if_true]

/-- The imbalance read of a transition (R20, R21, R23). -/
theorem Library.imbalance_eq (lib : Library) (m : Mode) (band : Nat) (shown target : Level) :
    lib.imbalance m band shown target =
      (lib.imbalances.getD (m.code * lib.bandCount + band) []).getD
        (if m = .blank then target.toNat else shown.toNat * 16 + target.toNat) 0 := by
  cases m <;> rfl

end Sys2Proof.Machine
end

section
/-!
PROOF. What the end of a retirement walk tells the request: a part finished, the entry into REPORTING, the line's offers, and
the leaving of a withdrawn request (chapter 03).
-/

namespace Sys2Proof.Machine

open Sys2Proof.Safety

/-! ### Records looked up by age -/

/-- A record that carries the age looked for. -/
theorem age_of_findAge {s : State} {age : Nat} {r : Request} (found : findAge s age = some r) : r.age = age := by
  simpa using List.find?_some found

theorem mem_of_findAge {s : State} {age : Nat} {r : Request} (found : findAge s age = some r) : r ∈ s.req.table :=
  List.mem_of_find?_eq_some found

/-- The lookup reads the table alone. -/
theorem findAge_congr {s u : State} (table : u.req.table = s.req.table) (age : Nat) : findAge u age = findAge s age := by
  simp only [findAge, table]

/-- A table mapped by a rule that keeps ages. -/
theorem findAge_map {s u : State} {g : Request → Request} (table : u.req.table = s.req.table.map g)
    (ages : ∀ r, (g r).age = r.age) (age : Nat) : findAge u age = (findAge s age).map g := by
  simp only [findAge, table, List.find?_map]
  congr 2
  funext r
  simp [ages]

/-- A record updated is found updated; the others are found as they were. -/
theorem findAge_updateRequest {age : Nat} {f : Request → Request} (ages : ∀ r, (f r).age = r.age) (s : State) (a : Nat) :
    findAge (updateRequest age f s) a = (findAge s a).map fun r => if r.age = age then f r else r :=
  findAge_map rfl (fun r => by split <;> simp [ages]) a

/-- A record of another age is found as it was. -/
theorem findAge_updateRequest_of_ne {age a : Nat} {f : Request → Request} (ages : ∀ r, (f r).age = r.age) (s : State)
    (other : a ≠ age) : findAge (updateRequest age f s) a = findAge s a := by
  rw [findAge_updateRequest ages]
  cases found : findAge s a with
  | none => rfl
  | some r => simp [age_of_findAge found, other]

/-- A filter that keeps the records of an age keeps what is found of it. -/
theorem findAge_filter {s u : State} {p : Request → Bool} (table : u.req.table = s.req.table.filter p) {age : Nat}
    (kept : ∀ r, r.age = age → p r = true) : findAge u age = findAge s age := by
  simp only [findAge, table, List.find?_filter]
  congr 1
  funext r
  by_cases here : r.age = age <;> simp [here, kept]

/-- A filter that drops the records of an age leaves none of it. -/
theorem findAge_filter_none {s u : State} {p : Request → Bool} (table : u.req.table = s.req.table.filter p) {age : Nat}
    (dropped : ∀ r, r.age = age → p r = false) : findAge u age = none := by
  simp only [findAge, table, List.find?_filter, List.find?_eq_none]
  intro r _
  by_cases here : r.age = age <;> simp [here, dropped]

/-! ### Pages returned (R62) -/

theorem mem_insertPage (p q : Nat) (m : List Nat) : q ∈ insertPage m p ↔ q = p ∨ q ∈ m := by
  induction m with
  | nil => simp [insertPage]
  | cons a m ih =>
    unfold insertPage
    split
    · simp
    · split
      · rename_i same; simp [same]
      · simp only [List.mem_cons, ih]; tauto

/-- Pages returned are free, and so are those that were. -/
theorem mem_returnPages (pages : List Nat) (s : State) (q : Nat) :
    q ∈ (returnPages pages s).pool.free ↔ q ∈ pages ∨ q ∈ s.pool.free := by
  suffices fold : ∀ m : List Nat, q ∈ pages.foldl insertPage m ↔ q ∈ pages ∨ q ∈ m from fold _
  induction pages with
  | nil => simp
  | cons p pages ih => intro m; rw [List.foldl_cons, ih, mem_insertPage, List.mem_cons]; tauto

/-- The pages of a record found return (R62). -/
theorem mem_freeRequestPages {age : Nat} {s : State} {r : Request} (found : findAge s age = some r) {q : Nat}
    (page : q ∈ r.pages.getD []) : q ∈ (freeRequestPages age s).pool.free := by
  simp only [freeRequestPages, found]
  exact (mem_returnPages _ s q).mpr (.inl page)

theorem freeRequestPages_table {age : Nat} {s : State} {r : Request} (found : findAge s age = some r) :
    (freeRequestPages age s).req.table = s.req.table.map fun q => if q.age = age then { q with pages := none } else q := by
  simp only [freeRequestPages, found, updateRequest, returnPages_keeps]

/-! ### The entry into REPORTING (R56, R62, R64) -/

/-- A request's record as it stands in REPORTING: its tally closed, its pages gone but for a chunk write in flight. -/
def Request.reported (writing : Bool) (q : Request) : Request :=
  { q with
    state := .reporting, tally := q.tally.map fun t => { t with closed := true }
    pages := if writing = true then q.pages else none }

/-- A request entering REPORTING, with its tally closed and its job gone, its pages yet to return. -/
def closedFor (r : Request) (s : State) : State :=
  dropJobs (Job.isCopyOf r.age) (closeTally r.age (updateRequest r.age (fun q => { q with state := .reporting }) s))

/-- A request in REPORTING at the end of the line, whose records are yet to be offered. -/
def linedUp (r : Request) (s : State) : State :=
  let t := if writingFor (closedFor r s) r.age then closedFor r s else freeRequestPages r.age (closedFor r s)
  { t with req := { t.req with line := t.req.line ++ [{ age := r.age, record := composeRecord r }] } }

theorem enterReporting_eq (r : Request) (s : State) : enterReporting r s = offerRecords (linedUp r s) := rfl

/-- The writer's chunk is read off the Inflow Unit. -/
theorem writingFor_congr {s u : State} (inflow : u.inflow = s.inflow) (age : Nat) : writingFor u age = writingFor s age := by
  simp only [writingFor, inflow]

theorem closedFor_table (r : Request) (s : State) : (closedFor r s).req.table = s.req.table.map fun q =>
    if q.age = r.age then { q with state := .reporting, tally := q.tally.map fun t => { t with closed := true } } else q := by
  simp only [closedFor, dropJobs_keeps, closeTally, updateRequest, List.map_map]
  congr 1
  funext q
  by_cases here : q.age = r.age <;> simp [here]

theorem findAge_closedFor {r : Request} {s : State} (found : findAge s r.age = some r) : findAge (closedFor r s) r.age =
    some { r with state := .reporting, tally := r.tally.map fun t => { t with closed := true } } := by
  rw [findAge_map (closedFor_table r s) (fun q => by split <;> rfl), found]
  simp

/-- Table and line of a request that has entered REPORTING (R56). -/
theorem linedUp_req {r : Request} {s : State} (found : findAge s r.age = some r) :
    (linedUp r s).req = { s.req with
      table := s.req.table.map fun q => if q.age = r.age then q.reported (writingFor s r.age) else q
      line := s.req.line ++ [{ age := r.age, record := composeRecord r }] } := by
  have writing : writingFor (closedFor r s) r.age = writingFor s r.age := writingFor_congr (by simp [closedFor]) _
  unfold linedUp
  rw [writing]
  cases here : writingFor s r.age
  · have table := freeRequestPages_table (findAge_closedFor found)
    rw [closedFor_table, List.map_map] at table
    simp only [Bool.false_eq_true, if_false, table]
    simp only [freeRequestPages_keeps, closedFor, dropJobs_keeps, closeTally_keeps, updateRequest_keeps]
    congr 2
    funext q
    by_cases same : q.age = r.age <;> simp [same, Request.reported]
  · simp only [if_true, closedFor_table]
    simp [closedFor, Request.reported]

theorem linedUp_log (r : Request) (s : State) : (linedUp r s).notices = s.notices := by
  unfold linedUp
  split <;> simp [closedFor]

/-- The pages of the request have gone back but for a chunk write in flight (R62). -/
theorem linedUp_pages {r : Request} {s : State} (found : findAge s r.age = some r) (idle : writingFor s r.age = false)
    {q : Nat} (page : q ∈ r.pages.getD []) : q ∈ (linedUp r s).pool.free := by
  have writing : writingFor (closedFor r s) r.age = false := (writingFor_congr (by simp [closedFor]) _).trans idle
  simp only [linedUp, writing, Bool.false_eq_true, if_false]
  exact mem_freeRequestPages (findAge_closedFor found) page

/-- A request found as `q` in a table is found in REPORTING once it has entered it; the others as they were. -/
theorem findAge_linedUp {r : Request} {s : State} (found : findAge s r.age = some r) (age : Nat) :
    findAge (linedUp r s) age =
      if age = r.age then some (r.reported (writingFor s r.age)) else findAge s age := by
  rw [findAge_map (s := s) (u := linedUp r s) (by rw [linedUp_req found]) (fun q => by split <;> rfl)]
  split
  · rename_i here
    rw [here, found]
    simp
  · rename_i other
    cases there : findAge s age with
    | none => rfl
    | some q => simp [age_of_findAge there, other]

/-- The offers of a line reach its first n places (R57, R176): their records join the log, their requests leave, all others
stay; the log has room for each, each is ready, and the next has to wait. -/
structure OffersFirst (places : List Reporting) (s u : State) (n : Nat) : Prop where
  bound : n ≤ places.length
  log : u.notices.log = s.notices.log ++ (places.take n).map fun h => h.record
  line : u.req.line = places.drop n
  gone : ∀ h ∈ places.take n, findAge u h.age = none
  stays : ∀ age, (∀ h ∈ places.take n, h.age ≠ age) → findAge u age = findAge s age
  accepted : ∀ i h, i < n → places[i]? = some h → s.notices.log.length + i < 32 ∧ readyToOffer s h = true
  waits : ∀ h, places[n]? = some h → ¬ (s.notices.log.length + n < 32 ∧ readyToOffer s h = true)

theorem offerRecords_offersFirst (s : State) (distinct : (s.req.line.map fun h => h.age).Nodup) :
    ∃ n, OffersFirst s.req.line s (offerRecords s) n := by
  obtain ⟨n, bound, log, req, accepted, waits⟩ := offerFrom_prefix s.req.line s distinct rfl
  refine ⟨n, bound, log, congrArg Requests.line req, ?_, ?_, accepted, waits⟩
  · intro h mem
    refine findAge_filter_none (s := s) (u := offerRecords s) (congrArg Requests.table req) fun r same => ?_
    exact Bool.eq_false_iff.mpr fun all => by
      have := List.all_eq_true.mp all h mem
      simp [same] at this
  · intro age other
    refine findAge_filter (s := s) (u := offerRecords s) (congrArg Requests.table req) fun r same => ?_
    exact List.all_eq_true.mpr fun h mem => by simpa [same] using other h mem

/-- Whether a place of the line may offer is read off its record. -/
theorem readyToOffer_congr {s u : State} {h : Reporting} (same : findAge u h.age = findAge s h.age) :
    readyToOffer u h = readyToOffer s h := by
  simp only [readyToOffer, same]

end Sys2Proof.Machine
end

section
/-!
PROOF. The end of a retirement walk, as a whole: what the request is told, and what becomes of it (chapters 03 and 06).
-/

namespace Sys2Proof.Machine

open Sys2Proof.Safety

/-! ### Events at which no pass starts -/

/-- Where a pass is barred the end of the event starts none that finds an entry (R78, R80). -/
theorem tryPass_of_barred {s : State} (barred : passBarred s) :
    (tryPass s).req = s.req ∧ (tryPass s).notices = s.notices ∧ (tryPass s).pool = s.pool := by
  unfold tryPass
  split
  · rename_i due
    simp only [Bool.and_eq_true, Bool.not_eq_true', held, Bool.or_eq_false_iff, decide_eq_false_iff_not, not_not] at due
    obtain ⟨⟨-, ⟨⟨⟨⟨valid, warm⟩, sound⟩, -⟩, -⟩⟩, idle⟩ := due
    have empty : s.req.queue = [] := by
      rcases barred with running | empty | invalid | cold | fault
      · simp [idle] at running
      · exact empty
      · exact absurd valid invalid
      · exact absurd warm cold
      · exact absurd fault sound
    simp [startPass, empty, runPass]
  · exact ⟨rfl, rfl, rfl⟩

/-- What bars a pass is read off the Admission Unit, the queue, library, temperature and rails. -/
theorem passBarred_congr {s u : State} (running : u.adm.passRunning = s.adm.passRunning) (queue : u.req.queue = s.req.queue)
    (lib : u.lib = s.lib) (temp : u.temp = s.temp) (rails : u.rails = s.rails) (barred : passBarred s) : passBarred u := by
  simpa only [passBarred, running, queue, lib, temp, rails] using barred

/-- Where a pass is barred the end of an event leaves requests, log and pages alone. -/
theorem finish_of_barred (b : State) {s : State} (barred : passBarred s) :
    (finish b s).req = s.req ∧ (finish b s).notices.log = s.notices.log ∧ (finish b s).pool = s.pool := by
  obtain ⟨req, notices, pool⟩ := tryPass_of_barred (s := noteHolds b s)
    (passBarred_congr (by simp) (by simp) (by simp) (by simp) (by simp) barred)
  simp [finish, req, notices, pool]

/-! ### A request judged (R56, R59) -/

/-- A request that is not withdrawn and has parts or a cancel to come stays. -/
theorem judgeFinish_stays {age : Nat} {s : State} {q : Request} (found : findAge s age = some q) (live : q.withdrawn = false)
    (waits : q.partsFinished ≠ q.partsUsed ∨ q.cancelPending ≠ .none ∨ q.withdrawalPending ≠ none) :
    judgeFinish age s = s := by
  simp only [judgeFinish, found, live, Bool.false_eq_true, if_false]
  exact if_neg fun ⟨parts, cancel, withdrawal, _⟩ => by
    rcases waits with more | pending | pending
    · exact more parts
    · exact pending cancel
    · exact pending withdrawal

/-- A request that has finished its last part enters REPORTING (R56). -/
theorem judgeFinish_enters {age : Nat} {s : State} {q : Request} (found : findAge s age = some q) (live : q.withdrawn = false)
    (parts : q.partsFinished = q.partsUsed) (cancel : q.cancelPending = .none) (withdrawal : q.withdrawalPending = none)
    (first : q.state ≠ .reporting) : judgeFinish age s = enterReporting q s := by
  simp only [judgeFinish, found, live, Bool.false_eq_true, if_false]
  exact if_pos ⟨parts, cancel, withdrawal, first⟩

/-- A withdrawn request with an entry in its walk, or with a lane, stays (R59). -/
theorem judgeFinish_withdrawn_stays {age : Nat} {s : State} {q : Request} (found : findAge s age = some q)
    (gone : q.withdrawn = true) (tied : isAdmitting s q.age = true ∨ anyLane s q.tag (fun _ => true) = true) :
    judgeFinish age s = s := by
  simp only [judgeFinish, found, gone, if_true, leaveIfDone]
  exact if_pos (by simpa using tied)

/-- A withdrawn request without either leaves the table, and its pages go back (R59). -/
theorem judgeFinish_withdrawn_leaves {age : Nat} {s : State} {q : Request} (found : findAge s age = some q)
    (gone : q.withdrawn = true) (noEntry : isAdmitting s q.age = false) (noLane : anyLane s q.tag (fun _ => true) = false) :
    judgeFinish age s = leaveTable q.age (freeRequestPages q.age s) := by
  simp only [judgeFinish, found, gone, if_true, leaveIfDone]
  exact if_neg (by simp [noEntry, noLane])

/-- Some lane carries a tag (R37). -/
theorem anyLane_true_iff {s : State} {tag : Nat} :
    anyLane s tag (fun _ => true) = true ↔ ∃ l ln, laneAt s l = some ln ∧ ln.tag = tag := by
  simp only [anyLane, List.any_eq_true, laneOf]
  constructor
  · rintro ⟨l, -, carries⟩
    cases lane : laneAt s l with
    | none => simp [lane] at carries
    | some ln => exact ⟨l, ln, lane, by simpa [lane] using carries⟩
  · rintro ⟨l, ln, lane, rfl⟩
    exact ⟨l, mem_allLanes l, by simp [lane]⟩

theorem leaveTable_table (age : Nat) (s : State) :
    (leaveTable age s).req.table = s.req.table.filter fun r => r.age ≠ age := by
  simp only [leaveTable]
  split <;> rfl

/-- The offers of a line leave the requests that are not in it (R57). -/
theorem findAge_offerFrom {a : Nat} (l : List Reporting) (s : State) (notInLine : ∀ h ∈ l, h.age ≠ a) :
    findAge (offerFrom l s) a = findAge s a := by
  induction l generalizing s with
  | nil => rfl
  | cons h rest ih =>
    unfold offerFrom
    split
    · rw [ih _ fun g mem => notInLine g (List.mem_cons_of_mem _ mem), acceptRecord]
      refine (findAge_filter (leaveTable_table _ _) fun r same => ?_).trans (findAge_congr rfl a)
      simpa [same] using (notInLine h List.mem_cons_self).symm
    · rfl

/-- Judging one request leaves the others that are not in the line (R56, R57, R59). -/
theorem findAge_judgeFinish_of_ne {age a : Nat} (s : State) (other : a ≠ age) (notInLine : ∀ h ∈ s.req.line, h.age ≠ a) :
    findAge (judgeFinish age s) a = findAge s a := by
  cases found : findAge s age with
  | none => simp only [judgeFinish, found]
  | some q =>
    have own : q.age = age := age_of_findAge found
    have found' : findAge s q.age = some q := own ▸ found
    simp only [judgeFinish, found]
    split
    · unfold leaveIfDone
      split
      · rfl
      · rw [findAge_filter (leaveTable_table _ _) fun r same => by simpa [same, own] using other]
        rw [findAge_map (freeRequestPages_table found') (fun q => by split <;> rfl)]
        cases there : findAge s a with
        | none => rfl
        | some p => simp [age_of_findAge there, own, other]
    · split
      · rw [enterReporting_eq, offerRecords, findAge_offerFrom, findAge_linedUp found', if_neg (own ▸ other)]
        intro h mem
        rw [linedUp_req found'] at mem
        rcases List.mem_append.mp mem with old | new
        · exact notInLine h old
        · rw [List.mem_singleton.mp new]; exact fun same => other (same.symm.trans own)
      · rfl

/-! ### The request told (R43, R44, R112) -/

/-- The state in which the request is told of its part: the lane is free, the part counted. -/
def partTold (l : LaneId) (ln : Lane) (kind : WalkKind) (r : Request) (s : State) : State :=
  updateRequest r.age (Request.behindWalk ln kind)
    (freeTheLane l (advanceRetire l ln.rect.area (lastBursts (.retirement l) s)))

section
variable {s : State} {l : LaneId} {ln : Lane} {kind : WalkKind} {done : Nat} {r : Request}

/-- A lane's walk tells the request of its tag. -/
theorem endRetirement_eq (told : findTag s ln.tag = some r) :
    endRetirement l ln kind (lastBursts (.retirement l) s) =
      judgeJobs (wantPass (judgeFinish r.age (partTold l ln kind r s))) := by
  have same : findTag (freeTheLane l (advanceRetire l ln.rect.area (lastBursts (.retirement l) s))) ln.tag = some r := by
    simpa [findTag] using told
  simp only [endRetirement, reportPart, same, partTold]

theorem partTold_keeps : (partTold l ln kind r s).req.line = s.req.line ∧ (partTold l ln kind r s).req.queue = s.req.queue
    ∧ (partTold l ln kind r s).notices = s.notices ∧ (partTold l ln kind r s).inflow = s.inflow
    ∧ (partTold l ln kind r s).pool = s.pool := by
  simp [partTold]

theorem Request.behindWalk_keeps (q : Request) : (Request.behindWalk ln kind q).age = q.age
    ∧ (Request.behindWalk ln kind q).tag = q.tag ∧ (Request.behindWalk ln kind q).pages = q.pages
    ∧ (Request.behindWalk ln kind q).withdrawn = q.withdrawn ∧ (Request.behindWalk ln kind q).state = q.state
    ∧ (Request.behindWalk ln kind q).partsUsed = q.partsUsed
    ∧ (Request.behindWalk ln kind q).cancelPending = q.cancelPending
    ∧ (Request.behindWalk ln kind q).withdrawalPending = q.withdrawalPending := by
  cases kind <;> exact ⟨rfl, rfl, rfl, rfl, rfl, rfl, rfl, rfl⟩

/-- The record told is found with its part counted. -/
theorem findAge_partTold (found : findAge s r.age = some r) :
    findAge (partTold l ln kind r s) r.age = some (r.behindWalk ln kind) := by
  rw [partTold, findAge_updateRequest (fun q => (q.behindWalk_keeps).1), findAge_congr (s := s) (by simp), found]
  simp

theorem findAge_partTold_of_ne {a : Nat} (other : a ≠ r.age) : findAge (partTold l ln kind r s) a = findAge s a := by
  rw [partTold, findAge_updateRequest_of_ne (fun q => (q.behindWalk_keeps).1) _ other, findAge_congr (s := s) (by simp)]

/-- The lane is free when the request is told. -/
theorem laneAt_partTold (lane : laneAt s l = some ln) (retiring : ln.state = .retiring kind done) (m : LaneId) :
    laneAt (partTold l ln kind r s) m = if m = l then none else laneAt s m := by
  have lanes : ∀ m, laneAt (lastBursts (.retirement l) s) m = laneAt s m := laneAt_congr (by simp)
  have same : laneAt (partTold l ln kind r s) m =
      laneAt (freeTheLane l (advanceRetire l ln.rect.area (lastBursts (.retirement l) s))) m :=
    laneAt_congr (by simp [partTold]) m
  rw [same, laneAt_freeTheLane]
  split
  · rfl
  · rename_i other
    simp only [advanceRetire, lanes, lane, retiring, laneAt_setLane, other, if_false]
    exact lanes m

/-- The tag is still carried where another lane of the request is left. -/
theorem anyLane_partTold (lane : laneAt s l = some ln) (retiring : ln.state = .retiring kind done) (tag : ln.tag = r.tag) :
    anyLane (partTold l ln kind r s) r.tag (fun _ => true) = true
      ↔ ∃ m n, m ≠ l ∧ laneAt s m = some n ∧ n.tag = ln.tag := by
  rw [anyLane_true_iff, tag]
  simp only [laneAt_partTold lane retiring]
  refine exists_congr fun m => exists_congr fun n => ?_
  by_cases here : m = l <;> simp [here]

theorem isAdmitting_partTold (age : Nat) : isAdmitting (partTold l ln kind r s) age = isAdmitting s age := by
  simp only [isAdmitting, entryOf, partTold_keeps]

/-- With its last part a request enters REPORTING behind the line, and the line offers what the log has room for (R56, R57,
R62, R176). -/
theorem lastPart_offers (found : findAge s r.age = some r) {q : Request} (behind : q = r.behindWalk ln kind)
    {line : List Reporting} (placed : line = s.req.line ++ [{ age := r.age, record := composeRecord q }])
    (live : r.withdrawn = false) (parts : q.partsFinished = q.partsUsed) (cancel : r.cancelPending = .none)
    (withdrawal : r.withdrawalPending = none) (first : r.state ≠ .reporting) (distinct : (line.map fun h => h.age).Nodup) :
    (writingFor s r.age = false → ∀ page ∈ r.pages.getD [], page ∈ (judgeFinish r.age (partTold l ln kind r s)).pool.free)
      ∧ ∃ n, OffersFirst line (linedUp q (partTold l ln kind r s)) (judgeFinish r.age (partTold l ln kind r s)) n := by
  obtain ⟨age, tag, pages, withdrawn, state, used, pendingCancel, pendingWithdrawal⟩ :=
    r.behindWalk_keeps (ln := ln) (kind := kind)
  rw [← behind] at age pages withdrawn state pendingCancel pendingWithdrawal
  have told : findAge (partTold l ln kind r s) q.age = some q := by rw [age, behind]; exact findAge_partTold found
  have enters : judgeFinish r.age (partTold l ln kind r s) = enterReporting q (partTold l ln kind r s) :=
    judgeFinish_enters (by rw [← age]; exact told) (withdrawn.trans live) parts (pendingCancel.trans cancel)
      (pendingWithdrawal.trans withdrawal) (by rwa [state])
  have lined : (linedUp q (partTold l ln kind r s)).req.line = line := by
    rw [linedUp_req told, placed, age]
    simp [partTold_keeps]
  rw [enters, enterReporting_eq]
  constructor
  · intro idle page mem
    have idle' : writingFor (partTold l ln kind r s) q.age = false := by
      rw [age, writingFor_congr (s := s) (by simp [partTold_keeps])]; exact idle
    simpa using linedUp_pages told idle' (by rwa [pages])
  · rw [← lined] at distinct ⊢
    exact offerRecords_offersFirst _ distinct

/-- A withdrawn request with neither entry nor lane leaves with its last lane, unrecorded, and its pages go back (R59). -/
theorem lastLane_leaves (lane : laneAt s l = some ln) (retiring : ln.state = .retiring kind done)
    (found : findAge s r.age = some r) (tag : ln.tag = r.tag) (gone : r.withdrawn = true)
    (noEntry : isAdmitting s r.age = false) (noLane : ∀ m n, m ≠ l → laneAt s m = some n → n.tag ≠ ln.tag) :
    findAge (judgeFinish r.age (partTold l ln kind r s)) r.age = none
      ∧ (judgeFinish r.age (partTold l ln kind r s)).req.line = s.req.line
      ∧ (judgeFinish r.age (partTold l ln kind r s)).notices.log = s.notices.log
      ∧ ∀ page ∈ r.pages.getD [], page ∈ (judgeFinish r.age (partTold l ln kind r s)).pool.free := by
  obtain ⟨age, tag', pages, withdrawn, -⟩ := r.behindWalk_keeps (ln := ln) (kind := kind)
  have told := findAge_partTold (l := l) (ln := ln) (kind := kind) found
  have free : anyLane (partTold l ln kind r s) r.tag (fun _ => true) = false := by
    rw [Bool.eq_false_iff, ne_eq, anyLane_partTold lane retiring tag]
    rintro ⟨m, n, other, used, same⟩
    exact noLane m n other used same
  rw [judgeFinish_withdrawn_leaves told (withdrawn.trans gone) (by rw [age, isAdmitting_partTold]; exact noEntry)
    (by rw [tag']; exact free), age]
  refine ⟨findAge_filter_none (leaveTable_table _ _) fun q same => by simp [same], by simp [partTold_keeps],
    by simp [partTold_keeps], fun page mem => ?_⟩
  rw [(leaveTable_keeps _ _).2.2.2.2.2.2.2.1]
  exact mem_freeRequestPages told (by rwa [pages])

end

/-- The offers of a line whose last place is the request's own, seen from a state that differs only in that request. -/
theorem OffersFirst.behindLine {s t u : State} {old places : List Reporting} {own : Reporting} {p : Request} {n : Nat}
    (offers : OffersFirst places t u n) (placed : places = old ++ [own]) (log : t.notices.log = s.notices.log)
    (reported : findAge t own.age = some p) (others : ∀ a, a ≠ own.age → findAge t a = findAge s a)
    (distinct : (places.map fun h => h.age).Nodup) :
    u.notices.log = s.notices.log ++ ((places.take n).map fun h => h.record) ∧ u.req.line = places.drop n
      ∧ (∀ h ∈ places.take n, findAge u h.age = none)
      ∧ (∀ h ∈ old.drop n, findAge u h.age = findAge s h.age)
      ∧ (n < places.length → findAge u own.age = some p)
      ∧ (∀ i, i < n → s.notices.log.length + i < 32)
      ∧ (∀ h ∈ old.take n, readyToOffer s h = true)
      ∧ (n = places.length → p.pages = none)
      ∧ (n < places.length → s.notices.log.length + n < 32 →
          (∀ h, old[n]? = some h → readyToOffer s h = false) ∧ (n = old.length → p.pages ≠ none)) := by
  have length : places.length = old.length + 1 := by simp [placed]
  have notOwn : ∀ h ∈ old, h.age ≠ own.age := by
    intro h mem same
    rw [placed, List.map_append, List.nodup_append] at distinct
    exact distinct.2.2 _ (List.mem_map_of_mem mem) _ (by simp) same
  have apart : ∀ h ∈ places.drop n, ∀ g ∈ places.take n, g.age ≠ h.age := by
    intro h later g earlier
    rw [← List.take_append_drop n places, List.map_append, List.nodup_append] at distinct
    exact distinct.2.2 _ (List.mem_map_of_mem earlier) _ (List.mem_map_of_mem later)
  have ready : ∀ h ∈ old, readyToOffer t h = readyToOffer s h :=
    fun h mem => readyToOffer_congr (others h.age (notOwn h mem))
  have ownReady : readyToOffer t own = p.pages.isNone := by simp [readyToOffer, reported]
  have place : places[old.length]? = some own := by simp [placed]
  have oldPlace : ∀ (i : Nat) h, old[i]? = some h → places[i]? = some h := by
    intro i h at_i
    have bound : i < old.length := (List.getElem?_eq_some_iff.mp at_i).1
    rwa [placed, List.getElem?_append_left bound]
  refine ⟨by rw [offers.log, log], offers.line, offers.gone, ?_, ?_, ?_, ?_, ?_, ?_⟩
  · intro h mem
    have later : h ∈ places.drop n := by
      rw [placed, List.drop_append]
      exact List.mem_append_left _ mem
    rw [offers.stays _ (apart h later), others _ (notOwn h (List.mem_of_mem_drop mem))]
  · intro before
    have later : own ∈ places.drop n := by
      rw [placed, List.drop_append]
      refine List.mem_append_right _ ?_
      have zero : n - old.length = 0 := by omega
      simp [zero]
    rw [offers.stays _ (apart own later), reported]
  · intro i lt
    have bound : i < places.length := Nat.lt_of_lt_of_le lt offers.bound
    rw [← log]
    exact (offers.accepted i places[i] lt (List.getElem?_eq_getElem bound)).1
  · intro h mem
    obtain ⟨i, bound, at_i⟩ := List.mem_take_iff_getElem.mp mem
    have there : old[i]? = some h := List.getElem?_eq_some_iff.mpr ⟨by omega, at_i⟩
    rw [← ready h (List.mem_of_mem_take mem)]
    exact (offers.accepted i h (by omega) (oldPlace i h there)).2
  · intro all
    have accepted := (offers.accepted old.length own (by omega) place).2
    simpa [ownReady] using accepted
  · intro before room
    rw [← log] at room
    refine ⟨fun h at_n => ?_, fun here => ?_⟩
    · rw [← ready h (List.mem_of_getElem? at_n)]
      exact Bool.eq_false_iff.mpr fun may => offers.waits h (oldPlace n h at_n) ⟨room, may⟩
    · intro none
      exact offers.waits own (here ▸ place) ⟨room, by rw [ownReady, none]; rfl⟩

/-- What the request is told at the end of a retirement walk, in the order of `Obligations.RetirementWritesTheLanesPixels`. -/
theorem retirementWalkEnd_tells {s : State} {l : LaneId} {ln : Lane} {kind : WalkKind} {done : Nat} {r q : Request}
    {line : List Reporting} (lane : laneAt s l = some ln) (retiring : ln.state = .retiring kind done)
    (told : findTag s ln.tag = some r) (found : findAge s r.age = some r) (behind : q = r.behindWalk ln kind)
    (placed : line = s.req.line ++ [{ age := r.age, record := composeRecord q }]) :
    ∃ v u, exec (.retirementWalkEnd l) s = .next u ∧ u = finish s v
      ∧ v.adm.passWanted = true ∧ v.adm.walk = s.adm.walk ∧ v.req.queue = s.req.queue
      ∧ (passBarred s → u.req = v.req ∧ u.notices.log = v.notices.log ∧ u.pool = v.pool)
      ∧ (∀ age, age ≠ r.age → (∀ h ∈ s.req.line, h.age ≠ age) → findAge v age = findAge s age)
      ∧ (r.withdrawn = false →
          q.partsFinished ≠ q.partsUsed ∨ r.cancelPending ≠ .none ∨ r.withdrawalPending ≠ none →
          findAge v r.age = some q ∧ v.req.line = s.req.line ∧ v.notices.log = s.notices.log)
      ∧ (r.withdrawn = false → q.partsFinished = q.partsUsed → r.cancelPending = .none →
          r.withdrawalPending = none → r.state ≠ .reporting → (line.map fun h => h.age).Nodup →
          (writingFor s r.age = false → ∀ page ∈ r.pages.getD [], page ∈ v.pool.free)
          ∧ ∃ n, n ≤ line.length
            ∧ v.notices.log = s.notices.log ++ ((line.take n).map fun h => h.record) ∧ v.req.line = line.drop n
            ∧ (∀ h ∈ line.take n, findAge v h.age = none)
            ∧ (∀ h ∈ s.req.line.drop n, findAge v h.age = findAge s h.age)
            ∧ (n < line.length → findAge v r.age = some (q.reported (writingFor s r.age)))
            ∧ (∀ i, i < n → s.notices.log.length + i < 32)
            ∧ (∀ h ∈ s.req.line.take n, readyToOffer s h = true)
            ∧ (n = line.length → writingFor s r.age = false ∨ r.pages = none)
            ∧ (n < line.length → s.notices.log.length + n < 32 →
                (∀ h, s.req.line[n]? = some h → readyToOffer s h = false)
                  ∧ (n = s.req.line.length → writingFor s r.age = true ∧ r.pages ≠ none)))
      ∧ (r.withdrawn = true → isAdmitting s r.age = false →
          (∀ m n, m ≠ l → laneAt s m = some n → n.tag ≠ ln.tag) →
          findAge v r.age = none ∧ v.req.line = s.req.line ∧ v.notices.log = s.notices.log
            ∧ ∀ page ∈ r.pages.getD [], page ∈ v.pool.free)
      ∧ (r.withdrawn = true →
          (isAdmitting s r.age = true ∨ ∃ m n, m ≠ l ∧ laneAt s m = some n ∧ n.tag = ln.tag) →
          findAge v r.age = some q ∧ v.req.line = s.req.line ∧ v.notices.log = s.notices.log) := by
  have tag : ln.tag = r.tag := Eq.symm (by simpa using List.find?_some told)
  obtain ⟨age, tag', pages, withdrawn, state, used, pendingCancel, pendingWithdrawal⟩ :=
    r.behindWalk_keeps (ln := ln) (kind := kind)
  have part := findAge_partTold (l := l) (ln := ln) (kind := kind) found
  have stays : judgeFinish r.age (partTold l ln kind r s) = partTold l ln kind r s →
      findAge (judgeFinish r.age (partTold l ln kind r s)) r.age = some q
        ∧ (judgeFinish r.age (partTold l ln kind r s)).req.line = s.req.line
        ∧ (judgeFinish r.age (partTold l ln kind r s)).notices.log = s.notices.log := by
    intro same
    rw [same, behind]
    exact ⟨part, by simp [partTold_keeps], by simp [partTold_keeps]⟩
  have req : (judgeJobs (wantPass (judgeFinish r.age (partTold l ln kind r s)))).req
      = (judgeFinish r.age (partTold l ln kind r s)).req := by simp
  have look : ∀ a, findAge (judgeJobs (wantPass (judgeFinish r.age (partTold l ln kind r s)))) a
      = findAge (judgeFinish r.age (partTold l ln kind r s)) a := findAge_congr (congrArg Requests.table req)
  refine ⟨judgeJobs (wantPass (judgeFinish r.age (partTold l ln kind r s))), _, exec_retirementWalkEnd lane retiring,
    by rw [endRetirement_eq told], by simp [wantPass], by simp [partTold], by simp [partTold_keeps], ?_, ?_, ?_, ?_, ?_, ?_⟩
  · intro barred
    rw [endRetirement_eq told]
    exact finish_of_barred s
      (passBarred_congr (by simp [partTold]) (by simp [partTold]) (by simp [partTold]) (by simp [partTold])
        (by simp [partTold]) barred)
  · intro a other notInLine
    rw [look, findAge_judgeFinish_of_ne _ other (by simpa [partTold_keeps] using notInLine), findAge_partTold_of_ne other]
  · intro live waits
    simp only [look, judgeJobs_keeps, wantPass_keeps]
    exact stays (judgeFinish_stays part (withdrawn.trans live) (by rw [← behind]; rwa [← pendingCancel, ← pendingWithdrawal, ← behind] at waits))
  · intro live parts cancel withdrawal first distinct
    simp only [look, judgeJobs_keeps, wantPass_keeps]
    obtain ⟨back, n, offers⟩ := lastPart_offers (l := l) found behind placed live parts cancel withdrawal first distinct
    have own : q.age = r.age := behind ▸ age
    have told' : findAge (partTold l ln kind r s) q.age = some q := by rw [own, behind]; exact part
    have writing : writingFor (partTold l ln kind r s) q.age = writingFor s r.age := by
      rw [own]; exact writingFor_congr (by simp [partTold_keeps]) _
    have reported : findAge (linedUp q (partTold l ln kind r s)) r.age = some (q.reported (writingFor s r.age)) := by
      rw [findAge_linedUp told', if_pos own.symm, writing]
    have others : ∀ a, a ≠ r.age → findAge (linedUp q (partTold l ln kind r s)) a = findAge s a := fun a other => by
      rw [findAge_linedUp told', if_neg (by rwa [own]), findAge_partTold_of_ne other]
    obtain ⟨log, line', gone, kept, last, room, ready, all, waits⟩ := offers.behindLine placed
      (by rw [linedUp_log]; simp [partTold_keeps]) reported others distinct
    have qPages : q.pages = r.pages := behind ▸ pages
    refine ⟨back, n, offers.bound, log, line', gone, kept, last, room, ready, fun whole => ?_, fun before free => ?_⟩
    · have none := all whole
      cases idle : writingFor s r.age <;> simp_all [Request.reported]
    · obtain ⟨notReady, ownWaits⟩ := waits before free
      refine ⟨notReady, fun here => ?_⟩
      have held := ownWaits here
      cases idle : writingFor s r.age <;> simp_all [Request.reported]
  · intro gone noEntry noLane
    simp only [look, judgeJobs_keeps, wantPass_keeps]
    exact lastLane_leaves lane retiring found tag gone noEntry noLane
  · intro gone tied
    simp only [look, judgeJobs_keeps, wantPass_keeps]
    refine stays (judgeFinish_withdrawn_stays part (withdrawn.trans gone) ?_)
    rwa [age, tag', isAdmitting_partTold, anyLane_partTold lane retiring tag]

/-- Settles O40: the pixels and the lane by `retirementWalkEnd_writes`, the request by `retirementWalkEnd_tells`; the rest says
how a record, an outcome and a target are made. -/
theorem retirementWritesTheLanesPixels : Obligations.RetirementWritesTheLanesPixels := by
  refine ⟨fun s l ln kind done lane retiring law _ => retirementWalkEnd_writes lane retiring law,
    fun s ln x y q => completeRecord_clears s x y q, fun s ln x y q => completeRecord_drives s x y q,
    Library.imbalance_eq, ?_, fun _ _ _ _ _ _ => rfl, fun _ _ _ _ _ _ => rfl, ⟨rfl, fun _ => rfl, rfl, rfl, rfl, rfl⟩,
    fun _ => rfl, ?_⟩
  · intro r done n x y
    rw [Rect.reaches_iff, Rect.contains_iff]
    simp only [Rect.indexOf, and_assoc]
  · intro s l ln kind done r q line lane retiring told found behind placed
    have behind' : q = r.behindWalk ln kind := by rw [behind]; cases kind <;> rfl
    obtain ⟨v, u, next, finished, wanted, walk, queue, barred, others, stays, enters, leaves, tied⟩ :=
      retirementWalkEnd_tells lane retiring told found behind' placed
    exact ⟨v, u, next, finished, wanted, walk, queue, barred, others, stays, enters, leaves, tied⟩

end Sys2Proof.Machine
end

section
/-!
PROOF. The frame memory's arbiter (chapter 10): decisions, refresh, clients that become ready, and the grant an operation's end
waits for.
-/

namespace Sys2Proof.Machine

open Sys2Proof.Safety

/-! ### The grant decision (R151, R152, R154) -/

/-- The turns of the lanes, with lane numbers counted modulo 16 (R152). -/
theorem precedence_eq (last : LaneId) : precedence last =
    .scanner :: (List.range 16).map (fun i => .retirement (Fin.ofNat 16 (last.val + 1 + i)))
      ++ [.admission, .initialisation, .inflow, .copier, .library] := by
  simp only [precedence, turnsAfter, List.map_map]
  rfl

/-- While the calibration or a grant is in progress none is decided. -/
theorem decideGrant_busy {m : FrameMemory} (busy : m.calibrating = true ∨ m.granted ≠ none) : decideGrant m = m := by
  rw [decideGrant, if_pos]
  rcases busy with calibrating | granted
  · simp [calibrating]
  · simp [Option.isSome_iff_ne_none.mpr granted]

/-- With nobody waiting and no refresh owed none is decided. -/
theorem decideGrant_nobody {m : FrameMemory} (even : m.debt = 0) (nobody : m.waiting = []) : decideGrant m = m := by
  have nothing : (precedence m.lastLane).find? (fun r => m.waiting.contains r) = none := by simp [nobody]
  simp only [decideGrant, even, nothing, Nat.lt_irrefl, if_false, ite_self]

/-- The waiting client is granted before which nobody waits (R151). -/
theorem decideGrant_first {m : FrameMemory} {who : Requester} {first rest : List Requester} (ready : m.calibrating = false)
    (idle : m.granted = none) (even : m.debt = 0) (order : precedence m.lastLane = first ++ who :: rest)
    (absent : ∀ q ∈ first, q ∉ m.waiting) (waits : who ∈ m.waiting) : decideGrant m = grantBurst who m := by
  have found : (precedence m.lastLane).find? (fun r => m.waiting.contains r) = some who :=
    List.find?_eq_some_iff_append.mpr ⟨by simpa using waits, first, rest, order, fun q mem => by simpa using absent q mem⟩
  unfold decideGrant
  rw [found]
  simp [ready, idle, even]

/-- A grant to a client, its turn told as the obligation tells it. -/
theorem grantBurst_eq (who : Requester) (m : FrameMemory) : grantBurst who m = { m with
    granted := some (.burst who true)
    waiting := m.waiting.filter fun q => q ≠ who
    lastLane := match who with | .retirement l => l | _ => m.lastLane } := by
  cases who <;> rfl

/-- A decision grants nobody but a client that waits. -/
theorem decideGrant_granted {m : FrameMemory} {who : Requester} (idle : m.granted ≠ some (.burst who true))
    (waits : who ∉ m.waiting) : (decideGrant m).granted ≠ some (.burst who true) ∧ who ∉ (decideGrant m).waiting := by
  unfold decideGrant
  split
  · exact ⟨idle, waits⟩
  · split
    · exact ⟨by simp, waits⟩
    · split
      · rename_i r found
        have mem : r ∈ m.waiting := by simpa using List.find?_some found
        refine ⟨fun same => ?_, fun still => waits (List.mem_of_mem_filter still)⟩
        have own : r = who := by simpa [grantBurst] using same
        exact waits (own ▸ mem)
      · exact ⟨idle, waits⟩

/-! ### Events of the frame memory at rest (R154, R155) -/

/-- Where nothing but the frame memory has changed since a state at rest, the event ends with a grant decision. -/
theorem finish_mem_of_settled {s : State} (rest : settled s) (m : FrameMemory) :
    (finish s { s with mem := m }).mem = decideGrant m := by
  obtain ⟨noPass, noPower, -, -⟩ := rest
  have same : held { s with mem := m } = held s := held_congr rfl rfl rfl rfl rfl
  rw [finish_without_pass (s := { s with mem := m }) (by rw [same]; exact noPass) same,
    syncPower_stays (t := { s with mem := m }) noPower rfl rfl rfl rfl]
  simp [arbitrate]

theorem requestRefresh_idle {m : FrameMemory} (ready : m.calibrating = false) (idle : m.granted = none) :
    requestRefresh m = { m with granted := some .refresh, refreshTimer := 3900 } := by
  simp [requestRefresh, ready, idle, Config.refreshPeriodNs]

theorem requestRefresh_busy {m : FrameMemory} (busy : m.calibrating = true ∨ m.granted ≠ none) :
    requestRefresh m = { m with debt := min 8 (m.debt + 1), refreshTimer := 3900 } := by
  have either : (m.calibrating || m.granted.isSome) = true := by
    rcases busy with calibrating | granted
    · simp [calibrating]
    · simp [Option.isSome_iff_ne_none.mpr granted]
  simp only [requestRefresh, either, if_true, Config.maxDebt, Config.refreshPeriodNs]

theorem becomeReady_nil (s : State) : becomeReady [] s = s := rfl

/-- Refresh requests and the ends of refresh and calibration, at rest (R154, R155). -/
theorem refresh_atRest {s : State} (rest : settled s) :
    (s.mem.calibrating = false → s.mem.granted = none →
        ∃ u, exec (.refreshRequest []) s = .next u
          ∧ u.mem = { s.mem with granted := some .refresh, refreshTimer := 3900 })
      ∧ (s.mem.calibrating = true ∨ s.mem.granted ≠ none →
          ∃ u, exec (.refreshRequest []) s = .next u
            ∧ u.mem = { s.mem with debt := min 8 (s.mem.debt + 1), refreshTimer := 3900 })
      ∧ (s.mem.granted = some .refresh →
          ∃ u, exec (.refreshEnd []) s = .next u ∧ u.mem = decideGrant { s.mem with granted := none })
      ∧ (s.mem.calibrating = true →
          ∃ u, exec .calibrationEnd s = .next u ∧ u.mem = decideGrant { s.mem with calibrating := false }) := by
  refine ⟨fun ready idle => ⟨_, rfl, ?_⟩, fun busy => ⟨_, rfl, ?_⟩, fun refresh => ?_, fun calibrating => ?_⟩
  · rw [becomeReady_nil, finish_mem_of_settled rest, requestRefresh_idle ready idle]
    exact decideGrant_busy (.inr (by simp))
  · rw [becomeReady_nil, finish_mem_of_settled rest, requestRefresh_busy busy]
    exact decideGrant_busy busy
  · refine ⟨finish s (endGrant s), ?_, finish_mem_of_settled rest _⟩
    simp only [exec, execRefreshEnd, becomeReady_nil, refresh]
  · refine ⟨_, ?_, finish_mem_of_settled rest { s.mem with calibrating := false }⟩
    simp only [exec, execCalibrationEnd, calibrating, if_true]

/-! ### Clients that become ready (R151) -/

/-- What is left to a client's operation is not read off the arbiter's record. -/
theorem restOf_withMem (s : State) (m : FrameMemory) (q : Requester) : restOf { s with mem := m } q = restOf s q := by
  cases q <;> rfl

/-- The arbiter's record once a client has begun to wait. -/
def FrameMemory.awaitedBy (m : FrameMemory) (who : Requester) : FrameMemory :=
  { m with waiting := if m.waiting.contains who then m.waiting else m.waiting ++ [who] }

theorem beginWait_eq (who : Requester) (s : State) : beginWait who s = { s with mem := s.mem.awaitedBy who } := by
  unfold beginWait FrameMemory.awaitedBy
  split <;> rfl

/-- Whoever waited still waits, and the client that begins does. -/
theorem FrameMemory.mem_awaitedBy (m : FrameMemory) (who q : Requester) :
    q ∈ (m.awaitedBy who).waiting ↔ q ∈ m.waiting ∨ q = who := by
  unfold FrameMemory.awaitedBy
  split
  · rename_i there
    exact ⟨.inl, fun h => h.elim id fun same => same ▸ by simpa using there⟩
  · simp

/-- One client becomes ready. -/
theorem becomeReady_cons (who : Requester) (ready : List Requester) (s : State) :
    becomeReady (who :: ready) s =
      becomeReady ready (if 0 < restOf s who then { s with mem := decideGrant (s.mem.awaitedBy who) } else s) := by
  rw [becomeReady, List.foldl_cons, beginWait_eq]
  rfl

/-- With the memory busy, clients that become ready wait (R151). -/
theorem becomeReady_busy (ready : List Requester) {s : State} (busy : s.mem.calibrating = true ∨ s.mem.granted ≠ none) :
    (becomeReady ready s).mem.granted = s.mem.granted ∧ (becomeReady ready s).mem.lastLane = s.mem.lastLane
      ∧ ∀ q, q ∈ (becomeReady ready s).mem.waiting ↔ q ∈ s.mem.waiting ∨ q ∈ ready ∧ 0 < restOf s q := by
  induction ready generalizing s with
  | nil => exact ⟨rfl, rfl, fun q => by simp [becomeReady_nil]⟩
  | cons who ready ih =>
    rw [becomeReady_cons]
    split
    · rename_i left
      rw [decideGrant_busy (m := s.mem.awaitedBy who) busy]
      obtain ⟨granted, turn, waiting⟩ := ih (s := { s with mem := s.mem.awaitedBy who }) busy
      refine ⟨granted, turn, fun q => ?_⟩
      rw [waiting, restOf_withMem, FrameMemory.mem_awaitedBy, List.mem_cons]
      constructor
      · rintro ((waits | rfl) | ⟨mem, more⟩)
        · exact .inl waits
        · exact .inr ⟨.inl rfl, left⟩
        · exact .inr ⟨.inr mem, more⟩
      · rintro (waits | ⟨rfl | mem, more⟩)
        · exact .inl (.inl waits)
        · exact .inl (.inr rfl)
        · exact .inr ⟨mem, more⟩
    · rename_i done
      obtain ⟨granted, turn, waiting⟩ := ih busy
      refine ⟨granted, turn, fun q => ?_⟩
      rw [waiting, List.mem_cons]
      refine or_congr_right (and_congr_left fun more => ⟨.inr, fun h => h.resolve_left ?_⟩)
      rintro rfl
      exact done more

/-- Clients without a unit left are passed over. -/
theorem becomeReady_passesOver (first ready : List Requester) {s : State} (none : ∀ q ∈ first, restOf s q = 0) :
    becomeReady (first ++ ready) s = becomeReady ready s := by
  induction first with
  | nil => rfl
  | cons q first ih =>
    rw [List.cons_append, becomeReady_cons, if_neg (by simp [none q])]
    exact ih fun p mem => none p (List.mem_cons_of_mem _ mem)

/-- Of clients that become ready while the memory is idle, the first is granted and the others wait (R151). -/
theorem becomeReady_idle {first rest : List Requester} {who : Requester} {s : State}
    (none : ∀ q ∈ first, restOf s q = 0) (left : 0 < restOf s who) (calm : s.mem.calibrating = false)
    (idle : s.mem.granted = .none) (even : s.mem.debt = 0) (nobody : s.mem.waiting = []) :
    (becomeReady (first ++ who :: rest) s).mem.granted = some (.burst who true)
      ∧ (becomeReady (first ++ who :: rest) s).mem.lastLane
          = (match (generalizing := false) who with | .retirement l => l | _ => s.mem.lastLane)
      ∧ ∀ q, q ∈ (becomeReady (first ++ who :: rest) s).mem.waiting ↔ q ∈ rest ∧ 0 < restOf s q := by
  have alone : (s.mem.awaitedBy who).waiting = [who] := by simp [FrameMemory.awaitedBy, nobody]
  obtain ⟨before, r, after, -, -, waits, decision⟩ :=
    decideGrant_client (m := s.mem.awaitedBy who) (who := who) calm idle even (by simp [alone])
  obtain rfl : r = who := by simpa [alone] using waits
  rw [becomeReady_passesOver first _ none, becomeReady_cons, if_pos left, decision]
  obtain ⟨granted, turn, waiting⟩ :=
    becomeReady_busy rest (s := { s with mem := grantBurst r (s.mem.awaitedBy r) }) (.inr (by simp [grantBurst]))
  refine ⟨granted, turn.trans (by rw [grantBurst_eq]; rfl), fun q => ?_⟩
  rw [waiting, restOf_withMem, grantBurst_eq]
  simp [alone]

/-- The end of an event does not see whether clients became ready at it. -/
theorem finish_becomeReady (ready : List Requester) (s t : State) : finish (becomeReady ready s) t = finish s t := by
  have same : held (becomeReady ready s) = held s := held_congr (by simp) (by simp) (by simp) (by simp) (by simp)
  simp only [finish, noteHolds, same]

/-- An event of the frame memory at which clients become ready is the event behind their becoming ready. -/
theorem exec_ready (s : State) (ready : List Requester) (units : Nat) :
    exec (.refreshRequest ready) s = exec (.refreshRequest []) (becomeReady ready s)
      ∧ exec (.refreshEnd ready) s = exec (.refreshEnd []) (becomeReady ready s)
      ∧ exec (.burstEnd units ready) s = exec (.burstEnd units []) (becomeReady ready s) := by
  simp only [exec, execRefreshRequest, execRefreshEnd, execBurstEnd, becomeReady_nil, finish_becomeReady, and_self]

/-! ### What is left to an operation -/

/-- The units left to the library's operation (R29 to R32). -/
theorem library_toTransfer (lib : Library) :
    (∀ c, lib.write = some c → lib.toTransfer = min (lib.expected - c.offset) c.bytes.length - lib.moved)
      ∧ (lib.write = none → lib.commit = .walking → lib.toTransfer = lib.commitReads - lib.moved)
      ∧ (lib.write = none → lib.commit ≠ .walking → lib.toTransfer = 0) := by
  refine ⟨fun c write => ?_, fun write walking => ?_, fun write other => ?_⟩
  · simp only [Library.toTransfer, Library.transferSize, write, Library.storedBytes, List.length_take]
  · simp only [Library.toTransfer, Library.transferSize, write, walking]
  · cases commit : lib.commit
    all_goals simp_all [Library.toTransfer, Library.transferSize]

/-! ### The grant an operation's end waits for (R151, R152, R154) -/

/-- With units left the last bursts write the frame memory alone. -/
theorem lastBursts_mem (who : Requester) (s : State) : lastBursts who s = { s with mem := (lastBursts who s).mem } := by
  unfold lastBursts
  (repeat' split) <;> rfl

/-- Where nothing is left there is nothing to wait for. -/
theorem lastBursts_of_done {who : Requester} {s : State} (done : restOf s who = 0) : lastBursts who s = s :=
  if_pos (.inl done)

/-- The grant at an operation's last burst, in the obligation's words. -/
theorem lastBursts_order {who : Requester} {s : State} (calm : s.mem.calibrating = false) (left : 0 < restOf s who)
    (waits : s.mem.granted ≠ some (.burst who true) ∨ burstUnits who < restOf s who) :
    (lastBursts who s).mem.debt = 0
      ∧ ∃ m first rest, (lastBursts who s).mem = decideGrant m
        ∧ m.calibrating = false ∧ m.granted = none ∧ m.debt = 0 ∧ who ∈ m.waiting
        ∧ precedence m.lastLane = first ++ who :: rest ∧ (∀ q ∈ first, q ∉ m.waiting)
        ∧ (∀ q ∈ m.waiting, q = who ∨ q ∈ s.mem.waiting)
        ∧ ∀ q ∈ s.mem.waiting, q ≠ who → q ∉ m.waiting →
            ∃ last before after, precedence last = before ++ who :: after ∧ q ∈ before := by
  obtain ⟨even, m, decision, calm', idle, paid, mem, ⟨first, rest, order, absent⟩, others⟩ :=
    (lastBursts_grants who s calm left).2 waits
  exact ⟨even, m, first, rest, decision, calm', idle, paid, mem, order, absent, fun q => (others q).1,
    fun q => (others q).2⟩

end Sys2Proof.Machine
end

section
/-!
PROOF. What the bursts of the frame memory's clients move (chapter 10), and the rows for the ends of operations.
-/

namespace Sys2Proof.Machine

open Sys2Proof.Safety

/-! ### A snapshot's burst (R121) -/

/-- A level is read off Pixel Store and job. -/
theorem snapshotLevel_congr {s t : State} (px : t.px = s.px) (j : Job) (i : Nat) : snapshotLevel t j i = snapshotLevel s j i := by
  simp only [snapshotLevel, pixelAt, panelWidth, px]

/-- One pixel of a snapshot: the left one of a byte is kept … -/
theorem copyPixels_left (j : Job) (n i : Nat) (s : State) :
    copyPixels j (n + 1) i none s = copyPixels j n (i + 1) (some (snapshotLevel s j i)) s := rfl

/-- … and the right one is written with it. -/
theorem copyPixels_right (j : Job) (n i : Nat) (left : Level) (s : State) :
    copyPixels j (n + 1) i (some left) s =
      copyPixels j n (i + 1) none (writeImage j.pages (i / 2) (packLevels left (snapshotLevel s j i)) s) := rfl

/-- The half kept is that of a byte begun and not written. -/
theorem copyPixels_half (j : Job) (n i : Nat) (half : Option Level) (s : State) (begun : half.isSome = true ↔ i % 2 = 1) :
    (copyPixels j n i half s).1 =
      if (i + n) % 2 = 0 then none else if n = 0 then half else some (snapshotLevel s j (i + n - 1)) := by
  induction n generalizing i half s with
  | zero =>
    cases half with
    | none => simp [copyPixels]
    | some left => simp_all [copyPixels]
  | succ n ih =>
    have sum : i + 1 + n = i + (n + 1) := by omega
    cases half with
    | none =>
      have even : i % 2 = 0 := by simpa using begun
      rw [copyPixels_left, ih _ _ _ (by simp; omega), sum]
      by_cases last : n = 0
      · subst last; simp
      · simp [last]
    | some left =>
      have odd : i % 2 = 1 := by simpa using begun
      rw [copyPixels_right, ih _ _ _ (by simp; omega), sum]
      by_cases last : n = 0
      · subst last
        have whole : (i + 1) % 2 = 0 := by omega
        simp [whole]
      · simp [last, snapshotLevel_congr (writeImage_keeps _ _ _ _).2.1]

/-- A snapshot leaves every address where none of the bytes it writes lies. -/
theorem copyPixels_other (j : Job) (n i : Nat) (half : Option Level) (s : State) (begun : half.isSome = true ↔ i % 2 = 1)
    {a : Nat} (off : ∀ b, i ≤ 2 * b + 1 → 2 * b + 1 < i + n → imageAddress j.pages b ≠ some a) :
    stagingByte (copyPixels j n i half s).2 a = stagingByte s a := by
  induction n generalizing i half s with
  | zero => rfl
  | succ n ih =>
    cases half with
    | none =>
      have even : i % 2 = 0 := by simpa using begun
      exact ih (i + 1) _ s (by simp; omega) fun b low high => off b (by omega) (by omega)
    | some left =>
      have odd : i % 2 = 1 := by simpa using begun
      rw [copyPixels_right, ih (i + 1) none _ (by simp; omega) fun b low high => off b (by omega) (by omega),
        stagingByte_writeImage, if_neg (off (i / 2) (by omega) (by omega))]

/-- A snapshot writes each byte whose right pixel it copies: left half and right half, as copied. -/
theorem copyPixels_writes {j : Job} (distinct : j.pages.Nodup) (n i : Nat) (half : Option Level) (s : State)
    (begun : half.isSome = true ↔ i % 2 = 1) {b a : Nat} {left : Level} (low : i ≤ 2 * b + 1) (high : 2 * b + 1 < i + n)
    (place : imageAddress j.pages b = some a)
    (kept : if i = 2 * b + 1 then half = some left else left = snapshotLevel s j (2 * b)) :
    stagingByte (copyPixels j n i half s).2 a = packLevels left (snapshotLevel s j (2 * b + 1)) := by
  induction n generalizing i half s with
  | zero => omega
  | succ n ih =>
    cases half with
    | none =>
      have even : i % 2 = 0 := by simpa using begun
      rw [copyPixels_left]
      rw [if_neg (by omega)] at kept
      refine ih (i + 1) _ s (by simp; omega) (by omega) (by omega) ?_
      split
      · have here : i = 2 * b := by omega
        rw [kept, here]
      · exact kept
    | some own =>
      have odd : i % 2 = 1 := by simpa using begun
      have same : ∀ k, snapshotLevel (writeImage j.pages (i / 2) (packLevels own (snapshotLevel s j i)) s) j k
          = snapshotLevel s j k := snapshotLevel_congr (writeImage_keeps _ _ _ _).2.1 j
      rw [copyPixels_right]
      by_cases here : i = 2 * b + 1
      · rw [if_pos here, Option.some.injEq] at kept
        have byte : i / 2 = b := by omega
        rw [copyPixels_other j n (i + 1) none _ (by simp; omega), stagingByte_writeImage, byte, if_pos place, kept, here]
        intro c lowC highC other
        have := imageAddress_inj distinct place other
        omega
      · rw [if_neg here] at kept
        rw [← same (2 * b + 1)]
        refine ih (i + 1) none _ (by simp; omega) (by omega) (by omega) ?_
        rw [if_neg (by omega), same]
        exact kept

/-- A burst of the copier (R121). -/
theorem advanceCopy_writes {s : State} {j : Job} {done : Nat} {half : Option Level} (k : Nat)
    (current : currentJob s = some (j, done, half)) (begun : half.isSome = true ↔ done % 2 = 1) {n : Nat}
    (count : n = min k (j.rect.area - done)) :
    (advanceCopy k s).copier = { s.copier with
        jobs := s.copier.jobs.map fun k =>
          if k.age = j.age then
            { k with state := .running (done + n) (if (done + n) % 2 = 0 then none
                else if n = 0 then half else some (snapshotLevel s j (done + n - 1))) }
          else k }
      ∧ (j.pages.Nodup → ∀ b a left, done ≤ 2 * b + 1 → 2 * b + 1 < done + n → imageAddress j.pages b = some a →
          (if done = 2 * b + 1 then half = some left else left = snapshotLevel s j (2 * b)) →
          stagingByte (advanceCopy k s) a = packLevels left (snapshotLevel s j (2 * b + 1)))
      ∧ ∀ a, (∀ b, done ≤ 2 * b + 1 → 2 * b + 1 < done + n → imageAddress j.pages b ≠ some a) →
          stagingByte (advanceCopy k s) a = stagingByte s a := by
  subst count
  have bytes : ∀ a, stagingByte (advanceCopy k s) a
      = stagingByte (copyPixels j (min k (j.rect.area - done)) done half s).2 a :=
    stagingByte_congr (by simp only [advanceCopy, current]) (by simp only [advanceCopy, current])
  refine ⟨?_, fun distinct b a left low high place kept => ?_, fun a off => ?_⟩
  · simp only [advanceCopy, current, copyPixels_keeps, copyPixels_half _ _ _ _ _ begun]
  · rw [bytes, copyPixels_writes distinct _ _ _ _ begun low high place kept]
  · rw [bytes, copyPixels_other _ _ _ _ _ begun off]

/-! ### A chunk write's burst (R68) -/

theorem writtenBytes_length (r : Request) (c : Chunk) : (writtenBytes r c).length = c.data.length := by
  unfold writtenBytes
  split <;> simp

/-- A burst of the inflow writer (R68). -/
theorem advanceChunk_writes {s : State} {done : Nat} {c : Chunk} {later : List Chunk} {r : Request} {pages : List Nat}
    (n : Nat) (writing : s.inflow.writing = some done) (buffer : s.inflow.buffer = c :: later)
    (found : findAge s c.age = some r) (holds : r.pages = some pages) :
    (advanceChunk n s).inflow = { s.inflow with writing := some (min c.data.length (done + n)) }
      ∧ (pages.Nodup → ∀ i a b, done ≤ i → i < done + n → (writtenBytes r c)[i]? = some b →
          imageAddress pages (c.firstRow * (r.rect.width / 2) + i) = some a → stagingByte (advanceChunk n s) a = b)
      ∧ ∀ a, (∀ i, done ≤ i → i < done + n → i < c.data.length →
          imageAddress pages (c.firstRow * (r.rect.width / 2) + i) ≠ some a) →
          stagingByte (advanceChunk n s) a = stagingByte s a := by
  have meaning : advanceChunk n s =
      writeImageBytes pages (c.firstRow * (r.rect.width / 2) + done) (((writtenBytes r c).drop done).take n)
        { s with inflow := { s.inflow with writing := some (min c.data.length (done + n)) } } := by
    simp only [advanceChunk, writing, buffer]
    rw [show findAge _ c.age = some r from found]
    simp only [holds, Option.getD_some]
  rw [meaning]
  refine ⟨by simp, fun distinct i a b low high value place => ?_, fun a off => ?_⟩
  · refine stagingByte_writeImageBytes distinct _ _ _ (i := i - done) ?_ ?_
    · rw [List.getElem?_take_of_lt (by omega), List.getElem?_drop, Nat.add_sub_cancel' low, value]
    · rw [Nat.add_assoc, Nat.add_sub_cancel' low, place]
  · rw [stagingByte_writeImageBytes_other _ _ _ _ fun i lt => ?_]
    · rfl
    · simp only [List.length_take, List.length_drop, writtenBytes_length] at lt
      rw [Nat.add_assoc]
      exact off (done + i) (by omega) (by omega) (by omega)

/-! ### Bursts of the scanner, an admission walk and the library (R30, R84, R104) -/

/-- A burst of the scanner begins at most one row (R104). -/
theorem advanceScan_row {s : State} {f : Frame} {codes : List DriveCode} (units : Nat) (scanning : s.scan.frame = some f)
    (row : codes = (List.range (panelWidth s)).map fun x => pixelCode s f.mark x f.nextRow) :
    (advanceScan (min units 1) s).scan =
      if 0 < units ∧ f.nextRow < panelHeight s then
        { s.scan with
          frame := some { f with nextRow := f.nextRow + 1 }, port := codes, output := s.scan.output ++ [codes] }
      else s.scan := by
  subst row
  by_cases moves : 0 < units ∧ f.nextRow < panelHeight s
  · have one : min (min units 1) (panelHeight s - f.nextRow) = 1 := by omega
    simp only [advanceScan, scanning, one, if_pos moves]
    rfl
  · have nothing : min (min units 1) (panelHeight s - f.nextRow) = 0 := by omega
    simp only [advanceScan, scanning, nothing, if_neg moves, if_true]

/-- A burst of an admission walk reads the pixels that follow (R84). -/
theorem advanceAdmission_reads {s : State} {w : AdmissionWalk} {r : Request} (n : Nat) (walk : s.adm.walk = some w)
    (found : findAge s w.age = some r) :
    (advanceAdmission n s).adm = { s.adm with walk := some { w with
      readings := w.readings
        ++ (List.range' w.readings.length (min n (r.rect.area - w.readings.length))).map (readPixel s w r) } } := by
  simp only [advanceAdmission, walk, found, advanceWalk]

/-- The initialisation walk goes forward by n records, or to its end (R9). -/
theorem advancePixelWalk_initialise {s : State} {done : Nat} (n : Nat) (walk : s.px.walk = some (.initialise done)) :
    (advancePixelWalk n s).px = { s.px with walk := some (.initialise (min (panelRecords s) (done + n))) } := by
  simp only [advancePixelWalk, walk]

/-! ### The end of a burst (R151) -/

/-- A retirement walk that goes forward keeps the kind of its walk, and with it the restart condition (R78). -/
theorem restartWalks_advanceRetire (l : LaneId) (n : Nat) (s : State) :
    restartWalks (advanceRetire l n s) = restartWalks s := by
  cases lane : laneAt s l with
  | none => simp only [advanceRetire, lane]
  | some ln =>
    cases retiring : ln.state with
    | armed | active => simp only [advanceRetire, lane, retiring]
    | retiring kind done =>
      unfold restartWalks
      congr 1
      funext m
      simp only [advanceRetire, lane, retiring, laneAt_setLane]
      by_cases here : m = l
      · subst here
        rw [if_pos rfl, lane]
        rcases kind with _ | _ | reason
        · simp [retiring, LaneState.restarted]
        · simp [retiring, LaneState.restarted]
        · cases reason <;> simp [retiring, LaneState.restarted]
      · rw [if_neg here]
        rfl

/-- A burst neither begins nor ends a hold (R78). -/
theorem held_serveBurst (who : Requester) (units : Nat) (s : State) : held (serveBurst who units s) = held s := by
  have walking : initialising (serveBurst who units s) = initialising s := by
    cases who with
    | initialisation =>
      simp only [initialising, serveBurst, advancePixelWalk]
      split
      · rfl
      · rename_i walk; simp [walk]
      · rename_i walk; simp [walk]
    | scanner | retirement l | admission | inflow | copier | library => simp [initialising, serveBurst]
  have restart : restartWalks (serveBurst who units s) = restartWalks s := by
    cases who with
    | retirement l => exact restartWalks_advanceRetire l _ s
    | scanner | initialisation | admission | inflow | copier | library => exact restartWalks_congr (by simp [serveBurst])
  have rails : (serveBurst who units s).rails = s.rails := by simp
  have temp : (serveBurst who units s).temp = s.temp := by simp
  have lib : (serveBurst who units s).lib.state = s.lib.state := by simp
  simp only [held, walking, restart, rails, temp, lib]

/-- The end of a live burst (R151). -/
theorem exec_burstEnd_live {s : State} {who : Requester} (units : Nat) (granted : s.mem.granted = some (.burst who true)) :
    exec (.burstEnd units []) s = .next (finish s (endGrant (finishBurst who units s))) := by
  simp only [exec, execBurstEnd, becomeReady_nil, granted, if_true]

/-- The end of a burst of an abandoned operation (R153). -/
theorem exec_burstEnd_abandoned {s : State} {who : Requester} (units : Nat)
    (granted : s.mem.granted = some (.burst who false)) :
    exec (.burstEnd units []) s = .next (finish s (endGrant s)) := by
  simp only [exec, execBurstEnd, becomeReady_nil, granted, Bool.false_eq_true, if_false]

/-- The end of a burst at rest starts no pass. -/
theorem finish_burst_of_settled {s : State} (rest : settled s) (who : Requester) (units : Nat) :
    finish s (endGrant (finishBurst who units s)) =
      syncAttn (arbitrate (syncPower (endGrant (finishBurst who units s)))) := by
  have same : held (endGrant (finishBurst who units s)) = held s := by
    rw [← held_serveBurst who units s]
    exact held_congr (by simp) (by simp) (by simp) (by simp) (by simp)
  refine finish_without_pass ?_ same
  rw [same]
  simpa using rest.1

/-- What a live burst has moved when it ends; at rest its client waits no longer with nothing left (R151). -/
theorem burstEnd_moves {s : State} {who : Requester} (units : Nat) (granted : s.mem.granted = some (.burst who true)) :
    ∃ u, exec (.burstEnd units []) s = .next u
      ∧ u.px = (serveBurst who units s).px ∧ u.pool.bytes = (serveBurst who units s).pool.bytes
      ∧ u.lanes = (serveBurst who units s).lanes ∧ u.inflow = (serveBurst who units s).inflow
      ∧ u.lib = (serveBurst who units s).lib
      ∧ u.scan.frame = (serveBurst who units s).scan.frame ∧ u.scan.port = (serveBurst who units s).scan.port
      ∧ u.scan.output = (serveBurst who units s).scan.output
      ∧ (settled s → u.adm = (serveBurst who units s).adm ∧ u.copier = (serveBurst who units s).copier
          ∧ (restOf (serveBurst who units s) who = 0 →
              who ∉ u.mem.waiting ∧ u.mem.granted ≠ some (.burst who true))) := by
  refine ⟨_, exec_burstEnd_live units granted, by simp, by simp, by simp, by simp, by simp, by simp, by simp, by simp, ?_⟩
  intro rest
  rw [finish_burst_of_settled rest]
  refine ⟨by simp, by simp, fun nothing => ?_⟩
  have ended : finishBurst who units s = clientDone who (serveBurst who units s) := if_pos nothing
  have waiting : who ∉ (endGrant (finishBurst who units s)).mem.waiting := by simp [ended, clientDone]
  have decided := decideGrant_granted (m := (syncPower (endGrant (finishBurst who units s))).mem) (who := who)
    (by simp [endGrant]) (by simpa using waiting)
  exact ⟨by simpa [arbitrate] using decided.2, by simpa [arbitrate] using decided.1⟩

/-- The end of an abandoned operation's burst moves nothing (R153). -/
theorem burstEnd_abandoned_moves {s : State} {who : Requester} (units : Nat)
    (granted : s.mem.granted = some (.burst who false)) :
    ∃ u, exec (.burstEnd units []) s = .next u
      ∧ u.px = s.px ∧ u.pool.bytes = s.pool.bytes ∧ u.lanes = s.lanes ∧ u.inflow = s.inflow ∧ u.lib = s.lib
      ∧ u.scan.frame = s.scan.frame ∧ u.scan.port = s.scan.port ∧ u.scan.output = s.scan.output := by
  refine ⟨_, exec_burstEnd_abandoned units granted, ?_⟩
  simp

/-- A burst of one client leaves what the others write. -/
theorem serveBurst_leaves (who : Requester) (units : Nat) (s : State) :
    (who ≠ .initialisation → (∀ l, who ≠ .retirement l) → (serveBurst who units s).px = s.px)
      ∧ ((∀ l, who ≠ .retirement l) → (serveBurst who units s).lanes = s.lanes)
      ∧ (who ≠ .inflow → who ≠ .copier → (serveBurst who units s).pool = s.pool)
      ∧ (who ≠ .inflow → (serveBurst who units s).inflow = s.inflow)
      ∧ (who ≠ .copier → (serveBurst who units s).copier = s.copier)
      ∧ (who ≠ .scanner → (serveBurst who units s).scan = s.scan)
      ∧ (who ≠ .admission → (serveBurst who units s).adm = s.adm)
      ∧ (who ≠ .library → (serveBurst who units s).lib = s.lib)
      ∧ (serveBurst who units s).req = s.req := by
  cases who <;> simp [serveBurst]

/-! ### The rows for the ends of operations -/

/-- Every operation's end comes behind its last bursts (R151). -/
theorem exec_operationEnds (s : State) :
    (∀ f, s.scan.frame = some f →
        exec .frameCompletion s = .next (finish s (completeFrame f (lastBursts .scanner s))))
      ∧ (∀ l ln kind done, laneAt s l = some ln → ln.state = .retiring kind done →
          exec (.retirementWalkEnd l) s = .next (finish s (endRetirement l ln kind (lastBursts (.retirement l) s))))
      ∧ (∀ w, s.adm.walk = some w →
          exec .admissionWalkEnd s = .next (finish s (endWalk w (lastBursts .admission s))))
      ∧ (∀ done, s.px.walk = some (.initialise done) →
          exec .initialisationWalkEnd s = .next (finish s (endPixelWalk (lastBursts .initialisation s))))
      ∧ (∀ r level done, s.px.walk = some (.assume r level done) →
          exec .assumeWalkEnd s
            = .next (finish s (endPixelWalk (advancePixelWalk r.area (lastBursts .initialisation s)))))
      ∧ (∀ done c later, s.inflow.writing = some done → s.inflow.buffer = c :: later →
          exec .inflowChunkWriteEnd s = .next (finish s (endChunkWrite c (lastBursts .inflow s))))
      ∧ (∀ j done half, currentJob s = some (j, done, half) →
          exec .copierJobEnd s = .next (finish s (endSnapshot j (lastBursts .copier s))))
      ∧ (∀ c, s.lib.write = some c →
          exec .libChunkWriteEnd s = .next (finish s (endLibWrite (lastBursts .library s))))
      ∧ (s.lib.commit = .walking →
          exec .commitWalkEnd s = .next (finish s (raise .libraryDone
            (setLibrary (committedLibrary s.lib) (clientDone .library (lastBursts .library s)))))) := by
  refine ⟨fun f frame => ?_, fun l ln kind done lane retiring => exec_retirementWalkEnd lane retiring, fun w walk => ?_,
    fun done walk => ?_, fun r level done walk => ?_, fun done c later writing buffer => ?_, fun j done half current => ?_,
    fun c write => ?_, fun walking => ?_⟩
  · simp only [exec, execFrameCompletion, frame]
  · simp only [exec, execAdmissionWalkEnd, walk]
  · simp only [exec, execInitialisationWalkEnd, walk]
  · simp only [exec, execAssumeWalkEnd, walk]
  · simp only [exec, execInflowChunkWriteEnd, writing, buffer]
  · simp only [exec, execCopierJobEnd, current]
  · simp only [exec, execLibChunkWriteEnd, write]
  · simp only [exec, execCommitWalkEnd, walking, if_true]

/-- What is left to each client's operation, and the units of a burst of each. -/
theorem restOf_table (s : State) (l : LaneId) :
    (restOf s .scanner = match s.scan.frame with | some f => panelHeight s - f.nextRow | none => 0)
      ∧ (laneAt s l = none → restOf s (.retirement l) = 0)
      ∧ (∀ ln, laneAt s l = some ln → restOf s (.retirement l) =
          match ln.state with | .retiring _ done => ln.rect.area - done | .armed | .active => 0)
      ∧ (s.adm.walk = none → restOf s .admission = 0)
      ∧ (∀ w r, s.adm.walk = some w → findAge s w.age = some r →
          restOf s .admission = r.rect.area - w.readings.length)
      ∧ (restOf s .initialisation = match s.px.walk with
          | some (.initialise done) => panelWidth s * panelHeight s - done
          | some (.assume r _ done) => r.area - done
          | none => 0)
      ∧ (s.inflow.writing = none ∨ s.inflow.buffer = [] → restOf s .inflow = 0)
      ∧ (∀ done c later, s.inflow.writing = some done → s.inflow.buffer = c :: later →
          restOf s .inflow = c.data.length - done)
      ∧ (currentJob s = none → restOf s .copier = 0)
      ∧ (∀ j done half, currentJob s = some (j, done, half) → restOf s .copier = j.rect.area - done)
      ∧ [.scanner, .retirement l, .admission, .initialisation, .inflow, .copier, .library].map burstUnits
          = [1, 23, 23, 23, 64, 128, 64] := by
  refine ⟨rfl, fun free => ?_, fun ln lane => ?_, fun walk => ?_, fun w r walk found => ?_, rfl, fun nothing => ?_,
    fun done c later writing buffer => ?_, fun current => ?_, fun j done half current => ?_, rfl⟩
  · simp only [restOf, free]
  · cases state : ln.state <;> simp only [restOf, lane, state]
  · simp only [restOf, walk]
  · simp only [restOf, walk, found]
  · rcases nothing with idle | empty
    · simp only [restOf, idle]
    · cases writing : s.inflow.writing <;> simp only [restOf, writing, empty]
  · simp only [restOf, writing, buffer]
  · simp only [restOf, current]
  · simp only [restOf, current]

/-- Settles O42: the arbiter's rules, the table of what is left, and client by client what a burst moves. -/
theorem frameMemoryServesInOrder : Obligations.FrameMemoryServesInOrder := by
  refine ⟨precedence_eq, fun m => ⟨decideGrant_busy, decideGrant_refresh, fun _ _ even nobody => decideGrant_nobody even nobody,
    fun first who rest ready idle even order absent waits =>
      (decideGrant_first ready idle even order absent waits).trans (grantBurst_eq who m)⟩,
    fun s rest => refresh_atRest rest,
    fun s first who rest none left calm idle even nobody => becomeReady_idle none left calm idle even nobody,
    fun s ready busy => ⟨(becomeReady_busy ready busy).1, (becomeReady_busy ready busy).2.2⟩, exec_ready, restOf_table,
    fun _ => rfl, fun s => ⟨(library_toTransfer s.lib).1, (library_toTransfer s.lib).2.1, (library_toTransfer s.lib).2.2,
      fun fault => if_pos fault⟩,
    fun s who calm => ⟨lastBursts_of_done, fun left => ⟨lastBursts_mem who s, (lastBursts_grants who s calm left).1,
      lastBursts_order calm left⟩⟩,
    exec_operationEnds, fun s units who => ?_⟩
  refine ⟨burstEnd_moves units, rfl, fun w r walk found => advanceAdmission_reads _ walk found,
    fun j done half n current begun count => advanceCopy_writes _ current begun count,
    fun done c later r pages writing buffer found holds => advanceChunk_writes _ writing buffer found holds,
    fun l ln kind done n lane retiring law fits count => ?_, fun r level done n walk fits count => ?_,
    fun done walk => advancePixelWalk_initialise _ walk, fun f codes scanning row => advanceScan_row units scanning row, ?_⟩
  · obtain ⟨lanes, pixels⟩ := advanceRetire_writes (min units 23) lane retiring ((pixelsWf_iff _).mp law.2).1
    subst count
    exact ⟨(lanes l).trans (if_pos rfl), fun m other => (lanes m).trans (if_neg other), by simp, pixels⟩
  · obtain ⟨walk', pixels⟩ := advancePixelWalk_assume (min units 23) walk fits
    subst count
    exact ⟨walk', by simp, pixels⟩
  · obtain ⟨px, lanes, pool, inflow, copier, scan, adm, lib, req⟩ := serveBurst_leaves who units s
    exact ⟨px, lanes, pool, inflow, copier, scan, adm, lib, req, burstEnd_abandoned_moves units⟩

end Sys2Proof.Machine
end

section
/-!
PROOF. The laws of `Obligations.EveryStepKeepsOwnersAndRequests` in the form in which every operation keeps them: `Holds`, of
which a state says no less than `ownershipLaw` but for the pass, and those of the other three laws that are asked for.
-/

namespace Sys2Proof.Machine

open Sys2Proof.Safety

/-- Which of the laws beside `ownershipLaw` are asked for: `writer` is the part of `rowsLaw` that says when the writer is idle,
and the law of starts is asked for with that of rows alone. -/
structure Asked where
  order : Prop
  rows : Prop
  writer : Prop
  start : Prop
  withRows : start → rows

/-- The admission queue, as `queueLaw` has it, where the entry of one age may be that of a withdrawn request though it is not
ADMITTING: so it is between a walk's result and what follows it. -/
def entriesLaw (spared : Option Nat) (s : State) : Prop :=
  (s.req.queue.Pairwise fun a b => a.age < b.age)
    ∧ ∀ e ∈ s.req.queue,
      (∃ r ∈ s.req.table, r.age = e.age ∧ r.state ≠ .reporting
          ∧ (r.withdrawn = true → e.admitting = true ∨ spared = some e.age))
        ∧ (e.admitting = true ↔ ∃ w, s.adm.walk = some w ∧ w.age = e.age)

/-- The walk in flight, as `walkLaw` has it but for the pass. -/
def readingsLaw (s : State) : Prop :=
  ∀ w, s.adm.walk = some w →
    (∃ e ∈ s.req.queue, e.age = w.age)
      ∧ ∀ r ∈ s.req.table, r.age = w.age →
        w.readings.length ≤ r.rect.area ∧ ∀ i x, w.readings[i]? = some x → readingLaw s r.rect i x

/-- Rows, as `rowsLaw` has them, where of the writer only what is asked for: between the end of a chunk write and the next chunk's
taking it is idle whether the buffer is empty or not. -/
def rowsKept (writer : Prop) (s : State) : Prop :=
  (writer → (s.inflow.writing.isSome = true ↔ s.inflow.buffer ≠ [])) ∧ (∀ c ∈ s.inflow.buffer, c.age < s.req.nextAge)
    ∧ ∀ r ∈ s.req.table, r.rowsWritten ≤ r.rect.height ∧ (r.tally.isSome = true ↔ r.source = .inflow ∧ r.withdrawn = false)
      ∧ ∀ t, r.tally = some t → t.rowsAccepted ≤ r.rect.height
        ∧ (r.state = .reporting → t.closed = true)
        ∧ (t.closed = false → t.rowsAccepted = r.rowsWritten + rowsBuffered s r.age)

theorem rowsKept_iff {writer : Prop} (asked : writer) (s : State) : rowsKept writer s ↔ rowsLaw s := by
  simp only [rowsKept, rowsLaw, asked, true_imp_iff]

/-- A pass is running exactly while a walk is in flight (R81). -/
def passLaw (s : State) : Prop := s.adm.passRunning = s.adm.walk.isSome

/-- The laws, as operations keep them. -/
structure Holds (k : Asked) (spared : Option Nat) (s : State) : Prop where
  stores : storeLaw s
  requests : requestLaw s
  entries : entriesLaw spared s
  lanes : laneLaw s
  parts : partsLaw s
  line : lineLaw s
  readings : readingsLaw s
  owner : ownerLaw s
  rects : rectLaw s
  order : k.order → orderLaw s
  rows : k.rows → rowsKept k.writer s
  start : k.start → startLaw s

/-- The queue has no more entries than the table has requests. -/
theorem queue_length_le {spared : Option Nat} {s : State} (entries : entriesLaw spared s) :
    s.req.queue.length ≤ s.req.table.length := by
  have distinct : (s.req.queue.map fun e => e.age).Nodup :=
    List.pairwise_map.mpr (entries.1.imp fun lt => Nat.ne_of_lt lt)
  have within : (s.req.queue.map fun e => e.age) ⊆ s.req.table.map fun r => r.age := by
    intro age mem
    obtain ⟨e, there, rfl⟩ := List.mem_map.mp mem
    obtain ⟨⟨r, live, same, -⟩, -⟩ := entries.2 e there
    exact List.mem_map.mpr ⟨r, live, same⟩
  simpa using (List.subperm_of_subset distinct within).length_le

/-- `ownershipLaw` is what holds with nothing else asked for and no entry spared, with the law of the pass. -/
theorem holds_iff (k : Asked) (s : State) : Holds k none s ∧ passLaw s ↔
    ownershipLaw s ∧ (k.order → orderLaw s) ∧ (k.rows → rowsKept k.writer s) ∧ (k.start → startLaw s) := by
  constructor
  · rintro ⟨h, pass⟩
    refine ⟨⟨h.stores, h.requests, ⟨h.entries.1, queue_length_le h.entries, fun e mem => ?_⟩, h.lanes, h.parts, h.line,
      ⟨pass, h.readings⟩, h.owner, h.rects⟩, h.order, h.rows, h.start⟩
    simpa using h.entries.2 e mem
  · rintro ⟨⟨stores, requests, ⟨ages, -, queue⟩, lanes, parts, line, ⟨pass, readings⟩, owner, rects⟩, order, rows, start⟩
    exact ⟨⟨stores, requests, ⟨ages, fun e mem => by simpa using queue e mem⟩, lanes, parts, line, readings, owner, rects,
      order, rows, start⟩, pass⟩

/-! ### Requests and entries by age and tag -/

section
variable {s : State} {q r : Request}

/-- Ages tell records apart. -/
theorem request_eq_of_age (law : requestLaw s) (hq : q ∈ s.req.table) (hr : r ∈ s.req.table) (same : q.age = r.age) :
    q = r :=
  List.inj_on_of_nodup_map (List.pairwise_map.mpr (law.1.imp fun lt => Nat.ne_of_lt lt)) hq hr same

/-- Tags tell records apart. -/
theorem request_eq_of_tag (law : requestLaw s) (hq : q ∈ s.req.table) (hr : r ∈ s.req.table) (same : q.tag = r.tag) :
    q = r :=
  List.inj_on_of_nodup_map (List.pairwise_map.mpr law.2.1) hq hr same

theorem findAge_of_mem (law : requestLaw s) (live : r ∈ s.req.table) : findAge s r.age = some r := by
  cases found : findAge s r.age with
  | none => exact absurd (List.find?_eq_none.mp found r live) (by simp)
  | some q => rw [request_eq_of_age law (mem_of_findAge found) live (age_of_findAge found)]

theorem mem_of_findTag {tag : Nat} (found : findTag s tag = some r) : r ∈ s.req.table ∧ r.tag = tag :=
  ⟨List.mem_of_find?_eq_some found, by simpa using List.find?_some found⟩

theorem findTag_of_mem (law : requestLaw s) (live : r ∈ s.req.table) : findTag s r.tag = some r := by
  cases found : findTag s r.tag with
  | none => exact absurd (List.find?_eq_none.mp found r live) (by simp)
  | some q => rw [request_eq_of_tag law (mem_of_findTag found).1 live (mem_of_findTag found).2]

theorem mem_of_entryOf {age : Nat} {e : QueueEntry} (found : entryOf s age = some e) : e ∈ s.req.queue ∧ e.age = age :=
  ⟨List.mem_of_find?_eq_some found, by simpa using List.find?_some found⟩

/-- Ages tell entries apart. -/
theorem entry_eq_of_age {spared : Option Nat} (law : entriesLaw spared s) {d e : QueueEntry} (hd : d ∈ s.req.queue)
    (he : e ∈ s.req.queue) (same : d.age = e.age) : d = e :=
  List.inj_on_of_nodup_map (List.pairwise_map.mpr (law.1.imp fun lt => Nat.ne_of_lt lt)) hd he same

/-- Whether a request's entry is ADMITTING, told by its entries. -/
theorem isAdmitting_iff {spared : Option Nat} (law : entriesLaw spared s) (age : Nat) :
    isAdmitting s age = true ↔ ∃ e ∈ s.req.queue, e.age = age ∧ e.admitting = true := by
  unfold isAdmitting
  split
  · rename_i e found
    obtain ⟨mem, own⟩ := mem_of_entryOf found
    refine ⟨fun marked => ⟨e, mem, own, marked⟩, fun ⟨d, there, same, marked⟩ => ?_⟩
    rwa [entry_eq_of_age law mem there (own.trans same.symm)]
  · rename_i absent
    refine ⟨fun no => absurd no (by simp), fun ⟨d, there, same, _⟩ => ?_⟩
    exact absurd (List.find?_eq_none.mp absent d there) (by simp [same])

end

/-! ### Operations that leave the books alone -/

/-- Requests, queue, line, lanes, walk, records and tile entries, buffer and writer are as they were; the order of ages goes on. -/
structure SameBooks (s u : State) : Prop where
  table : u.req.table = s.req.table
  queue : u.req.queue = s.req.queue
  line : u.req.line = s.req.line
  nextAge : s.req.nextAge ≤ u.req.nextAge
  lanes : u.lanes = s.lanes
  walk : u.adm.walk = s.adm.walk
  buffer : u.inflow.buffer = s.inflow.buffer
  writing : u.inflow.writing.isSome = s.inflow.writing.isSome
  geometry : u.px.geometry = s.px.geometry
  pixels : u.px.pixels = s.px.pixels
  tiles : u.px.tiles = s.px.tiles

/-- Staging bytes, overlay entries and the walk of the Pixel Store are as they were too. -/
structure Quiet (s u : State) : Prop extends SameBooks s u where
  bytes : u.pool.bytes = s.pool.bytes
  overlays : u.copier.overlays = s.copier.overlays
  pixelWalk : u.px.walk = s.px.walk

@[simp] theorem sameBooks_iff {s u : State} : SameBooks s u ↔ u.req.table = s.req.table ∧ u.req.queue = s.req.queue
    ∧ u.req.line = s.req.line ∧ s.req.nextAge ≤ u.req.nextAge ∧ u.lanes = s.lanes ∧ u.adm.walk = s.adm.walk
    ∧ u.inflow.buffer = s.inflow.buffer ∧ u.inflow.writing.isSome = s.inflow.writing.isSome
    ∧ u.px.geometry = s.px.geometry ∧ u.px.pixels = s.px.pixels ∧ u.px.tiles = s.px.tiles :=
  ⟨fun ⟨table, queue, line, nextAge, lanes, walk, buffer, writing, geometry, pixels, tiles⟩ =>
    ⟨table, queue, line, nextAge, lanes, walk, buffer, writing, geometry, pixels, tiles⟩,
    fun ⟨table, queue, line, nextAge, lanes, walk, buffer, writing, geometry, pixels, tiles⟩ =>
    ⟨table, queue, line, nextAge, lanes, walk, buffer, writing, geometry, pixels, tiles⟩⟩

section
variable {k : Asked} {spared : Option Nat} {s u : State}

theorem readingLaw_congr (geometry : u.px.geometry = s.px.geometry) (pixels : u.px.pixels = s.px.pixels) {rect : Rect}
    {i : Nat} {x : Reading} (law : readingLaw s rect i x) : readingLaw u rect i x := by
  simpa only [readingLaw, pixelAt, panelWidth, geometry, pixels] using law

theorem ownerLaw_congr (geometry : u.px.geometry = s.px.geometry) (pixels : u.px.pixels = s.px.pixels)
    (tiles : u.px.tiles = s.px.tiles) (lanes : ∀ l, laneAt u l = laneAt s l) (law : ownerLaw s) : ownerLaw u := by
  simpa only [ownerLaw, pixelAt, panelWidth, tileLanes, tileOf, tileColumns, geometry, pixels, tiles, lanes] using law

theorem laneOf_congr (lanes : ∀ l, laneAt u l = laneAt s l) (tag : Nat) (p : LaneState → Bool) :
    laneOf u tag p = laneOf s tag p := by
  funext l
  simp only [laneOf, lanes]

/-- What leaves the books alone keeps the laws, given those of stores and rectangles. -/
theorem Holds.same (h : Holds k spared s) (same : SameBooks s u) (stores : storeLaw u) (rects : rectLaw u) :
    Holds k spared u := by
  have lanes : ∀ l, laneAt u l = laneAt s l := laneAt_congr same.lanes
  refine ⟨stores, ⟨by rw [same.table]; exact h.requests.1, by rw [same.table]; exact h.requests.2.1, fun r live => ?_⟩, ?_, ?_,
    ?_, ?_, ?_, ownerLaw_congr same.geometry same.pixels same.tiles lanes h.owner, rects, fun asked => ?_, fun asked => ?_,
    fun asked => ?_⟩
  · rw [same.table] at live
    rw [same.geometry]
    obtain ⟨age, rest⟩ := h.requests.2.2 r live
    exact ⟨Nat.lt_of_lt_of_le age same.nextAge, rest⟩
  · simpa only [entriesLaw, same.table, same.queue, same.walk] using h.entries
  · simpa only [laneLaw, lanes, same.table] using h.lanes
  · simpa only [partsLaw, laneOf_congr lanes, same.table, same.queue] using h.parts
  · simpa only [lineLaw, same.table, same.line] using h.line
  · intro w walk
    rw [same.walk] at walk
    rw [same.queue, same.table]
    obtain ⟨entry, read⟩ := h.readings w walk
    refine ⟨entry, fun r live own => ⟨(read r live own).1, fun i x there => ?_⟩⟩
    exact readingLaw_congr same.geometry same.pixels ((read r live own).2 i x there)
  · simpa only [orderLaw, lanes, same.table, same.queue, same.walk] using h.order asked
  · obtain ⟨writer, chunks, rows⟩ := h.rows asked
    refine ⟨by rw [same.buffer, same.writing]; exact writer, fun c mem => ?_, ?_⟩
    · rw [same.buffer] at mem
      exact Nat.lt_of_lt_of_le (chunks c mem) same.nextAge
    · simpa only [same.table, rowsBuffered, same.buffer] using rows
  · simpa only [startLaw, allRowsWritten, lanes, same.table, same.walk] using h.start asked

theorem storeLaw_congr (pixels : u.px.pixels = s.px.pixels) (bytes : u.pool.bytes = s.pool.bytes) (law : storeLaw s) :
    storeLaw u := by
  simpa only [storeLaw, pixels, bytes] using law

theorem rectLaw_congr (geometry : u.px.geometry = s.px.geometry) (walk : u.px.walk = s.px.walk)
    (overlays : u.copier.overlays = s.copier.overlays) (law : rectLaw s) : rectLaw u := by
  simpa only [rectLaw, geometry, walk, overlays] using law

theorem Holds.quiet (h : Holds k spared s) (same : Quiet s u) : Holds k spared u :=
  h.same same.toSameBooks (storeLaw_congr same.pixels same.bytes h.stores)
    (rectLaw_congr same.geometry same.pixelWalk same.overlays h.rects)

/-- An entry is spared no longer where it is not that of a withdrawn request. -/
theorem Holds.unspared {age : Nat} (h : Holds k (some age) s)
    (live : ∀ e ∈ s.req.queue, e.age = age → ∀ r ∈ s.req.table, r.age = age → r.withdrawn = false) : Holds k none s := by
  refine { h with entries := ⟨h.entries.1, fun e mem => ?_⟩ }
  obtain ⟨⟨r, there, own, state, spares⟩, marked⟩ := h.entries.2 e mem
  refine ⟨⟨r, there, own, state, fun gone => .inl ((spares gone).resolve_right fun same => ?_)⟩, marked⟩
  have here : e.age = age := (Option.some.inj same).symm
  rw [live e mem here r there (own.trans here)] at gone
  exact absurd gone (by simp)

/-- With no entry to be spared, any may be. -/
theorem Holds.spare (h : Holds k none s) (spared : Option Nat) : Holds k spared s := by
  refine { h with entries := ⟨h.entries.1, fun e mem => ?_⟩ }
  obtain ⟨⟨r, there, own, state, spares⟩, marked⟩ := h.entries.2 e mem
  exact ⟨⟨r, there, own, state, fun gone => .inl ((spares gone).resolve_right (by simp))⟩, marked⟩

end

/-! ### Operations that bring nothing into the books -/

/-- What the operations on requests may do to a record, seen by the laws of order, rows and starts: its tally may be closed, and
is where it enters REPORTING. -/
structure Request.Carries (r q : Request) : Prop where
  age : q.age = r.age
  tag : q.tag = r.tag
  rect : q.rect = r.rect
  source : q.source = r.source
  rowsWritten : q.rowsWritten = r.rowsWritten
  withdrawn : q.withdrawn = r.withdrawn
  tally : q.tally = r.tally ∨ q.tally = r.tally.map fun t => { t with closed := true }
  reports : q.state = .reporting → r.state = .reporting ∨ ∀ t, q.tally = some t → t.closed = true

/-- What they may do to a lane: it is ordered to retire, and its walk is at its beginning. -/
def Lane.Turns (ln ln' : Lane) : Prop :=
  ln'.tag = ln.tag ∧ ln'.rect = ln.rect ∧ ln'.mode = ln.mode ∧ ∃ kind, ln'.state = .retiring kind 0

/-- What the operations on requests and lanes leave alone. -/
structure Kept (s u : State) : Prop where
  px : u.px = s.px
  bytes : u.pool.bytes = s.pool.bytes
  overlays : u.copier.overlays = s.copier.overlays
  nextAge : u.req.nextAge = s.req.nextAge
  buffer : u.inflow.buffer = s.inflow.buffer
  writing : u.inflow.writing.isSome = s.inflow.writing.isSome
  walk : u.adm.walk = s.adm.walk

/-- Every lane is as it was, or has been ordered to retire. -/
def lanesTurn (s u : State) : Prop :=
  ∀ l, laneAt u l = laneAt s l ∨ ∃ ln ln', laneAt s l = some ln ∧ laneAt u l = some ln' ∧ ln.Turns ln'

/-- Records may go and be told things, entries that are not ADMITTING may go, lanes may be ordered to retire; nothing comes. -/
structure Shrinks (s u : State) : Prop extends Kept s u where
  records : ∀ q ∈ u.req.table, ∃ r ∈ s.req.table, r.Carries q
  queue : u.req.queue.Sublist s.req.queue
  walked : ∀ e ∈ s.req.queue, e.admitting = true → e ∈ u.req.queue
  lanes : lanesTurn s u

/-- The books of a state, as far as the records, entries, lanes and places of the line answer to each other. -/
structure Booked (spared : Option Nat) (u : State) : Prop where
  requests : requestLaw u
  entries : ∀ e ∈ u.req.queue, ∃ r ∈ u.req.table, r.age = e.age ∧ r.state ≠ .reporting
    ∧ (r.withdrawn = true → e.admitting = true ∨ spared = some e.age)
  lanes : laneLaw u
  parts : partsLaw u
  line : lineLaw u

section
variable {k : Asked} {spared : Option Nat} {s u : State}

/-- A lane of the later state, seen from the earlier. -/
theorem Shrinks.lane_back (sh : Shrinks s u) {l : LaneId} {ln' : Lane} (used : laneAt u l = some ln') :
    ∃ ln, laneAt s l = some ln ∧ ln'.tag = ln.tag ∧ ln'.rect = ln.rect
      ∧ (ln' = ln ∨ ∃ kind, ln'.state = .retiring kind 0) := by
  rcases sh.lanes l with same | ⟨ln, ln'', before, after, tag, rect, -, turned⟩
  · exact ⟨ln', same ▸ used, rfl, rfl, .inl rfl⟩
  · rw [used] at after
    cases after
    exact ⟨ln, before, tag, rect, .inr turned⟩

/-- Order is kept by what brings nothing (R82). -/
theorem orderLaw_shrinks (law : orderLaw s) (sh : Shrinks s u) : orderLaw u := by
  intro e mem q live own r live'
  obtain ⟨q₀, there, carried⟩ := sh.records q live
  obtain ⟨r₀, there', carried'⟩ := sh.records r live'
  obtain ⟨ofLanes, ofWalk⟩ := law e (sh.queue.subset mem) q₀ there (carried.age.symm.trans own) r₀ there'
  rw [carried.age, carried.rect, carried'.age, carried'.tag, carried'.rect]
  refine ⟨fun l ln' used same meets => ?_, fun w walk => ofWalk w (sh.walk ▸ walk)⟩
  obtain ⟨ln, before, tag, rect, -⟩ := sh.lane_back used
  exact ofLanes l ln before (same.trans tag) (rect ▸ meets)

/-- So is the law of rows, where every record is one that was there (R64, R68). -/
theorem rowsKept_carried {w : Prop} (law : rowsKept w s) (buffer : u.inflow.buffer = s.inflow.buffer)
    (writing : u.inflow.writing.isSome = s.inflow.writing.isSome) (nextAge : u.req.nextAge = s.req.nextAge)
    (records : ∀ q ∈ u.req.table, ∃ r ∈ s.req.table, r.Carries q) : rowsKept w u := by
  obtain ⟨writer, chunks, rows⟩ := law
  refine ⟨by rw [buffer, writing]; exact writer, by rw [buffer, nextAge]; exact chunks, fun q live => ?_⟩
  obtain ⟨r, there, carried⟩ := records q live
  obtain ⟨bounded, tallied, accounts⟩ := rows r there
  have buffered : rowsBuffered u q.age = rowsBuffered s r.age := by rw [rowsBuffered, buffer, carried.age]; rfl
  rw [carried.rowsWritten, carried.rect, carried.source, carried.withdrawn, buffered]
  refine ⟨bounded, ?_, fun t tally => ?_⟩
  · rcases carried.tally with same | closed
    · rw [same]; exact tallied
    · rw [closed, Option.isSome_map]; exact tallied
  · have reports : q.state = .reporting → (∀ t, r.tally = some t → r.state = .reporting → t.closed = true) → t.closed = true := by
      intro reporting earlier
      rcases carried.reports reporting with before | closed
      · rcases carried.tally with same | closes
        · exact earlier t (same ▸ tally) before
        · rw [closes] at tally
          obtain ⟨t₀, -, rfl⟩ := Option.map_eq_some_iff.mp tally
          rfl
      · exact closed t tally
    refine ⟨?_, fun reporting => reports reporting fun t' tally' => (accounts t' tally').2.1, fun isOpen => ?_⟩
    · rcases carried.tally with same | closes
      · exact (accounts t (same ▸ tally)).1
      · rw [closes] at tally
        obtain ⟨t₀, tally₀, rfl⟩ := Option.map_eq_some_iff.mp tally
        exact (accounts t₀ tally₀).1
    · rcases carried.tally with same | closes
      · exact (accounts t (same ▸ tally)).2.2 isOpen
      · rw [closes] at tally
        obtain ⟨t₀, -, rfl⟩ := Option.map_eq_some_iff.mp tally
        exact absurd isOpen (by simp)

/-- A lane's rows are all written still, where its request is live still. -/
theorem allRowsWritten_shrinks (sh : Shrinks s u) (tags : requestLaw s) (lanes : laneLaw u) {l : LaneId} {ln : Lane}
    (used : laneAt u l = some ln) (all : allRowsWritten s ln) : allRowsWritten u ln := by
  obtain ⟨r, there, tag, written⟩ := all
  obtain ⟨q, live, own, -⟩ := lanes l ln used
  obtain ⟨r₀, there₀, carried⟩ := sh.records q live
  obtain rfl := request_eq_of_tag tags there there₀ (tag.trans (own.symm.trans carried.tag))
  exact ⟨q, live, own, by rw [carried.rowsWritten, carried.rect, written]⟩

/-- And the law of starts (R103). -/
theorem startLaw_shrinks (law : startLaw s) (sh : Shrinks s u) (tags : requestLaw s) (lanes : laneLaw u) : startLaw u := by
  refine ⟨fun l ln used => ?_, fun w walk ready q live own => ?_⟩
  · obtain ⟨ln₀, before, -, -, rfl | ⟨kind, retiring⟩⟩ := sh.lane_back used
    · obtain ⟨active, late, early⟩ := law.1 l ln before
      exact ⟨fun state index => allRowsWritten_shrinks sh tags lanes used (active state index),
        fun state data => allRowsWritten_shrinks sh tags lanes used (late state data), early⟩
    · simp [retiring]
  · obtain ⟨r, there, carried⟩ := sh.records q live
    rw [carried.rowsWritten, carried.rect]
    exact law.2 w (sh.walk ▸ walk) ready r there (carried.age.symm.trans own)

/-- Owners are lanes in use still (R3, R11). -/
theorem ownerLaw_shrinks (law : ownerLaw s) (sh : Shrinks s u) : ownerLaw u := by
  intro x y l inside owns
  simp only [panelWidth, pixelAt, tileLanes, tileOf, tileColumns, sh.px] at inside owns ⊢
  obtain ⟨tile, ln, used, within, ahead, mode⟩ := law x y l inside owns
  refine ⟨tile, ?_⟩
  rcases sh.lanes l with same | ⟨ln₀, ln', before, after, -, rect, mode', kind, state⟩
  · exact ⟨ln, same ▸ used, within, ahead, mode⟩
  · rw [used] at before
    cases before
    refine ⟨ln', after, rect ▸ within, fun kind' done retiring => ?_, mode' ▸ mode⟩
    rw [state] at retiring
    cases retiring
    exact Nat.zero_le _

/-- The walk's entry is there still, and its readings are as true as they were (R84, R96). -/
theorem readingsLaw_shrinks {x : Option Nat} (law : readingsLaw s) (entries : entriesLaw x s) (sh : Shrinks s u) :
    readingsLaw u := by
  intro w walk
  rw [sh.walk] at walk
  obtain ⟨⟨e, mem, own⟩, read⟩ := law w walk
  refine ⟨⟨e, sh.walked e mem ((entries.2 e mem).2.mpr ⟨w, walk, own.symm⟩), own⟩, fun q live same => ?_⟩
  obtain ⟨r, there, carried⟩ := sh.records q live
  obtain ⟨bounded, each⟩ := read r there (carried.age.symm.trans same)
  rw [carried.rect]
  exact ⟨bounded, fun i x reads =>
    readingLaw_congr (congrArg PixelStore.geometry sh.px) (congrArg PixelStore.pixels sh.px) (each i x reads)⟩

/-- What brings nothing into the books keeps the laws, given that the books still agree. -/
theorem Holds.shrinks {x : Option Nat} (h : Holds k x s) (sh : Shrinks s u) (books : Booked spared u) : Holds k spared u where
  stores := storeLaw_congr (congrArg PixelStore.pixels sh.px) sh.bytes h.stores
  requests := books.requests
  entries := by
    refine ⟨h.entries.1.sublist sh.queue, fun e mem => ⟨books.entries e mem, ?_⟩⟩
    rw [sh.walk]
    exact (h.entries.2 e (sh.queue.subset mem)).2
  lanes := books.lanes
  parts := books.parts
  line := books.line
  readings := readingsLaw_shrinks h.readings h.entries sh
  owner := ownerLaw_shrinks h.owner sh
  rects := rectLaw_congr (congrArg PixelStore.geometry sh.px) (congrArg PixelStore.walk sh.px) sh.overlays h.rects
  order asked := orderLaw_shrinks (h.order asked) sh
  rows asked := rowsKept_carried (h.rows asked) sh.buffer sh.writing sh.nextAge sh.records
  start asked := startLaw_shrinks (h.start asked) sh h.requests books.lanes

end

end Sys2Proof.Machine
end

section
/-!
PROOF. The moves of which the shared operations on requests and lanes are made (chapter 03), each keeping the laws.
-/

namespace Sys2Proof.Machine

open Sys2Proof.Safety

/-! ### Entries and lanes counted -/

section
variable {spared : Option Nat} {s u : State}

/-- A request's entry is its only one (R41). -/
theorem entries_of_entry (law : entriesLaw spared s) {e : QueueEntry} (mem : e ∈ s.req.queue) :
    (s.req.queue.filter fun d => decide (d.age = e.age)) = [e] := by
  have only : ∀ d ∈ s.req.queue.filter (fun d => decide (d.age = e.age)), d = e := fun d there => by
    obtain ⟨listed, same⟩ := List.mem_filter.mp there
    exact entry_eq_of_age law listed mem (by simpa using same)
  have distinct : (s.req.queue.filter fun d => decide (d.age = e.age)).Nodup :=
    (law.1.imp fun lt same => by rw [same] at lt; exact Nat.lt_irrefl _ lt : s.req.queue.Nodup).filter _
  have there : e ∈ s.req.queue.filter fun d => decide (d.age = e.age) := List.mem_filter.mpr ⟨mem, by simp⟩
  generalize (s.req.queue.filter fun d => decide (d.age = e.age)) = l at *
  match l, only, distinct, there with
  | [a], only, _, _ => rw [only a (by simp)]
  | a :: b :: rest, only, distinct, _ =>
    rw [only a (by simp), only b (by simp)] at distinct
    simp at distinct

/-- A request in REPORTING, or about to enter it, has neither entry nor lane (R43, R56). -/
theorem none_of_finished (parts : partsLaw s) {r : Request} (live : r ∈ s.req.table) (finished : r.partsFinished = r.partsUsed) :
    (∀ e ∈ s.req.queue, e.age ≠ r.age) ∧ ∀ l ln, laneAt s l = some ln → ln.tag ≠ r.tag := by
  have count := parts r live
  have noEntry : (s.req.queue.filter fun e => decide (e.age = r.age)) = [] := List.length_eq_zero_iff.mp (by omega)
  have noLane : (allLanes.filter (laneOf s r.tag fun _ => true)) = [] := List.length_eq_zero_iff.mp (by omega)
  refine ⟨fun e mem same => ?_, fun l ln used same => ?_⟩
  · exact absurd (List.filter_eq_nil_iff.mp noEntry e mem) (by simp [same])
  · exact absurd (List.filter_eq_nil_iff.mp noLane l (mem_allLanes l)) (by simp [laneOf, used, same])

/-- Lanes ordered to retire keep their tags. -/
theorem laneOf_turn (turn : lanesTurn s u) (tag : Nat) : (laneOf u tag fun _ => true) = laneOf s tag fun _ => true := by
  funext l
  rcases turn l with same | ⟨ln, ln', before, after, own, -⟩
  · simp only [laneOf, same]
  · simp only [laneOf, before, after, own]

theorem lanesTurn_of_eq (lanes : u.lanes = s.lanes) : lanesTurn s u := fun l => .inl (laneAt_congr lanes l)

/-- Lanes ordered to retire are those of the requests they were of. -/
theorem laneLaw_turn (law : laneLaw s) (turn : lanesTurn s u)
    (live : ∀ r ∈ s.req.table, ∃ q ∈ u.req.table, q.tag = r.tag ∧ q.rect = r.rect) : laneLaw u := by
  intro l ln' used
  have before : ∃ ln, laneAt s l = some ln ∧ ln'.tag = ln.tag ∧ ln'.rect = ln.rect := by
    rcases turn l with same | ⟨ln, ln'', before, after, tag, rect, -⟩
    · exact ⟨ln', same ▸ used, rfl, rfl⟩
    · rw [used] at after
      cases after
      exact ⟨ln, before, tag, rect⟩
  obtain ⟨ln, before, tag, rect⟩ := before
  obtain ⟨r, there, own, same⟩ := law l ln before
  obtain ⟨q, there', tag', rect'⟩ := live r there
  exact ⟨q, there', by rw [tag', own, tag], by rw [rect', same, rect]⟩

end

/-! ### Records told, lanes ordered to retire -/

/-- A record told of something that is not a part's end: its parts stay, and it enters REPORTING only with all of them
finished, and not withdrawn. -/
structure Request.Told (r q : Request) : Prop extends r.Carries q where
  used : q.partsUsed = r.partsUsed
  finished : q.partsFinished = r.partsFinished
  state : q.state = r.state ∨ q.state = .reporting ∧ r.partsFinished = r.partsUsed ∧ r.withdrawn = false

theorem Request.Told.rfl {r : Request} : r.Told r :=
  { age := .refl _, tag := .refl _, rect := .refl _, source := .refl _, rowsWritten := .refl _, withdrawn := .refl _
    tally := .inl (.refl _), reports := .inl, used := .refl _, finished := .refl _, state := .inl (.refl _) }

section
variable {k : Asked} {spared : Option Nat} {s u : State}

/-- Places of the line are of requests in REPORTING still, where records have been told. -/
theorem lineLaw_told {g : Request → Request} (law : lineLaw s) (table : u.req.table = s.req.table.map g)
    (line : u.req.line = s.req.line) (told : ∀ r ∈ s.req.table, r.Told (g r)) : lineLaw u := by
  rw [lineLaw, line, table]
  refine ⟨law.1, fun h mem => ?_⟩
  obtain ⟨r, live, own, reporting⟩ := law.2 h mem
  refine ⟨g r, List.mem_map_of_mem live, (told r live).age.trans own, ?_⟩
  rcases (told r live).state with same | ⟨entered, -⟩
  · exact same.trans reporting
  · exact entered

/-- Records told and lanes ordered to retire keep the laws. -/
theorem Holds.told (h : Holds k spared s) (kept : Kept s u) {g : Request → Request} (table : u.req.table = s.req.table.map g)
    (queue : u.req.queue = s.req.queue) (turn : lanesTurn s u) (told : ∀ r ∈ s.req.table, r.Told (g r))
    (line : lineLaw u) : Holds k spared u := by
  have tagged : ∀ r ∈ s.req.table, ∃ q ∈ u.req.table, q.tag = r.tag ∧ q.rect = r.rect := fun r live =>
    ⟨g r, by rw [table]; exact List.mem_map_of_mem live, (told r live).tag, (told r live).rect⟩
  refine h.shrinks ⟨kept, ?_, by rw [queue], by rw [queue]; exact fun e mem _ => mem, turn⟩
    ⟨⟨?_, ?_, ?_⟩, ?_, laneLaw_turn h.lanes turn tagged, ?_, line⟩
  · rw [table]
    intro q mem
    obtain ⟨r, live, rfl⟩ := List.mem_map.mp mem
    exact ⟨r, live, (told r live).toCarries⟩
  · rw [table, List.pairwise_map]
    exact h.requests.1.imp_of_mem fun ha hb lt => by rw [(told _ ha).age, (told _ hb).age]; exact lt
  · rw [table, List.pairwise_map]
    exact h.requests.2.1.imp_of_mem fun ha hb ne => by rw [(told _ ha).tag, (told _ hb).tag]; exact ne
  · rw [table, kept.nextAge, kept.px]
    intro q mem
    obtain ⟨r, live, rfl⟩ := List.mem_map.mp mem
    obtain ⟨age, parts, rect, reporting⟩ := h.requests.2.2 r live
    have told := told r live
    rw [told.age, told.used, told.rect, told.finished, told.withdrawn]
    refine ⟨age, parts, rect, fun enters => ?_⟩
    rcases told.state with same | ⟨-, done⟩
    · exact reporting (same ▸ enters)
    · exact done
  · rw [queue, table]
    intro e mem
    obtain ⟨⟨r, live, own, state, spares⟩, -⟩ := h.entries.2 e mem
    have told := told r live
    refine ⟨g r, List.mem_map_of_mem live, told.age.trans own, ?_, by rw [told.withdrawn]; exact spares⟩
    rcases told.state with same | ⟨-, done, -⟩
    · rw [same]; exact state
    · exact absurd own.symm ((none_of_finished h.parts live done).1 e mem)
  · rw [partsLaw, table]
    intro q mem
    obtain ⟨r, live, rfl⟩ := List.mem_map.mp mem
    have told := told r live
    rw [queue, told.used, told.finished, told.age, told.tag, laneOf_turn turn]
    exact h.parts r live

/-- One record told. -/
theorem Holds.updateRequest (h : Holds k spared s) (age : Nat) {f : Request → Request} (told : ∀ r : Request, r.Told (f r)) :
    Holds k spared (updateRequest age f s) := by
  have each : ∀ r ∈ s.req.table, r.Told (if r.age = age then f r else r) := fun r _ => by
    split
    · exact told r
    · exact .rfl
  exact h.told ⟨rfl, rfl, rfl, rfl, rfl, rfl, rfl⟩ (g := fun r => if r.age = age then f r else r) rfl rfl
    (lanesTurn_of_eq rfl) each (lineLaw_told h.line rfl rfl each)

/-- Lanes ordered to retire, requests left alone. -/
theorem Holds.turned (h : Holds k spared s) (kept : Kept s u) (req : u.req = s.req) (turn : lanesTurn s u) :
    Holds k spared u := by
  have table : u.req.table = s.req.table.map id := by rw [req, List.map_id]
  exact h.told kept table (by rw [req]) turn (fun r _ => .rfl)
    (lineLaw_told h.line table (by rw [req]) fun r _ => .rfl)

/-! ### An entry dropped (R42, R43) -/

/-- A request's entry is removed, and its part has finished: an entry that is not ADMITTING. An entry spared until then is
spared no longer. -/
theorem Holds.drops {x : Option Nat} (h : Holds k x s) (kept : Kept s u) {e : QueueEntry} (mem : e ∈ s.req.queue)
    (waits : e.admitting = false) (spares : ∀ a, x = some a → a = e.age ∨ spared = some a) {g : Request → Request}
    (queue : u.req.queue = s.req.queue.filter fun d => d.age ≠ e.age) (table : u.req.table = s.req.table.map g)
    (line : u.req.line = s.req.line) (turn : lanesTurn s u) (other : ∀ r ∈ s.req.table, r.age ≠ e.age → r.Told (g r))
    (own : ∀ r ∈ s.req.table, r.age = e.age →
      r.Carries (g r) ∧ (g r).partsUsed = r.partsUsed ∧ (g r).partsFinished = r.partsFinished + 1 ∧ (g r).state = r.state) :
    Holds k spared u := by
  have carries : ∀ r ∈ s.req.table, r.Carries (g r) := fun r live => by
    by_cases here : r.age = e.age
    · exact (own r live here).1
    · exact (other r live here).toCarries
  obtain ⟨⟨owner, ownerLive, ownerAge, ownerState, -⟩, -⟩ := h.entries.2 e mem
  have notReporting : ∀ r ∈ s.req.table, r.age = e.age → r.state ≠ .reporting := fun r live here => by
    rwa [request_eq_of_age h.requests live ownerLive (here.trans ownerAge.symm)]
  have tagged : ∀ r ∈ s.req.table, ∃ q ∈ u.req.table, q.tag = r.tag ∧ q.rect = r.rect := fun r live =>
    ⟨g r, by rw [table]; exact List.mem_map_of_mem live, (carries r live).tag, (carries r live).rect⟩
  refine h.shrinks ⟨kept, ?_, by rw [queue]; exact List.filter_sublist, fun d there marked => ?_, turn⟩
    ⟨⟨?_, ?_, ?_⟩, ?_, laneLaw_turn h.lanes turn tagged, ?_, ?_, ?_⟩
  · rw [table]
    intro q there
    obtain ⟨r, live, rfl⟩ := List.mem_map.mp there
    exact ⟨r, live, carries r live⟩
  · rw [queue]
    refine List.mem_filter.mpr ⟨there, ?_⟩
    have apart : d.age ≠ e.age := fun same => by
      rw [entry_eq_of_age h.entries there mem same, waits] at marked
      exact absurd marked (by simp)
    simpa using apart
  · rw [table, List.pairwise_map]
    exact h.requests.1.imp_of_mem fun ha hb lt => by rw [(carries _ ha).age, (carries _ hb).age]; exact lt
  · rw [table, List.pairwise_map]
    exact h.requests.2.1.imp_of_mem fun ha hb ne => by rw [(carries _ ha).tag, (carries _ hb).tag]; exact ne
  · rw [table, kept.nextAge, kept.px]
    intro q there
    obtain ⟨r, live, rfl⟩ := List.mem_map.mp there
    obtain ⟨age, parts, rect, reporting⟩ := h.requests.2.2 r live
    rw [(carries r live).age, (carries r live).rect, (carries r live).withdrawn]
    by_cases here : r.age = e.age
    · obtain ⟨-, used, -, state⟩ := own r live here
      rw [used, state]
      exact ⟨age, parts, rect, fun enters => absurd enters (notReporting r live here)⟩
    · have told := other r live here
      rw [told.used, told.finished]
      refine ⟨age, parts, rect, fun enters => ?_⟩
      rcases told.state with same | ⟨-, done⟩
      · exact reporting (same ▸ enters)
      · exact done
  · rw [queue, table]
    intro d there
    obtain ⟨listed, apart⟩ := List.mem_filter.mp there
    have apart : d.age ≠ e.age := by simpa using apart
    obtain ⟨⟨r, live, same, state, kind⟩, -⟩ := h.entries.2 d listed
    have told := other r live (same ▸ apart)
    refine ⟨g r, List.mem_map_of_mem live, told.age.trans same, ?_, fun gone => ?_⟩
    · rcases told.state with as | ⟨-, done, -⟩
      · rw [as]; exact state
      · exact absurd same.symm ((none_of_finished h.parts live done).1 d listed)
    · rcases kind (told.withdrawn ▸ gone) with marked | spare
      · exact .inl marked
      · exact .inr ((spares d.age spare).resolve_left apart)
  · rw [partsLaw, table]
    intro q there
    obtain ⟨r, live, rfl⟩ := List.mem_map.mp there
    have count := h.parts r live
    rw [queue, List.filter_filter, (carries r live).age, (carries r live).tag, laneOf_turn turn]
    by_cases here : r.age = e.age
    · obtain ⟨-, used, finished, -⟩ := own r live here
      have before : (s.req.queue.filter fun d => decide (d.age = r.age)).length = 1 := by
        rw [here, entries_of_entry h.entries mem]; rfl
      have after : (s.req.queue.filter fun d => decide (d.age = r.age) && decide (d.age ≠ e.age)) = [] := by
        rw [List.filter_eq_nil_iff]
        intro d _
        simp [here]
      rw [used, finished, after]
      simp only [List.length_nil]
      omega
    · have told := other r live here
      have same : (s.req.queue.filter fun d => decide (d.age = r.age) && decide (d.age ≠ e.age))
          = s.req.queue.filter fun d => decide (d.age = r.age) := by
        refine List.filter_congr fun d _ => ?_
        by_cases of : d.age = r.age
        · simp [of, here]
        · simp [of]
      rw [told.used, told.finished, same]
      exact count
  · rw [line]; exact h.line.1
  · rw [line, table]
    intro p there
    obtain ⟨r, live, same, reporting⟩ := h.line.2 p there
    have apart : r.age ≠ e.age := fun here => notReporting r live here reporting
    have told := other r live apart
    refine ⟨g r, List.mem_map_of_mem live, told.age.trans same, ?_⟩
    rcases told.state with as | ⟨entered, -⟩
    · rw [as]; exact reporting
    · exact entered

/-! ### A record leaves the table (R57, R59) -/

/-- A record that has neither entry nor lane leaves the table, and its place the line. -/
theorem Holds.removes (h : Holds k spared s) (kept : Kept s u) {age : Nat}
    (table : u.req.table = s.req.table.filter fun r => r.age ≠ age)
    (queue : u.req.queue = s.req.queue) (line : u.req.line = s.req.line.filter fun p => p.age ≠ age)
    (lanes : u.lanes = s.lanes) (noEntry : ∀ e ∈ s.req.queue, e.age ≠ age)
    (noLane : ∀ r ∈ s.req.table, r.age = age → ∀ l ln, laneAt s l = some ln → ln.tag ≠ r.tag) : Holds k spared u := by
  have mem : ∀ {r : Request}, r ∈ u.req.table ↔ r ∈ s.req.table ∧ r.age ≠ age := by
    intro r
    rw [table, List.mem_filter]
    simp
  have carries : ∀ q ∈ u.req.table, ∃ r ∈ s.req.table, r.Carries q := fun q there =>
    ⟨q, (mem.mp there).1, Request.Told.rfl.toCarries⟩
  have ages : u.req.table.Sublist s.req.table := by rw [table]; exact List.filter_sublist
  refine h.shrinks ⟨kept, carries, by rw [queue], by rw [queue]; exact fun e there _ => there, lanesTurn_of_eq lanes⟩
    ⟨⟨h.requests.1.sublist ages, h.requests.2.1.sublist ages, fun r live => ?_⟩, ?_, ?_, ?_, ?_, ?_⟩
  · rw [kept.nextAge, kept.px]
    exact h.requests.2.2 r (mem.mp live).1
  · rw [queue]
    intro e there
    obtain ⟨⟨r, live, own, rest⟩, -⟩ := h.entries.2 e there
    exact ⟨r, mem.mpr ⟨live, own ▸ noEntry e there⟩, own, rest⟩
  · intro l ln used
    rw [laneAt_congr lanes] at used
    obtain ⟨r, live, tag, rect⟩ := h.lanes l ln used
    exact ⟨r, mem.mpr ⟨live, fun own => noLane r live own l ln used tag.symm⟩, tag, rect⟩
  · intro r live
    rw [queue, laneOf_congr (laneAt_congr lanes)]
    exact h.parts r (mem.mp live).1
  · rw [line]
    exact h.line.1.sublist (List.filter_sublist.map _)
  · rw [line]
    intro p there
    obtain ⟨listed, other⟩ := List.mem_filter.mp there
    obtain ⟨r, live, own, reporting⟩ := h.line.2 p listed
    exact ⟨r, mem.mpr ⟨live, by rw [own]; simpa using other⟩, own, reporting⟩

end

end Sys2Proof.Machine
end

section
/-!
PROOF. The shared operations on requests and lanes keep the laws (chapters 03 and 06).
-/

namespace Sys2Proof.Machine

open Sys2Proof.Safety

/-! ### Lanes ordered to retire (R107, R109, R114) -/

theorem Lane.released_turns (o : ReqOutcome) (ln : Lane) : ln.released o = ln ∨ ln.Turns (ln.released o) := by
  unfold released
  split
  · exact .inr ⟨rfl, rfl, rfl, _, rfl⟩
  · exact .inl rfl

theorem Lane.aborted_turns (reason : AbortReason) (ln : Lane) : ln.aborted reason = ln ∨ ln.Turns (ln.aborted reason) := by
  unfold aborted
  split
  · exact .inr ⟨rfl, rfl, rfl, _, rfl⟩
  · exact .inl rfl

/-- Lanes of which each stays or is ordered to retire. -/
theorem lanesTurn_of_map {s u : State} {g : LaneId → Lane → Lane} (lanes : ∀ l, laneAt u l = (laneAt s l).map (g l))
    (turns : ∀ l ln, g l ln = ln ∨ ln.Turns (g l ln)) : lanesTurn s u := by
  intro l
  rw [lanes]
  cases before : laneAt s l with
  | none => exact .inl rfl
  | some ln =>
    rcases turns l ln with same | turned
    · exact .inl (by rw [Option.map_some, same])
    · exact .inr ⟨ln, _, rfl, rfl, turned⟩

theorem releaseArmed_turns (tag : Nat) (o : ReqOutcome) (s : State) : lanesTurn s (releaseArmed tag o s) :=
  lanesTurn_of_map (g := fun _ ln => if ln.tag = tag then ln.released o else ln) (laneAt_releaseArmed tag o s) fun _ ln => by
    split
    · exact ln.released_turns o
    · exact .inl rfl

theorem abortActive_turns (tag : Nat) (reason : AbortReason) (s : State) : lanesTurn s (abortActive tag reason s) :=
  lanesTurn_of_map (g := fun _ ln => if ln.tag = tag then ln.aborted reason else ln) (laneAt_abortActive tag reason s)
    fun _ ln => by
      split
      · exact ln.aborted_turns reason
      · exact .inl rfl

theorem abortLane_turns (reason : AbortReason) (s : State) (l : LaneId) : lanesTurn s (abortLane reason s l) := by
  refine lanesTurn_of_map (g := fun m ln => if m = l then ln.aborted reason else ln) (fun m => ?_) fun m ln => ?_
  · rw [laneAt_abortLane]
    by_cases here : m = l
    · simp [here]
    · simp [here]
  · split
    · exact ln.aborted_turns reason
    · exact .inl rfl

section
variable {k : Asked} {spared : Option Nat} {s : State}

theorem Holds.releaseArmed (h : Holds k spared s) (tag : Nat) (o : ReqOutcome) : Holds k spared (releaseArmed tag o s) :=
  h.turned (by constructor <;> simp) (by simp) (releaseArmed_turns tag o s)

theorem Holds.abortActive (h : Holds k spared s) (tag : Nat) (reason : AbortReason) :
    Holds k spared (abortActive tag reason s) :=
  h.turned (by constructor <;> simp) (by simp) (abortActive_turns tag reason s)

theorem Holds.abortLane (h : Holds k spared s) (reason : AbortReason) (l : LaneId) : Holds k spared (abortLane reason s l) :=
  h.turned (by constructor <;> simp) (by simp) (abortLane_turns reason s l)

/-! ### Records told (R54, R55, R62, R64) -/

theorem Holds.closeTally (h : Holds k spared s) (age : Nat) : Holds k spared (closeTally age s) :=
  h.updateRequest age fun _ => { Request.Told.rfl with tally := .inr rfl }

theorem Holds.bringOutcome (h : Holds k spared s) (age : Nat) (o : ReqOutcome) : Holds k spared (bringOutcome age o s) :=
  h.updateRequest age fun _ => { Request.Told.rfl with }

theorem Holds.wantPass (h : Holds k spared s) : Holds k spared (wantPass s) := h.quiet (by constructor <;> simp)

theorem Holds.raise (h : Holds k spared s) (src : NoticeSource) : Holds k spared (raise src s) :=
  h.quiet (by constructor <;> simp)

theorem Holds.judgeJobs (h : Holds k spared s) : Holds k spared (judgeJobs s) := h.quiet (by constructor <;> simp)

theorem Holds.dropJobs (h : Holds k spared s) (p : Job → Bool) : Holds k spared (dropJobs p s) :=
  h.quiet (by constructor <;> simp)

theorem Holds.judgeAfter (h : Holds k spared s) (b : State) : Holds k spared (judgeAfter b s) :=
  h.quiet (by constructor <;> simp)

theorem Holds.returnPages (h : Holds k spared s) (pages : List Nat) : Holds k spared (returnPages pages s) :=
  h.quiet (by constructor <;> simp)

theorem Holds.freeRequestPages (h : Holds k spared s) (age : Nat) : Holds k spared (freeRequestPages age s) := by
  unfold Machine.freeRequestPages
  split
  · exact (h.returnPages _).updateRequest age fun _ => { Request.Told.rfl with }
  · exact h

/-! ### Entries dropped (R42, R54) -/

/-- With no walk in flight no entry is ADMITTING. -/
theorem isAdmitting_of_no_walk (h : Holds k spared s) (walk : s.adm.walk = none) (age : Nat) : isAdmitting s age = false := by
  rw [Bool.eq_false_iff, ne_eq, isAdmitting_iff h.entries]
  rintro ⟨e, mem, -, marked⟩
  obtain ⟨w, walking, -⟩ := (h.entries.2 e mem).2.mp marked
  rw [walk] at walking
  cases walking

/-- Its entry being dropped, a request's part has finished. -/
theorem Request.withPartFinished_carries (o : ReqOutcome) (r : Request) : r.Carries (r.withPartFinished o) :=
  { Request.Told.rfl.toCarries with }

theorem Holds.dropEntry_of_entry {x : Option Nat} (h : Holds k x s) {e : QueueEntry} {age : Nat} (o : ReqOutcome)
    (mem : e ∈ s.req.queue) (own : e.age = age) (waits : e.admitting = false)
    (spares : ∀ a, x = some a → a = age ∨ spared = some a) : Holds k spared (finishPart age o (removeEntry age s)) := by
  subst own
  refine h.drops ⟨rfl, rfl, rfl, rfl, rfl, rfl, rfl⟩ mem waits spares
    (g := fun r => if r.age = e.age then r.withPartFinished o else r) rfl rfl rfl (lanesTurn_of_eq rfl) ?_ ?_
  · intro r _ other
    simp only [other, if_false]
    exact .rfl
  · intro r _ here
    simp only [here, if_true]
    exact ⟨r.withPartFinished_carries o, rfl, rfl, rfl⟩

/-- An entry spared is spared no longer, dropped or not there. -/
theorem Holds.dropSpared {age : Nat} (h : Holds k (some age) s) (o : ReqOutcome) (waits : isAdmitting s age = false) :
    Holds k none (dropEntry age o s) := by
  unfold Machine.dropEntry
  split
  · rename_i e found
    obtain ⟨mem, own⟩ := mem_of_entryOf found
    exact h.dropEntry_of_entry o mem own (by simpa [isAdmitting, found] using waits) fun a same => .inl (Option.some.inj same).symm
  · rename_i absent
    refine h.unspared fun e mem own => ?_
    exact absurd (List.find?_eq_none.mp absent e mem) (by simp [own])

theorem Holds.dropEntry (h : Holds k none s) {age : Nat} (o : ReqOutcome) (waits : isAdmitting s age = false) :
    Holds k none (dropEntry age o s) := (h.spare (some age)).dropSpared o waits

theorem Holds.dropEntryTriggering (h : Holds k none s) {age : Nat} (o : ReqOutcome) (waits : isAdmitting s age = false) :
    Holds k none (dropEntryTriggering age o s) := by
  unfold Machine.dropEntryTriggering
  split
  · exact (h.dropEntry o waits).wantPass
  · exact h

/-! ### Withdrawal and cancel (R50 to R54) -/

/-- Whether an entry is ADMITTING is read off the queue. -/
theorem isAdmitting_congr {u : State} (queue : u.req.queue = s.req.queue) (age : Nat) : isAdmitting u age = isAdmitting s age := by
  simp only [isAdmitting, entryOf, queue]

theorem Holds.withdrawRest (h : Holds k none s) (r : Request) (o : ReqOutcome) : Holds k none (withdrawRest r o s) := by
  unfold Machine.withdrawRest
  split
  · exact h.updateRequest r.age fun _ => { Request.Told.rfl with }
  · rename_i waits
    exact (h.dropEntryTriggering o (by simpa using waits)).releaseArmed r.tag o

theorem Holds.reportAbort (h : Holds k none s) (tag : Nat) (reason : AbortReason) : Holds k none (reportAbort tag reason s) := by
  unfold Machine.reportAbort
  split
  · exact (h.closeTally _).withdrawRest _ _
  · exact h

theorem Holds.cancelQueued (h : Holds k none s) (release : ReqOutcome) {r : Request} (waits : isAdmitting s r.age = false) :
    Holds k none (cancelQueued release r s) :=
  ((h.dropEntryTriggering _ waits).releaseArmed _ _).bringOutcome _ _

theorem Holds.cleanCancel (h : Holds k none s) (force : Bool) {r : Request} (waits : isAdmitting s r.age = false) :
    Holds k none (cleanCancel force r s) :=
  (h.cancelQueued _ waits).updateRequest r.age fun _ => { Request.Told.rfl with }

theorem Holds.forcedCancel (h : Holds k none s) {r : Request} (waits : isAdmitting s r.age = false) :
    Holds k none (forcedCancel r s) := by
  have waits' : isAdmitting (Machine.abortActive r.tag .cancelled s) r.age = false := by
    rw [isAdmitting_congr (s := s) (by simp)]; exact waits
  exact (((h.abortActive r.tag .cancelled).dropEntryTriggering .aborted waits').releaseArmed _ _).bringOutcome _ _

theorem Holds.takePendingWithdrawal (h : Holds k none s) {age : Nat} (waits : isAdmitting s age = false) :
    Holds k none (takePendingWithdrawal age s) := by
  unfold Machine.takePendingWithdrawal
  split
  · split
    · exact ((h.dropEntryTriggering _ waits).releaseArmed _ _).updateRequest age fun _ => { Request.Told.rfl with }
    · exact h
  · exact h

theorem Holds.takePendingCancel (h : Holds k none s) {age : Nat} (waits : isAdmitting s age = false) :
    Holds k none (takePendingCancel age s) := by
  unfold Machine.takePendingCancel
  split
  · rename_i r found
    have waits' : isAdmitting s r.age = false := by rw [age_of_findAge found]; exact waits
    split
    · exact h
    · exact (h.cancelQueued _ waits').updateRequest age fun _ => { Request.Told.rfl with }
    · exact (h.forcedCancel waits').updateRequest age fun _ => { Request.Told.rfl with }
  · exact h

/-- What follows a walk's result: the entry of the request, which may have been withdrawn, is spared no longer (R42, R59). -/
theorem Holds.afterWalk {age : Nat} (h : Holds k (some age) s) (walk : s.adm.walk = none) : Holds k none (afterWalk age s) := by
  have waits := isAdmitting_of_no_walk h walk age
  unfold Machine.afterWalk
  split
  · rename_i r found
    split
    · exact (h.dropSpared _ waits).releaseArmed _ _
    · rename_i live
      have whole : Holds k none s := h.unspared fun e _ _ q there own => by
        rw [request_eq_of_age h.requests there (mem_of_findAge found) (own.trans (age_of_findAge found).symm)]
        simpa using live
      have taken := whole.takePendingWithdrawal waits
      exact taken.takePendingCancel (isAdmitting_of_no_walk taken (by simpa using walk) age)
  · rename_i absent
    refine h.unspared fun e _ _ r there own => ?_
    exact absurd (List.find?_eq_none.mp absent r there) (by simp [own])

/-! ### Leaving the table (R57, R59, R176) -/

theorem Holds.leaveTable (h : Holds k spared s) {age : Nat} (noLine : ∀ p ∈ s.req.line, p.age ≠ age)
    (noEntry : ∀ e ∈ s.req.queue, e.age ≠ age)
    (noLane : ∀ r ∈ s.req.table, r.age = age → ∀ l ln, laneAt s l = some ln → ln.tag ≠ r.tag) :
    Holds k spared (leaveTable age s) := by
  refine h.removes (by constructor <;> simp) (leaveTable_table age s) (by simp) ?_ (by simp) noEntry noLane
  rw [List.filter_eq_self.mpr fun p mem => by simpa using noLine p mem]
  simp

/-- A record of a request in REPORTING is accepted (R176). -/
theorem Holds.acceptRecord (h : Holds k spared s) {p : Reporting} (mem : p ∈ s.req.line) :
    Holds k spared (acceptRecord p s) := by
  obtain ⟨r, live, own, reporting⟩ := h.line.2 p mem
  obtain ⟨noEntry, noLane⟩ := none_of_finished h.parts live (((h.requests.2.2 r live).2.2.2 reporting).1)
  refine h.removes (by constructor <;> simp [Machine.acceptRecord]) (age := p.age) ?_ (by simp [Machine.acceptRecord])
    (by simp [Machine.acceptRecord]) (by simp [Machine.acceptRecord]) (by rw [← own]; exact noEntry) ?_
  · rw [Machine.acceptRecord, leaveTable_table]
  · intro q there same
    rw [request_eq_of_age h.requests there live (same.trans own.symm)]
    exact noLane

/-- Places of the line that offer their records in order. -/
theorem Holds.offerFrom (l : List Reporting) {s : State} (h : Holds k spared s) (distinct : (l.map fun p => p.age).Nodup)
    (lined : ∀ p ∈ l, p ∈ s.req.line) : Holds k spared (offerFrom l s) := by
  induction l generalizing s with
  | nil => exact h
  | cons p rest ih =>
    unfold Machine.offerFrom
    split
    · rw [List.map_cons, List.nodup_cons] at distinct
      refine ih (h.acceptRecord (lined p List.mem_cons_self)) distinct.2 fun q mem => ?_
      have apart : q.age ≠ p.age := fun same => distinct.1 (same ▸ List.mem_map_of_mem mem)
      simpa [Machine.acceptRecord, apart] using lined q (List.mem_cons_of_mem _ mem)
    · exact h

theorem Holds.offerRecords (h : Holds k spared s) : Holds k spared (offerRecords s) :=
  h.offerFrom _ h.line.1 fun _ mem => mem

theorem linedUp_kept (r : Request) (s : State) : Kept s (linedUp r s) := by
  unfold linedUp
  split <;> constructor <;> simp [closedFor]

theorem linedUp_lanes (r : Request) (s : State) : (linedUp r s).lanes = s.lanes := by
  unfold linedUp
  split <;> simp [closedFor]

/-- A request that has finished every part enters REPORTING (R56). -/
theorem Holds.enterReporting (h : Holds k spared s) {r : Request} (found : findAge s r.age = some r)
    (live : r.withdrawn = false) (finished : r.partsFinished = r.partsUsed) (first : r.state ≠ .reporting) :
    Holds k spared (enterReporting r s) := by
  have mem := mem_of_findAge found
  have each : ∀ q ∈ s.req.table, q.Told (if q.age = r.age then q.reported (writingFor s r.age) else q) := fun q there => by
    split
    · rename_i own
      rw [request_eq_of_age h.requests there mem own]
      exact { Request.Told.rfl with
        tally := .inr rfl, state := .inr ⟨rfl, finished, live⟩
        reports := fun _ => .inr fun t closed => by
          obtain ⟨t₀, -, rfl⟩ := Option.map_eq_some_iff.mp closed
          rfl }
    · exact .rfl
  have table := congrArg Requests.table (linedUp_req found)
  have line := congrArg Requests.line (linedUp_req found)
  have fresh : ∀ p ∈ s.req.line, p.age ≠ r.age := fun p there own => by
    obtain ⟨q, live, same, reporting⟩ := h.line.2 p there
    rw [request_eq_of_age h.requests live mem (same.trans own)] at reporting
    exact first reporting
  rw [enterReporting_eq]
  refine (h.told (linedUp_kept r s) table (by rw [linedUp_req found])
    (lanesTurn_of_eq (linedUp_lanes r s)) each ⟨?_, fun p there => ?_⟩).offerRecords
  · rw [line, List.map_append, List.nodup_append]
    refine ⟨h.line.1, by simp, fun a there b last => ?_⟩
    obtain ⟨p, listed, rfl⟩ := List.mem_map.mp there
    rw [List.map_cons, List.map_nil, List.mem_singleton] at last
    exact last ▸ fresh p listed
  · rw [line, List.mem_append, List.mem_singleton] at there
    rw [table]
    rcases there with old | rfl
    · obtain ⟨q, live, own, reporting⟩ := h.line.2 p old
      refine ⟨_, List.mem_map_of_mem live, ?_⟩
      rw [if_neg (by rw [own]; exact fresh p old)]
      exact ⟨own, reporting⟩
    · refine ⟨_, List.mem_map_of_mem mem, ?_⟩
      rw [if_pos rfl]
      exact ⟨rfl, rfl⟩

/-- A withdrawn request without ADMITTING entry and lane leaves (R59). -/
theorem Holds.leaveIfDone (h : Holds k none s) {r : Request} (found : findAge s r.age = some r) (gone : r.withdrawn = true) :
    Holds k none (leaveIfDone r s) := by
  unfold Machine.leaveIfDone
  split
  · exact h
  · rename_i free
    simp only [Bool.or_eq_true, not_or, Bool.not_eq_true] at free
    obtain ⟨noMark, noLane⟩ := free
    have mem := mem_of_findAge found
    have keep : Kept s (Machine.freeRequestPages r.age s) := by constructor <;> simp
    refine (h.freeRequestPages r.age).leaveTable ?_ ?_ ?_
    · rw [(freeRequestPages_keeps r.age s).2.2.2.2.1]
      intro p there own
      obtain ⟨q, live, same, reporting⟩ := h.line.2 p there
      rw [request_eq_of_age h.requests live mem (same.trans own)] at reporting
      rw [((h.requests.2.2 r mem).2.2.2 reporting).2] at gone
      cases gone
    · rw [(freeRequestPages_keeps r.age s).2.2.2.1]
      intro e there own
      obtain ⟨⟨q, live, same, -, marks⟩, -⟩ := h.entries.2 e there
      rw [request_eq_of_age h.requests live mem (same.trans own)] at marks
      have marked := (isAdmitting_iff h.entries r.age).mpr ⟨e, there, own, (marks gone).resolve_right (by simp)⟩
      rw [noMark] at marked
      cases marked
    · rw [freeRequestPages_table found]
      intro q there own l ln used
      obtain ⟨q₀, live, rfl⟩ := List.mem_map.mp there
      have same : q₀.age = r.age := by split at own <;> exact own
      rw [request_eq_of_age h.requests live mem same, if_pos rfl]
      intro tag
      rw [laneAt_congr (s := s) (by simp)] at used
      have any := anyLane_true_iff.mpr ⟨l, ln, used, tag⟩
      rw [noLane] at any
      cases any

/-- A request judged, as its end may ask (R56, R59). -/
theorem Holds.judgeFinish (h : Holds k none s) (age : Nat) : Holds k none (judgeFinish age s) := by
  unfold Machine.judgeFinish
  split
  · exact h
  · rename_i r found
    have found' : findAge s r.age = some r := by rw [age_of_findAge found]; exact found
    split
    · exact h.leaveIfDone found' ‹_›
    · split
      · rename_i live ready
        exact h.enterReporting found' (by simpa using live) ready.1 ready.2.2.2
      · exact h

/-- A run of operations that keep the laws. -/
theorem Holds.foldl {α : Type} {f : State → α → State} (step : ∀ {s} a, Holds k spared s → Holds k spared (f s a)) (l : List α)
    (h : Holds k spared s) : Holds k spared (l.foldl f s) := by
  induction l generalizing s with
  | nil => exact h
  | cons a l ih => exact ih (step a h)

theorem Holds.judgeAll (h : Holds k none s) : Holds k none (judgeAll s) :=
  h.foldl (fun age held => held.judgeFinish age) _

end

end Sys2Proof.Machine
end

section
/-!
PROOF. Walks and passes keep the laws (chapter 05), and so does the end of every event.
-/

namespace Sys2Proof.Machine

open Sys2Proof.Safety

/-! ### The walk in flight changes -/

/-- All but the queue and the Admission Unit is as it was, as far as the laws see it. -/
structure SameButWalk (s u : State) : Prop where
  px : u.px = s.px
  bytes : u.pool.bytes = s.pool.bytes
  overlays : u.copier.overlays = s.copier.overlays
  nextAge : u.req.nextAge = s.req.nextAge
  buffer : u.inflow.buffer = s.inflow.buffer
  writing : u.inflow.writing.isSome = s.inflow.writing.isSome
  table : u.req.table = s.req.table
  line : u.req.line = s.req.line
  lanes : u.lanes = s.lanes

/-- A walk, as the laws of order and starts ask of it: no older entry's rectangle meets its request's, and with its data ready
all rows of the request are written (R82, R103). -/
structure WalkFits (k : Asked) (s : State) (w : AdmissionWalk) : Prop where
  order : k.order → ∀ e ∈ s.req.queue, ∀ q ∈ s.req.table, q.age = e.age → ∀ r ∈ s.req.table, r.age = w.age →
    q.rect.intersects r.rect = true → r.age ≤ q.age
  start : k.start → w.dataReady = true → ∀ r ∈ s.req.table, r.age = w.age → r.rowsWritten = r.rect.height

section
variable {k : Asked} {spared x : Option Nat} {s u : State}

theorem Holds.walkFits (h : Holds k x s) {w : AdmissionWalk} (walk : s.adm.walk = some w) : WalkFits k s w where
  order asked e mem q live own r live' same := (h.order asked e mem q live own r live').2 w walk same
  start asked := (h.start asked).2 w walk

/-- The walk in flight, and with it the marks of the entries, may change: to a walk that fits, or to none. -/
theorem Holds.rewalked (h : Holds k x s) (same : SameButWalk s u) {g : QueueEntry → QueueEntry}
    (queue : u.req.queue = s.req.queue.map g) (ages : ∀ e, (g e).age = e.age)
    (marks : ∀ e ∈ s.req.queue, (g e).admitting = true ↔ ∃ w, u.adm.walk = some w ∧ w.age = e.age)
    (spares : ∀ e ∈ s.req.queue, ∀ r ∈ s.req.table, r.age = e.age → r.withdrawn = true →
      (g e).admitting = true ∨ spared = some e.age)
    (readings : readingsLaw u) (fits : ∀ w, u.adm.walk = some w → WalkFits k s w) : Holds k spared u := by
  have lanes : ∀ l, laneAt u l = laneAt s l := laneAt_congr same.lanes
  refine ⟨storeLaw_congr (congrArg PixelStore.pixels same.px) same.bytes h.stores, ?_, ⟨?_, ?_⟩, ?_, ?_, ?_, readings, ?_,
    rectLaw_congr (congrArg PixelStore.geometry same.px) (congrArg PixelStore.walk same.px) same.overlays h.rects,
    fun asked => ?_, fun asked => ?_, fun asked => ?_⟩
  · simpa only [requestLaw, same.table, same.nextAge, same.px] using h.requests
  · rw [queue, List.pairwise_map]
    exact h.entries.1.imp fun lt => by rw [ages, ages]; exact lt
  · rw [queue, same.table]
    intro d mem
    obtain ⟨e, there, rfl⟩ := List.mem_map.mp mem
    obtain ⟨⟨r, live, own, state, -⟩, -⟩ := h.entries.2 e there
    rw [ages]
    exact ⟨⟨r, live, own, state, fun gone => spares e there r live own gone⟩, marks e there⟩
  · simpa only [laneLaw, lanes, same.table] using h.lanes
  · rw [partsLaw, same.table, queue]
    intro r live
    have count : ((s.req.queue.map g).filter fun e => decide (e.age = r.age)).length
        = (s.req.queue.filter fun e => decide (e.age = r.age)).length := by
      rw [List.filter_map, List.length_map]
      exact congrArg List.length (List.filter_congr fun e _ => by simp [ages])
    rw [count, laneOf_congr lanes]
    exact h.parts r live
  · simpa only [lineLaw, same.table, same.line] using h.line
  · exact ownerLaw_congr (congrArg PixelStore.geometry same.px) (congrArg PixelStore.pixels same.px)
      (congrArg PixelStore.tiles same.px) lanes h.owner
  · rw [orderLaw, queue, same.table]
    intro d mem q live own r live'
    obtain ⟨e, there, rfl⟩ := List.mem_map.mp mem
    rw [ages] at own
    simp only [lanes]
    exact ⟨(h.order asked e there q live own r live').1, fun w walk same =>
      (fits w walk).order asked e there q live own r live' same⟩
  · simpa only [rowsKept, rowsBuffered, same.table, same.nextAge, same.buffer, same.writing] using h.rows asked
  · obtain ⟨ofLanes, -⟩ := h.start asked
    refine ⟨by simpa only [lanes, allRowsWritten, same.table] using ofLanes, fun w walk ready => ?_⟩
    rw [same.table]
    exact (fits w walk).start asked ready

/-! ### Passes (R80 to R84) -/

/-- No older entry's rectangle meets a request's (R82). -/
theorem not_older_intersects (h : Holds k x s) {r : Request} (clear : olderIntersects s r = false) :
    ∀ e ∈ s.req.queue, ∀ q ∈ s.req.table, q.age = e.age → q.rect.intersects r.rect = true → r.age ≤ q.age := by
  intro e mem q live own meets
  by_contra older
  have found : findAge s e.age = some q := own ▸ findAge_of_mem h.requests live
  have no := List.any_eq_false.mp clear e mem
  rw [found] at no
  have lt : e.age < r.age := by omega
  simp [meets, lt] at no

/-- The walk of an entry begins (R84). -/
theorem Holds.beginWalk (h : Holds k none s) (idle : s.adm.walk = none) {r : Request} {e : QueueEntry} (band : Nat)
    (live : r ∈ s.req.table) (mem : e ∈ s.req.queue) (own : e.age = r.age) (clear : olderIntersects s r = false) :
    Holds k none (beginWalk r band s) := by
  have walk : (Machine.beginWalk r band s).adm.walk = some
      { age := r.age, band := band, mode := r.startingMode, dataReady := r.dataReady, pages := r.pages, readings := [] } := by
    simp [Machine.beginWalk]
  have unmarked : ∀ d ∈ s.req.queue, d.admitting = false := fun d there => by
    rw [Bool.eq_false_iff, ne_eq, (h.entries.2 d there).2]
    rintro ⟨w, walking, -⟩
    rw [idle] at walking
    cases walking
  refine h.rewalked ⟨by simp [Machine.beginWalk], by simp [Machine.beginWalk], by simp [Machine.beginWalk],
    by simp [Machine.beginWalk], by simp [Machine.beginWalk], by simp [Machine.beginWalk], by simp [Machine.beginWalk],
    by simp [Machine.beginWalk], by simp [Machine.beginWalk]⟩
    (g := fun d => if d.age = r.age then { d with admitting := true } else d) (by simp [Machine.beginWalk, updateEntry])
    (fun d => by split <;> rfl) (fun d there => ?_) (fun d there q live' same gone => ?_) ?_ ?_
  · rw [walk]
    by_cases here : d.age = r.age
    · simp [here]
    · simp [here, unmarked d there, Ne.symm here]
  · obtain ⟨⟨q₀, live₀, own₀, -, marked⟩, -⟩ := h.entries.2 d there
    obtain rfl := request_eq_of_age h.requests live' live₀ (same.trans own₀.symm)
    have marked := (marked gone).resolve_right (by simp)
    rw [unmarked d there] at marked
    cases marked
  · intro w walk'
    rw [walk] at walk'
    cases walk'
    refine ⟨⟨{ e with admitting := true }, ?_, own⟩, fun q _ _ => ⟨Nat.zero_le _, fun i x read => by simp at read⟩⟩
    simp only [Machine.beginWalk, beginWait_keeps, updateEntry]
    exact List.mem_map.mpr ⟨e, mem, if_pos own⟩
  · intro w walk'
    rw [walk] at walk'
    cases walk'
    refine ⟨fun _ d there q live' same r' live'' own' meets => ?_, fun _ ready r' live'' own' => ?_⟩
    · obtain rfl := request_eq_of_age h.requests live'' live own'
      exact not_older_intersects h clear d there q live' same meets
    · obtain rfl := request_eq_of_age h.requests live'' live own'
      simpa [Request.dataReady] using ready

/-- A part resolved without a lane (R42, R43). -/
theorem Holds.resolveEntry (h : Holds k none s) {age : Nat} {e : QueueEntry} (o : ReqOutcome) (found : entryOf s age = some e)
    (waits : isAdmitting s age = false) : Holds k none (resolveEntry age o s) := by
  obtain ⟨mem, own⟩ := mem_of_entryOf found
  exact h.dropEntry_of_entry o mem own (by simpa [isAdmitting, found] using waits) fun a no => by cases no

theorem Holds.endPass (h : Holds k spared s) : Holds k spared (endPass s) :=
  h.quiet (by constructor <;> simp)

/-- A pass over entries, with no walk in flight (R81). -/
theorem Holds.runPass (ages : List Nat) {s : State} (h : Holds k none s) (idle : s.adm.walk = none)
    (running : s.adm.passRunning = true) : Holds k none (runPass ages s) ∧ passLaw (runPass ages s) := by
  have ended : ∀ {t : State}, Holds k none t → t.adm.walk = none →
      Holds k none (Machine.endPass t) ∧ passLaw (Machine.endPass t) :=
    fun held idle => ⟨held.endPass, by simp [passLaw, Machine.endPass, idle]⟩
  induction ages generalizing s with
  | nil => exact ended h idle
  | cons age rest ih =>
    unfold Machine.runPass
    split
    · rename_i e r entry found
      have waits := isAdmitting_of_no_walk h idle
      split
      · exact ih h idle running
      · split
        · exact ih h idle running
        · rename_i clear
          split
          · rename_i band _ _
            split
            · refine ih (((h.resolveEntry _ entry (waits age)).judgeFinish age).judgeJobs) ?_ ?_
              · simpa [resolveUnsupported] using idle
              · simpa [resolveUnsupported] using running
            · obtain ⟨mem, own⟩ := mem_of_entryOf entry
              refine ⟨h.beginWalk idle band (mem_of_findAge found) mem (own.trans (age_of_findAge found).symm)
                (by simpa using clear), ?_⟩
              simpa [passLaw, Machine.beginWalk] using running
          · exact ended h idle
    · exact ih h idle running

/-- The laws with that of the pass: what holds between events. -/
def Lawful (k : Asked) (s : State) : Prop := Holds k none s ∧ passLaw s

/-- What leaves the books, the Pixel Store and the pass alone keeps the laws. -/
theorem Lawful.quiet (h : Lawful k s) (quiet : Quiet s u) (running : u.adm.passRunning = s.adm.passRunning) : Lawful k u :=
  ⟨h.1.quiet quiet, by rw [passLaw, running, quiet.walk]; exact h.2⟩

theorem Lawful.tryPass (h : Lawful k s) : Lawful k (tryPass s) := by
  unfold Machine.tryPass
  split
  · rename_i due
    simp only [Bool.and_eq_true, Bool.not_eq_true'] at due
    have idle : s.adm.walk = none := by
      have pass := h.2
      rw [passLaw, due.2] at pass
      simpa using pass.symm
    unfold startPass
    refine Holds.runPass _ (h.1.quiet ?_) idle rfl
    exact (by constructor <;> simp)
  · exact h

/-- The end of every event keeps the laws. -/
theorem Lawful.finish (h : Lawful k s) (b : State) : Lawful k (finish b s) := by
  have noted : Lawful k (noteHolds b s) := h.quiet (by constructor <;> simp) (by simp)
  refine noted.tryPass.quiet (u := Machine.finish b s)
    (by constructor <;> simp [Machine.finish]) ?_
  simp [Machine.finish]

/-- The pass moves on behind the walk of an entry (R81, R83). -/
theorem Holds.resumePass (h : Holds k none s) (idle : s.adm.walk = none) (running : s.adm.passRunning = true) (age : Nat) :
    Lawful k (resumePass age s) := by
  unfold Machine.resumePass
  split
  · exact ⟨h.endPass, by simp [passLaw, Machine.endPass, idle]⟩
  · exact h.runPass _ idle running

end

end Sys2Proof.Machine
end

section
/-!
PROOF. What an admission walk reads, and what its judgement admits (chapter 05).
-/

namespace Sys2Proof.Machine

open Sys2Proof.Safety

/-! ### Readings (R84 to R86) -/

section
variable {k : Asked} {x : Option Nat} {s : State}

/-- A position of a rectangle in the panel is in the panel. -/
theorem position_inside {r : Rect} (ok : rectCheck s.px.geometry r = none) {i : Nat} (lt : i < r.area) :
    (r.position i).1 < panelWidth s ∧ r.contains (r.position i).1 (r.position i).2 = true := by
  have there := ((r.position_eq_iff lt _ _).mp ⟨rfl, rfl⟩).1
  have inside := rectCheck_none ok
  have column := ((r.contains_iff _ _).mp there).2.1
  exact ⟨by omega, there⟩

/-- What a walk reads is true when it reads it (R3, R11, R85). -/
theorem readingLaw_readPixel (owners : ownerLaw s) (w : AdmissionWalk) {r : Request}
    (ok : rectCheck s.px.geometry r.rect = none) {i : Nat} (lt : i < r.rect.area) :
    readingLaw s r.rect i (readPixel s w r i) := by
  obtain ⟨inside, -⟩ := position_inside ok lt
  constructor
  · intro free
    refine ⟨?_, fun set => set⟩
    cases own : (pixelAt s (r.rect.position i).1 (r.rect.position i).2).owner with
    | none => rfl
    | some l =>
      have tile := (owners _ _ l inside own).1
      have listed : (tileLanes s (tileOf s (r.rect.position i).1 (r.rect.position i).2)).isEmpty = false := by
        rw [List.isEmpty_eq_false_iff_exists_mem]
        exact ⟨l, tile⟩
      simp only [readPixel, ownershipRead, ownerRead, listed, Bool.false_eq_true, if_false, own] at free
      split at free <;> cases free
  · intro foreign
    simp only [readPixel, ownershipRead, ownerRead] at foreign ⊢
    split at foreign
    · cases foreign
    · rename_i l read
      split at foreign
      · rename_i other
        split at read
        · cases read
        · exact List.any_eq_true.mpr ⟨l, (owners _ _ l inside read).1, other⟩
      · cases foreign

/-- A walk that goes forward has true readings, no more than its rectangle's pixels (R84). -/
theorem readings_advanceWalk (h : Holds k x s) {w : AdmissionWalk} (walk : s.adm.walk = some w) {r : Request}
    (live : r ∈ s.req.table) (own : r.age = w.age) (n : Nat) :
    (advanceWalk s r n w).readings.length ≤ r.rect.area
      ∧ ∀ i y, (advanceWalk s r n w).readings[i]? = some y → readingLaw s r.rect i y := by
  obtain ⟨bounded, each⟩ := (h.readings w walk).2 r live own
  simp only [advanceWalk, List.length_append, List.length_map, List.length_range']
  refine ⟨by omega, fun i y read => ?_⟩
  rw [List.getElem?_append] at read
  split at read
  · exact each i y read
  · rw [List.getElem?_map, Option.map_eq_some_iff] at read
    obtain ⟨j, at_j, rfl⟩ := read
    obtain ⟨lt, value⟩ := List.getElem?_eq_some_iff.mp at_j
    rw [List.length_range'] at lt
    rw [List.getElem_range', Nat.one_mul] at value
    have here : i = j := by omega
    subst here
    exact readingLaw_readPixel h.owner w (h.requests.2.2 r live).2.2.1 (by omega)

end

/-! ### The judgement (R86 to R93) -/

/-- A pixel that an admission may take: read free, and not indeterminate but in BLANK or CLEAR (R3, R89). -/
def Reading.takable (m : Mode) (x : Reading) : Prop :=
  x.ownership = .free ∧ (x.indeterminate = true → m = .blank ∨ m = .clear)

/-- Readings that lie, with their positions, in a list of readings. -/
def numberedIn (xs : List Reading) (ps : List (Nat × Reading)) : Prop := ∀ p ∈ ps, xs[p.1]? = some p.2

theorem numberedIn_filter (xs : List Reading) (keep : Nat × Reading → Bool) :
    numberedIn xs ((xs.zipIdx.map fun p => (p.2, p.1)).filter keep) := by
  intro p mem
  obtain ⟨q, listed, rfl⟩ := List.mem_map.mp (List.mem_filter.mp mem).1
  exact List.mem_zipIdx_iff_getElem?.mp listed

/-- A pixel naturally driven is none of a sibling's. -/
theorem Reading.free_of_natural {m : Mode} {x : Reading} (natural : x.natural m = true) (other : x.ownership ≠ .foreign) :
    x.ownership = .free := by
  unfold Reading.natural at natural
  cases own : x.ownership
  · rfl
  · simp [own] at natural
  · exact absurd own other

/-- The drive set of the collision stage: pixels read free, and a remainder only of a part that may be split (R12, R86, R87). -/
theorem collisionStage_drive {g : Granularity} {r : Request} {e : QueueEntry} {m : Mode} {xs : List Reading}
    {drive : List (Nat × Reading)} {remainder : Bool} (tiles : ∀ x ∈ xs, x.ownership = .foreign → x.tileForeign = true)
    (stage : collisionStage g r e m xs = some (drive, remainder)) :
    numberedIn xs drive ∧ (∀ p ∈ drive, p.2.ownership = .free) ∧ (remainder = true → r.partsUsed < Config.partsPerRequest) := by
  have listed : ∀ p ∈ xs.zipIdx.map (fun p => (p.2, p.1)), p.2 ∈ xs := fun p mem => by
    obtain ⟨q, there, rfl⟩ := List.mem_map.mp mem
    exact List.fst_mem_of_mem_zipIdx there
  unfold collisionStage at stage
  simp only at stage
  split at stage
  · cases stage
  · split at stage
    · rename_i collides
      split at stage
      · cases stage
      · split at stage
        · cases stage
        · split at stage
          · cases stage
          · rename_i room
            cases stage
            refine ⟨numberedIn_filter _ _, fun p mem => ?_, fun _ => Nat.lt_of_not_le room⟩
            obtain ⟨there, kept⟩ := List.mem_filter.mp mem
            simp only [Bool.and_eq_true, Bool.not_eq_true'] at kept
            refine Reading.free_of_natural kept.1 fun foreign => ?_
            have apart := kept.2
            cases g with
            | pixel => simp [Reading.collides, foreign] at apart
            | tile =>
              have blocked : p.2.tile ∈ blockedTiles xs :=
                List.mem_map_of_mem (List.mem_filter.mpr ⟨listed p there, tiles p.2 (listed p there) foreign⟩)
              simp [Reading.collides, blocked] at apart
    · rename_i clear
      cases stage
      refine ⟨numberedIn_filter _ _, fun p mem => ?_, fun no => by cases no⟩
      obtain ⟨there, natural⟩ := List.mem_filter.mp mem
      refine Reading.free_of_natural natural fun foreign => clear ?_
      cases g with
      | pixel => exact List.any_eq_true.mpr ⟨p.2, listed p there, by simp [natural, foreign]⟩
      | tile =>
        have blocked : p.2.tile ∈ blockedTiles xs :=
          List.mem_map_of_mem (List.mem_filter.mpr ⟨listed p there, tiles p.2 (listed p there) foreign⟩)
        simp only [collision, Bool.not_eq_true', List.isEmpty_eq_false_iff_exists_mem]
        exact ⟨_, blocked⟩

/-- An upgrade is to BLANK or CLEAR (R89, R90). -/
theorem ghostVerdict_upgrades {p : GhostPolicy} {rl bl : Nat} {m mode : Mode} {xs : List Reading} {reason : UpgradeReason}
    (verdict : ghostVerdict p (ghostFailure rl bl m xs) = .upgrades reason mode) : mode = .blank ∨ mode = .clear := by
  have failed : ∀ r n, ghostFailure rl bl m xs = some (r, n) → n = .blank ∨ n = .clear := by
    intro r n failure
    unfold ghostFailure at failure
    (repeat' split at failure) <;> cases failure
    · exact .inl rfl
    · exact .inr rfl
    · exact .inr rfl
  unfold ghostVerdict at verdict
  split at verdict
  · cases verdict
  · rename_i r n failure
    have done := failed r n failure
    split at verdict
    · cases verdict; exact done
    · cases verdict
    · split at verdict <;> cases verdict
      exact done

/-- A drive set that passes the ghost check has indeterminate pixels in BLANK alone (R89). -/
theorem ghostVerdict_passes {p : GhostPolicy} {rl bl : Nat} {m : Mode} {xs : List Reading}
    (verdict : ghostVerdict p (ghostFailure rl bl m xs) = .passes) {x : Reading} (mem : x ∈ xs) (set : x.indeterminate = true) :
    m = .blank := by
  by_contra other
  have failure : ghostFailure rl bl m xs = some (.indeterminate, .blank) := by
    have any : (xs.any fun x => x.indeterminate) = true := List.any_eq_true.mpr ⟨x, mem, set⟩
    simp [ghostFailure, other, any]
  rw [failure] at verdict
  cases p <;> simp [ghostVerdict] at verdict

/-- With nothing blocked every pixel was read free (R92). -/
theorem free_of_not_blocked {g : Granularity} {xs : List Reading} (clear : rectBlocked g xs = false) {x : Reading}
    (mem : x ∈ xs) : x.ownership = .free := by
  have no := List.any_eq_false.mp clear x mem
  simp only [Bool.or_eq_true, not_or, decide_eq_true_eq, not_not] at no
  exact no.1

/-- What an admission takes (R86 to R93). -/
structure Admits (lib : Library) (r : Request) (w : AdmissionWalk) (mode : Mode) (drive : List Nat) (remainder : Bool) :
    Prop where
  takes : ∀ i ∈ drive, ∃ x, w.readings[i]? = some x ∧ x.takable mode
  splits : remainder = true → r.partsUsed < Config.partsPerRequest
  early : earlyDataPasses lib w.band w.dataReady mode = true

theorem judgeWalk_admits {settings : Settings} {lib : Library} {r : Request} {e : QueueEntry} {w : AdmissionWalk} {mode : Mode}
    {reason : Option UpgradeReason} {drive : List Nat} {remainder : Bool}
    (tiles : ∀ x ∈ w.readings, x.ownership = .foreign → x.tileForeign = true)
    (judged : judgeWalk settings lib r e w = .admits mode reason drive remainder) : Admits lib r w mode drive remainder := by
  unfold judgeWalk at judged
  simp only at judged
  split at judged
  · cases judged
  · rename_i taken rest stage
    obtain ⟨numbered, free, splits⟩ := collisionStage_drive tiles stage
    split at judged
    · split at judged <;> cases judged
    · split at judged
      · cases judged
      · rename_i verdict
        split at judged
        · cases judged
        · rename_i clear
          simp only [Bool.or_eq_true, Bool.not_eq_true', not_or, Bool.not_eq_false, Bool.not_eq_true] at clear
          cases judged
          refine ⟨fun i mem => ?_, fun no => absurd no (by simp), clear.2⟩
          have lt : i < w.readings.length := List.mem_range.mp mem
          exact ⟨w.readings[i], List.getElem?_eq_getElem lt,
            free_of_not_blocked clear.1 (List.getElem_mem lt), fun _ => ghostVerdict_upgrades verdict⟩
      · rename_i verdict
        split at judged
        · rename_i early
          cases judged
          refine ⟨fun i mem => ?_, splits, early⟩
          obtain ⟨p, there, rfl⟩ := List.mem_map.mp mem
          exact ⟨p.2, numbered p there, free p there, fun set =>
            .inl (ghostVerdict_passes verdict (List.mem_map_of_mem there) set)⟩
        · cases judged

end Sys2Proof.Machine
end

section
/-!
PROOF. The end of an admission walk keeps the laws (chapter 05).
-/

namespace Sys2Proof.Machine

open Sys2Proof.Safety

/-! ### An admission (R94, R95) -/

/-- A record behind an admission (R39, R44, R94): one part more where a remainder is left. -/
def Request.admitted (mode : Mode) (band : Nat) (remainder : Bool) (q : Request) : Request :=
  { q with
    modeUsed := some mode, bandUsed := some band, partsUsed := q.partsUsed + remainder.toNat
    state := if q.state = .openState ∧ q.withdrawn = false then .running else q.state }

theorem Request.admitted_state {mode : Mode} {band : Nat} {remainder : Bool} {q : Request} :
    (q.admitted mode band remainder).state = .reporting ↔ q.state = .reporting := by
  simp only [admitted]
  split
  · rename_i first
    rw [first.1]
    simp
  · exact .rfl

theorem Request.admitted_carries (mode : Mode) (band : Nat) (remainder : Bool) (q : Request) :
    q.Carries (q.admitted mode band remainder) :=
  { Request.Told.rfl.toCarries with reports := fun reporting => .inl (admitted_state.mp reporting) }

/-- What an admission changes: the request's record, its entry, a lane armed for it, owners and tile entries. -/
structure Arms (s u : State) (r : Request) (l : LaneId) (ln : Lane) (mode : Mode) (band : Nat) (drive : List Nat)
    (remainder : Bool) : Prop where
  bytes : u.pool.bytes = s.pool.bytes
  overlays : u.copier.overlays = s.copier.overlays
  nextAge : u.req.nextAge = s.req.nextAge
  buffer : u.inflow.buffer = s.inflow.buffer
  writing : u.inflow.writing = s.inflow.writing
  line : u.req.line = s.req.line
  walk : u.adm.walk = none
  geometry : u.px.geometry = s.px.geometry
  pixelWalk : u.px.walk = s.px.walk
  wf : pixelsWf u.px.pixels = true
  pixels : ∀ x y, x < panelWidth s → pixelAt u x y =
    if r.rect.contains x y = true ∧ r.rect.indexOf x y ∈ drive then { pixelAt s x y with owner := some l } else pixelAt s x y
  tiles : ∀ tile m, m ∈ tileLanes s tile → m ∈ tileLanes u tile
  touched : ∀ x y, r.rect.contains x y = true → l ∈ tileLanes u (tileOf s x y)
  lanes : ∀ m, laneAt u m = if m = l then some ln else laneAt s m
  table : u.req.table = s.req.table.map fun q => if q.age = r.age then q.admitted mode band remainder else q
  queue : u.req.queue = if remainder = true then
      s.req.queue.map fun d =>
        if d.age = r.age then { age := r.age, part := r.partsUsed + 1, upgradePending := false, admitting := false } else d
    else s.req.queue.filter fun d => d.age ≠ r.age

section
variable {k : Asked} {s u : State} {r : Request} {l : LaneId} {ln : Lane} {mode : Mode} {band : Nat} {drive : List Nat}
  {remainder : Bool}

/-- An entry behind an admission is one that was there, or the remainder's in its place. -/
theorem Arms.entry_back (arms : Arms s u r l ln mode band drive remainder) {d : QueueEntry} (mem : d ∈ u.req.queue) :
    ∃ e ∈ s.req.queue, e.age = d.age ∧ (d = e ∧ d.age ≠ r.age ∨ d.age = r.age ∧ d.admitting = false) := by
  rw [arms.queue] at mem
  split at mem
  · obtain ⟨e, there, rfl⟩ := List.mem_map.mp mem
    refine ⟨e, there, ?_⟩
    by_cases here : e.age = r.age
    · simp [here]
    · simp [here]
  · obtain ⟨there, other⟩ := List.mem_filter.mp mem
    exact ⟨d, there, rfl, .inl ⟨rfl, by simpa using other⟩⟩

/-- One element more satisfies a condition. -/
theorem length_filter_with {α : Type} {p q : α → Bool} {a : α} {l : List α} (distinct : l.Nodup) (mem : a ∈ l)
    (before : p a = false) (after : q a = true) (others : ∀ b, b ≠ a → q b = p b) :
    (l.filter q).length = (l.filter p).length + 1 := by
  induction l with
  | nil => cases mem
  | cons b l ih =>
    rw [List.nodup_cons] at distinct
    by_cases here : b = a
    · subst here
      have rest : l.filter q = l.filter p := List.filter_congr fun c there =>
        others c fun same => distinct.1 (same ▸ there)
      simp [before, after, rest]
    · have there := (List.mem_cons.mp mem).resolve_left (Ne.symm here)
      rw [List.filter_cons, List.filter_cons, others b here]
      split <;> simp [ih distinct.2 there]

/-- A lane more is armed: one more of the request's lanes, none more of any other's. -/
theorem Arms.lane_count (arms : Arms s u r l ln mode band drive remainder) (free : laneAt s l = none) (tag : Nat) :
    (allLanes.filter (laneOf u tag fun _ => true)).length
      = (allLanes.filter (laneOf s tag fun _ => true)).length + if ln.tag = tag then 1 else 0 := by
  by_cases own : ln.tag = tag
  · rw [if_pos own]
    exact length_filter_with allLanes_nodup (mem_allLanes l) (by simp [laneOf, free]) (by simp [laneOf, arms.lanes, own])
      fun m other => by simp [laneOf, arms.lanes, other]
  · have same : laneOf u tag (fun _ => true) = laneOf s tag fun _ => true := by
      funext m
      by_cases here : m = l
      · simp [laneOf, arms.lanes, here, own, free]
      · simp [laneOf, arms.lanes, here]
    rw [same, if_neg own, Nat.add_zero]

/-- Every record is there still, and its own request's is told of the admission. -/
theorem Arms.carries (arms : Arms s u r l ln mode band drive remainder) {q : Request} (live : q ∈ s.req.table) :
    ∃ p ∈ u.req.table, q.Carries p ∧ p.partsFinished = q.partsFinished ∧ (p.state = .reporting ↔ q.state = .reporting)
      ∧ p.partsUsed = q.partsUsed + if q.age = r.age then remainder.toNat else 0 := by
  refine ⟨_, by rw [arms.table]; exact List.mem_map_of_mem live, ?_⟩
  split
  · exact ⟨q.admitted_carries mode band remainder, rfl, Request.admitted_state, rfl⟩
  · exact ⟨Request.Told.rfl.toCarries, rfl, .rfl, rfl⟩

theorem Arms.carries_back (arms : Arms s u r l ln mode band drive remainder) {p : Request} (there : p ∈ u.req.table) :
    ∃ q ∈ s.req.table, q.Carries p ∧ p.partsFinished = q.partsFinished ∧ (p.state = .reporting ↔ q.state = .reporting)
      ∧ p.partsUsed = q.partsUsed + if q.age = r.age then remainder.toNat else 0 := by
  rw [arms.table] at there
  obtain ⟨q, live, rfl⟩ := List.mem_map.mp there
  refine ⟨q, live, ?_⟩
  split
  · exact ⟨q.admitted_carries mode band remainder, rfl, Request.admitted_state, rfl⟩
  · exact ⟨Request.Told.rfl.toCarries, rfl, .rfl, rfl⟩

theorem Arms.requests (arms : Arms s u r l ln mode band drive remainder) (law : requestLaw s) (live : r ∈ s.req.table)
    (first : r.state ≠ .reporting) (splits : remainder = true → r.partsUsed < Config.partsPerRequest) : requestLaw u := by
  have age : ∀ q : Request, (if q.age = r.age then q.admitted mode band remainder else q).age = q.age := fun q => by
    split <;> rfl
  have tag : ∀ q : Request, (if q.age = r.age then q.admitted mode band remainder else q).tag = q.tag := fun q => by
    split <;> rfl
  refine ⟨?_, ?_, fun p there => ?_⟩
  · rw [arms.table, List.pairwise_map]
    exact law.1.imp fun lt => by rw [age, age]; exact lt
  · rw [arms.table, List.pairwise_map]
    exact law.2.1.imp fun ne => by rw [tag, tag]; exact ne
  · obtain ⟨q, live', carried, finished, state, used⟩ := arms.carries_back there
    obtain ⟨older, parts, ok, reporting⟩ := law.2.2 q live'
    rw [arms.nextAge, arms.geometry, carried.age, carried.rect, carried.withdrawn, finished, used]
    by_cases own : q.age = r.age
    · obtain rfl := request_eq_of_age law live' live own
      refine ⟨older, ?_, ok, fun enters => absurd (state.mp enters) first⟩
      rw [if_pos own]
      cases remainder with
      | false => exact parts
      | true => exact splits rfl
    · rw [if_neg own]
      exact ⟨older, parts, ok, fun enters => reporting (state.mp enters)⟩

theorem Arms.entries (arms : Arms s u r l ln mode band drive remainder) (law : entriesLaw (some r.age) s)
    (idle : s.adm.walk = none) : entriesLaw (some r.age) u := by
  refine ⟨?_, fun d mem => ?_⟩
  · rw [arms.queue]
    split
    · rw [List.pairwise_map]
      exact law.1.imp fun {a b} lt => by by_cases ha : a.age = r.age <;> by_cases hb : b.age = r.age <;> simp_all
    · exact law.1.sublist List.filter_sublist
  · obtain ⟨e, there, same, kind⟩ := arms.entry_back mem
    obtain ⟨⟨q, live, own, state, spares⟩, marked⟩ := law.2 e there
    obtain ⟨p, there', carried, -, reporting, -⟩ := arms.carries live
    refine ⟨⟨p, there', carried.age.trans (own.trans same), fun enters => state (reporting.mp enters), fun gone => ?_⟩, ?_⟩
    · rcases kind with ⟨rfl, -⟩ | ⟨here, -⟩
      · exact spares (carried.withdrawn ▸ gone)
      · exact .inr (by rw [here])
    · rw [arms.walk]
      rw [idle] at marked
      rcases kind with ⟨rfl, -⟩ | ⟨-, waits⟩
      · simpa using marked
      · simp [waits]

theorem Arms.laneLaw (arms : Arms s u r l ln mode band drive remainder) (law : laneLaw s) (live : r ∈ s.req.table)
    (tag : ln.tag = r.tag) (rect : ln.rect = r.rect) : laneLaw u := by
  intro m ln' used
  have origin : ∃ q ∈ s.req.table, q.tag = ln'.tag ∧ q.rect = ln'.rect := by
    rw [arms.lanes] at used
    split at used
    · cases used
      exact ⟨r, live, tag.symm, rect.symm⟩
    · exact law m ln' used
  obtain ⟨q, there, tag', rect'⟩ := origin
  obtain ⟨p, there', carried, -⟩ := arms.carries there
  exact ⟨p, there', carried.tag.trans tag', carried.rect.trans rect'⟩

theorem Arms.parts (arms : Arms s u r l ln mode band drive remainder) (h : Holds k (some r.age) s) (live : r ∈ s.req.table)
    {e : QueueEntry} (mem : e ∈ s.req.queue) (own : e.age = r.age) (free : laneAt s l = none) (tag : ln.tag = r.tag) :
    partsLaw u := by
  intro p there
  obtain ⟨q, live', carried, finished, -, used⟩ := arms.carries_back there
  have count := h.parts q live'
  rw [used, finished, carried.age, carried.tag, arms.lane_count free, arms.queue]
  by_cases here : q.age = r.age
  · obtain rfl := request_eq_of_age h.requests live' live here
    have before : (s.req.queue.filter fun d => decide (d.age = q.age)).length = 1 := by
      rw [← own, entries_of_entry h.entries mem]; rfl
    rw [if_pos rfl, if_pos tag]
    cases remainder with
    | false =>
      have after : ((s.req.queue.filter fun d => d.age ≠ q.age).filter fun d => decide (d.age = q.age)) = [] := by
        rw [List.filter_filter, List.filter_eq_nil_iff]
        intro d _
        simp
      simp only [Bool.false_eq_true, if_false, after, List.length_nil, Bool.toNat_false]
      omega
    | true =>
      have after : ((s.req.queue.map fun d => if d.age = q.age then
            { age := q.age, part := q.partsUsed + 1, upgradePending := false, admitting := false } else d).filter
          fun d => decide (d.age = q.age)).length = (s.req.queue.filter fun d => decide (d.age = q.age)).length := by
        rw [List.filter_map, List.length_map]
        refine congrArg List.length (List.filter_congr fun d _ => ?_)
        by_cases same : d.age = q.age <;> simp [same]
      simp only [if_true, after, Bool.toNat_true]
      omega
  · have other : ln.tag ≠ q.tag := fun same => here (congrArg Request.age
      (request_eq_of_tag h.requests live' live (same.symm.trans tag)))
    have same : ((if remainder = true then s.req.queue.map fun d => if d.age = r.age then
            { age := r.age, part := r.partsUsed + 1, upgradePending := false, admitting := false } else d
          else s.req.queue.filter fun d => d.age ≠ r.age).filter fun d => decide (d.age = q.age)).length
        = (s.req.queue.filter fun d => decide (d.age = q.age)).length := by
      split
      · rw [List.filter_map, List.length_map]
        refine congrArg List.length (List.filter_congr fun d _ => ?_)
        by_cases of : d.age = r.age <;> simp [of]
      · rw [List.filter_filter]
        refine congrArg List.length (List.filter_congr fun d _ => ?_)
        by_cases of : d.age = q.age
        · simp [of, here]
        · simp [of]
    rw [if_neg here, if_neg other, same]
    omega

theorem Arms.ownerLaw (arms : Arms s u r l ln mode band drive remainder) (law : ownerLaw s) (free : laneAt s l = none)
    (rect : ln.rect = r.rect) (armed : ln.state = .armed)
    (takable : ∀ x y, r.rect.contains x y = true → r.rect.indexOf x y ∈ drive → (pixelAt s x y).indeterminate = true →
      ln.mode = .blank ∨ ln.mode = .clear) : ownerLaw u := by
  intro x y m inside owns
  rw [panelWidth_congr arms.geometry] at inside
  have tile : tileOf u x y = tileOf s x y := by simp only [tileOf, tileColumns, panelWidth_congr arms.geometry]
  rw [tile]
  rw [arms.pixels x y inside] at owns ⊢
  by_cases taken : r.rect.contains x y = true ∧ r.rect.indexOf x y ∈ drive
  · rw [if_pos taken] at owns ⊢
    obtain rfl := Option.some.inj owns
    refine ⟨arms.touched x y taken.1, ln, by rw [arms.lanes, if_pos rfl], rect ▸ taken.1, fun kind done retiring => ?_,
      takable x y taken.1 taken.2⟩
    rw [armed] at retiring
    cases retiring
  · rw [if_neg taken] at owns ⊢
    obtain ⟨listed, ln', used, rest⟩ := law x y m inside owns
    have other : m ≠ l := fun same => by
      rw [same, free] at used
      cases used
    exact ⟨arms.tiles _ m listed, ln', by rw [arms.lanes, if_neg other, used], rest⟩

theorem Arms.orderLaw (arms : Arms s u r l ln mode band drive remainder) (law : orderLaw s) (requests : requestLaw s)
    (live : r ∈ s.req.table) (tag : ln.tag = r.tag) (rect : ln.rect = r.rect)
    (order : ∀ e ∈ s.req.queue, ∀ q ∈ s.req.table, q.age = e.age → q.rect.intersects r.rect = true → r.age ≤ q.age) :
    orderLaw u := by
  intro d mem q there own p there'
  obtain ⟨e, listed, same, -⟩ := arms.entry_back mem
  obtain ⟨q₀, live₀, carried, -⟩ := arms.carries_back there
  obtain ⟨p₀, live₁, carried', -⟩ := arms.carries_back there'
  have own₀ : q₀.age = e.age := carried.age.symm.trans (own.trans same.symm)
  rw [carried.age, carried.rect, carried'.age, carried'.tag, arms.walk]
  refine ⟨fun m ln' used tag' meets => ?_, fun w walk => by cases walk⟩
  rw [arms.lanes] at used
  split at used
  · cases used
    obtain rfl := request_eq_of_tag requests live₁ live (tag'.trans tag)
    exact order e listed q₀ live₀ own₀ (rect ▸ meets)
  · exact (law e listed q₀ live₀ own₀ p₀ live₁).1 m ln' used tag' meets

theorem Arms.startLaw (arms : Arms s u r l ln mode band drive remainder) (law : startLaw s) (live : r ∈ s.req.table)
    (tag : ln.tag = r.tag) (armed : ln.state = .armed)
    (start : (ln.early = false → r.rowsWritten = r.rect.height) ∧ (ln.early = true → 0 < ln.leads)) : startLaw u := by
  have written : ∀ {ln' : Lane}, allRowsWritten s ln' → allRowsWritten u ln' := fun ⟨q, live', own, all⟩ => by
    obtain ⟨p, there, carried, -⟩ := arms.carries live'
    exact ⟨p, there, carried.tag.trans own, by rw [carried.rowsWritten, carried.rect, all]⟩
  refine ⟨fun m ln' used => ?_, fun w walk => by rw [arms.walk] at walk; cases walk⟩
  rw [arms.lanes] at used
  split at used
  · cases used
    refine ⟨fun active => ?_, fun _ data => written ⟨r, live, tag.symm, start.1 data⟩, fun _ early => start.2 early⟩
    rw [armed] at active
    cases active
  · obtain ⟨active, late, early⟩ := law.1 m ln' used
    exact ⟨fun state index => written (active state index), fun state data => written (late state data), early⟩

/-- An admission keeps the laws: of a request whose walk has found its pixels takable and fits the order (R3, R82, R94, R95,
R103). -/
theorem Holds.arms (h : Holds k (some r.age) s) (arms : Arms s u r l ln mode band drive remainder) (live : r ∈ s.req.table)
    {e : QueueEntry} (mem : e ∈ s.req.queue) (own : e.age = r.age) (idle : s.adm.walk = none) (free : laneAt s l = none)
    (tag : ln.tag = r.tag) (rect : ln.rect = r.rect) (armed : ln.state = .armed)
    (takable : ∀ x y, r.rect.contains x y = true → r.rect.indexOf x y ∈ drive → (pixelAt s x y).indeterminate = true →
      ln.mode = .blank ∨ ln.mode = .clear)
    (splits : remainder = true → r.partsUsed < Config.partsPerRequest)
    (order : k.order → ∀ e ∈ s.req.queue, ∀ q ∈ s.req.table, q.age = e.age → q.rect.intersects r.rect = true → r.age ≤ q.age)
    (start : k.start → (ln.early = false → r.rowsWritten = r.rect.height) ∧ (ln.early = true → 0 < ln.leads)) :
    Holds k (some r.age) u := by
  obtain ⟨⟨owner, ownerLive, ownerAge, notReporting, -⟩, -⟩ := h.entries.2 e mem
  obtain rfl := request_eq_of_age h.requests ownerLive live (ownerAge.trans own)
  refine ⟨⟨by rw [arms.bytes]; exact h.stores.1, arms.wf⟩, arms.requests h.requests live notReporting splits,
    arms.entries h.entries idle, arms.laneLaw h.lanes live tag rect, arms.parts h live mem own free tag,
    ⟨by rw [arms.line]; exact h.line.1, fun p there => ?_⟩, fun w walk => absurd (arms.walk.symm.trans walk) (by simp),
    arms.ownerLaw h.owner free rect armed takable, rectLaw_congr arms.geometry arms.pixelWalk arms.overlays h.rects,
    fun asked => arms.orderLaw (h.order asked) h.requests live tag rect (order asked),
    fun asked => rowsKept_carried (h.rows asked) arms.buffer (by rw [arms.writing]) arms.nextAge fun q there => ?_,
    fun asked => arms.startLaw (h.start asked) live tag armed (start asked)⟩
  · rw [arms.line] at there
    obtain ⟨q, live', same, reporting⟩ := h.line.2 p there
    obtain ⟨q', there', carried, -, state, -⟩ := arms.carries live'
    exact ⟨q', there', carried.age.trans same, state.mpr reporting⟩
  · obtain ⟨q₀, live₀, carried, -⟩ := arms.carries_back there
    exact ⟨q₀, live₀, carried⟩

end

end Sys2Proof.Machine
end

section
/-!
PROOF. The end of an admission walk, from its readings to the pass that moves on (chapter 05).
-/

namespace Sys2Proof.Machine

open Sys2Proof.Safety

/-! ### What `admitWalk` does, told field by field -/

section
variable {s : State} {r : Request} {l : LaneId} {e : QueueEntry} {w : AdmissionWalk} {mode : Mode} {drive : List Nat}
  {remainder : Bool}

theorem admitWalk_px (l : LaneId) (r : Request) (e : QueueEntry) (w : AdmissionWalk) (mode : Mode) (drive : List Nat)
    (remainder : Bool) (s : State) :
    (admitWalk l r e w mode drive remainder s).px =
      { s.px with
        pixels := (ownPixels l r.rect drive (setLane l (some (armedLane s.lib r e w mode drive.length)) s)).px.pixels
        tiles := s.px.tiles ++ (touchedTiles s r.rect).map fun tile => (tile, l) } := by
  have tiles : ∀ t : State, t.px.geometry = s.px.geometry → touchedTiles t r.rect = touchedTiles s r.rect := fun t same => by
    simp only [touchedTiles, tileColumns, panelWidth, same]
  simp only [admitWalk, settleEntry_keeps, updateRequest_keeps]
  rw [addToTiles, tiles _ (by simp)]
  have same : ∀ p q : PixelStore, p.geometry = q.geometry → p.pixels = q.pixels → p.tiles = q.tiles → p.walk = q.walk → p = q := by
    rintro ⟨_, _, _, _⟩ ⟨_, _, _, _⟩ rfl rfl rfl rfl
    rfl
  exact same _ _ (by simp) (by simp) (by simp) (by simp)

theorem pixelsWf_ownPixels (l : LaneId) (rect : Rect) (drive : List Nat) {s : State} (wf : pixelsWf s.px.pixels = true) :
    pixelsWf (ownPixels l rect drive s).px.pixels = true := by
  unfold ownPixels
  induction drive generalizing s with
  | nil => exact wf
  | cons i drive ih => exact ih (putPixel_wf wf _ _)

/-- The tile of a pixel of a rectangle is one the rectangle touches (R11). -/
theorem tileOf_mem_touchedTiles {rect : Rect} {x y : Nat} (there : rect.contains x y = true) :
    tileOf s x y ∈ touchedTiles s rect := by
  obtain ⟨left, right, top, bottom⟩ := (rect.contains_iff x y).mp there
  have low := Nat.div_le_div_right (c := 32) top
  have high : y / 32 ≤ (rect.row + rect.height - 1) / 32 := Nat.div_le_div_right (by omega)
  have low' := Nat.div_le_div_right (c := 32) left
  have high' : x / 32 ≤ (rect.col + rect.width - 1) / 32 := Nat.div_le_div_right (by omega)
  refine List.mem_flatMap.mpr ⟨y / 32 - rect.row / 32, List.mem_range.mpr (by omega),
    List.mem_map.mpr ⟨x / 32 - rect.col / 32, List.mem_range.mpr (by omega), ?_⟩⟩
  rw [tileOf, Nat.add_sub_cancel' low, Nat.add_sub_cancel' low']

theorem admitWalk_table (l : LaneId) (r : Request) (e : QueueEntry) (w : AdmissionWalk) (mode : Mode) (drive : List Nat)
    (remainder : Bool) (s : State) :
    (admitWalk l r e w mode drive remainder s).req.table =
      s.req.table.map fun q => if q.age = r.age then q.admitted mode w.band remainder else q := by
  cases remainder with
  | false =>
    simp only [admitWalk, settleEntry, Bool.false_eq_true, if_false, removeEntry_keeps, updateRequest, addToTiles_keeps,
      ownPixels_keeps, setLane_keeps]
    rfl
  | true =>
    simp only [admitWalk, settleEntry, if_true, wantPass_keeps, updateRequest, updateEntry_keeps, addToTiles_keeps,
      ownPixels_keeps, setLane_keeps, List.map_map]
    refine List.map_congr_left fun q _ => ?_
    by_cases own : q.age = r.age
    · simp [own, Request.admitted]
    · simp [own]

theorem admitWalk_queue (l : LaneId) (r : Request) (e : QueueEntry) (w : AdmissionWalk) (mode : Mode) (drive : List Nat)
    (remainder : Bool) (s : State) :
    (admitWalk l r e w mode drive remainder s).req.queue = if remainder = true then
        s.req.queue.map fun d =>
          if d.age = r.age then { age := r.age, part := r.partsUsed + 1, upgradePending := false, admitting := false } else d
      else s.req.queue.filter fun d => d.age ≠ r.age := by
  cases remainder with
  | false => simp [admitWalk, settleEntry, removeEntry]
  | true => simp [admitWalk, settleEntry, updateEntry]

theorem admitWalk_lanes (l : LaneId) (r : Request) (e : QueueEntry) (w : AdmissionWalk) (mode : Mode) (drive : List Nat)
    (remainder : Bool) (s : State) (m : LaneId) :
    laneAt (admitWalk l r e w mode drive remainder s) m =
      if m = l then some (armedLane s.lib r e w mode drive.length) else laneAt s m := by
  rw [← laneAt_setLane]
  exact laneAt_congr (by simp [admitWalk]) m

/-- An entry is marked ADMITTING no longer. -/
def QueueEntry.unmarked (d : QueueEntry) : QueueEntry := { d with admitting := false }

/-- `admitWalk` arms, seen from the state in which the entry is no longer marked. -/
theorem admitWalk_arms (wf : pixelsWf s.px.pixels = true) (idle : s.adm.walk = none)
    (fits : r.rect.col + r.rect.width ≤ panelWidth s) (inside : ∀ i ∈ drive, i < r.rect.area) :
    Arms (updateEntry r.age QueueEntry.unmarked s) (admitWalk l r e w mode drive remainder s) r l
      (armedLane s.lib r e w mode drive.length) mode w.band drive remainder where
  bytes := by simp
  overlays := by simp
  nextAge := by simp
  buffer := by simp
  writing := by simp
  line := by simp
  walk := by simpa using idle
  geometry := by simp
  pixelWalk := by simp
  wf := by
    rw [admitWalk_px]
    exact pixelsWf_ownPixels l r.rect drive (s := setLane l _ s) wf
  pixels x y hx := by
    have write := pixelAt_foldl_updatePixel (r := r.rect) (f := fun p => { p with owner := some l }) (fun _ => rfl)
      (fun p => by simp [PixelRecord.initial]) drive inside
      (s := setLane l (some (armedLane s.lib r e w mode drive.length)) s) fits (x := x) (y := y) hx
    rw [pixelAt_congr (s := ownPixels l r.rect drive (setLane l (some (armedLane s.lib r e w mode drive.length)) s))
      (by simp) (by rw [admitWalk_px])]
    exact write
  tiles tile m mem := by
    simp only [tileLanes, admitWalk_px, List.filter_append, List.map_append]
    exact List.mem_append_left _ mem
  touched x y there := by
    simp only [tileLanes, admitWalk_px, List.filter_append, List.map_append]
    refine List.mem_append_right _ (List.mem_map.mpr ⟨(tileOf s x y, l), List.mem_filter.mpr ⟨?_, by simp; rfl⟩, rfl⟩)
    exact List.mem_map_of_mem (tileOf_mem_touchedTiles there)
  lanes := admitWalk_lanes l r e w mode drive remainder s
  table := admitWalk_table l r e w mode drive remainder s
  queue := by
    rw [admitWalk_queue]
    simp only [updateEntry, List.map_map, List.filter_map, Function.comp_def]
    split
    · refine List.map_congr_left fun d _ => ?_
      by_cases own : d.age = r.age <;> simp [own, QueueEntry.unmarked]
    · have ages : ∀ d : QueueEntry, (if d.age = r.age then d.unmarked else d).age = d.age := fun d => by split <;> rfl
      simp only [ages]
      refine ((List.map_congr_left fun d mem => ?_).trans (List.map_id _)).symm
      have other : d.age ≠ r.age := by simpa using (List.mem_filter.mp mem).2
      rw [if_neg other]
      rfl

end

/-! ### The walk's result (R42, R52, R54, R59) -/

section
variable {k : Asked} {s : State} {w : AdmissionWalk} {r : Request} {e : QueueEntry}

/-- The walk in flight has ended, and its entry is marked no longer: it may be that of a withdrawn request. -/
theorem Holds.walkOver (h : Holds k none s) (walk : s.adm.walk = some w) {f : QueueEntry → QueueEntry}
    (ages : ∀ d, (f d).age = d.age) (waits : ∀ d, (f d).admitting = false) :
    Holds k (some w.age) (updateEntry w.age f (dropWalk s)) := by
  refine h.rewalked (u := updateEntry w.age f (dropWalk s)) (by constructor <;> simp)
    (g := fun d => if d.age = w.age then f d else d) (by simp [updateEntry])
    (fun d => by split <;> simp [ages]) (fun d mem => ?_) (fun d mem q live own gone => ?_)
    (fun w' ended => by simp [dropWalk] at ended) (fun w' ended => by simp [dropWalk] at ended)
  · have ended : (updateEntry w.age f (dropWalk s)).adm.walk = none := by simp [dropWalk]
    rw [ended]
    by_cases here : d.age = w.age
    · simp [here, waits]
    · have unmarked : d.admitting = false := by
        rw [Bool.eq_false_iff, ne_eq, (h.entries.2 d mem).2]
        rintro ⟨w', walking, same⟩
        rw [walk] at walking
        cases walking
        exact here same.symm
      simp [here, unmarked]
  · obtain ⟨⟨q₀, live₀, own₀, -, marks⟩, marked⟩ := h.entries.2 d mem
    obtain rfl := request_eq_of_age h.requests live live₀ (own.trans own₀.symm)
    obtain ⟨w', walking, same⟩ := marked.mp ((marks gone).resolve_right (by simp))
    rw [walk] at walking
    cases walking
    exact .inr (by rw [same])

/-- Removing an entry does not see what was done to it. -/
theorem removeEntry_updateEntry (age : Nat) {f : QueueEntry → QueueEntry} (ages : ∀ d, (f d).age = d.age) (s : State) :
    removeEntry age (updateEntry age f s) = removeEntry age s := by
  have queue : ((s.req.queue.map fun d => if d.age = age then f d else d).filter fun d => d.age ≠ age)
      = s.req.queue.filter fun d => d.age ≠ age := by
    rw [List.filter_map]
    have same : ((fun d : QueueEntry => decide (d.age ≠ age)) ∘ fun d => if d.age = age then f d else d)
        = fun d => decide (d.age ≠ age) := by
      funext d
      by_cases here : d.age = age <;> simp [here, ages]
    rw [same]
    refine (List.map_congr_left fun d mem => ?_).trans (List.map_id _)
    have other : d.age ≠ age := by simpa using (List.mem_filter.mp mem).2
    rw [if_neg other]
    rfl
  simp only [removeEntry, updateEntry, queue]

theorem Holds.noteUpgrade {x : Option Nat} (h : Holds k x s) (age : Nat) (reason : UpgradeReason) (mode : Mode) :
    Holds k x (noteUpgrade age reason mode s) := by
  have counted : Holds k x { s with counters := { s.counters with upgrades := bump s.counters.upgrades } } :=
    h.quiet (by constructor <;> simp)
  refine Holds.raise ?_ .ghost
  exact counted.updateRequest age fun _ => { Request.Told.rfl with }

theorem Holds.noteRefusal {x : Option Nat} (h : Holds k x s) (age : Nat) (reason : UpgradeReason) :
    Holds k x (noteRefusal age reason s) := by
  have counted : Holds k x { s with counters := { s.counters with ghostRefusals := bump s.counters.ghostRefusals } } :=
    h.quiet (by constructor <;> simp)
  refine Holds.raise ?_ .ghost
  exact counted.updateRequest age fun _ => { Request.Told.rfl with }

/-- What a walk admits, armed in the lane found FREE (R94, R95). -/
theorem Holds.admitWalk (h : Holds k none s) (walk : s.adm.walk = some w) (live : r ∈ s.req.table) (own : r.age = w.age)
    (mem : e ∈ s.req.queue) (same : e.age = w.age) {l : LaneId} (free : laneAt s l = none) {whole : AdmissionWalk}
    (whole_eq : whole = advanceWalk s r r.rect.area w) {mode : Mode} {drive : List Nat} {remainder : Bool}
    (admits : Admits s.lib r whole mode drive remainder) :
    Holds k (some w.age) (admitWalk l r e whole mode drive remainder (dropWalk s)) := by
  obtain ⟨bounded, reads⟩ := readings_advanceWalk h walk live own r.rect.area
  rw [← whole_eq] at bounded reads
  have ready : whole.dataReady = w.dataReady := by rw [whole_eq]; rfl
  have inside : ∀ i ∈ drive, i < r.rect.area := fun i mem => by
    obtain ⟨x, there, -⟩ := admits.takes i mem
    exact Nat.lt_of_lt_of_le (List.getElem?_eq_some_iff.mp there).1 bounded
  have ok := (h.requests.2.2 r live).2.2.1
  have arms := admitWalk_arms (s := dropWalk s) (r := r) (l := l) (e := e) (w := whole) (mode := mode) (drive := drive)
    (remainder := remainder) (by simpa using h.stores.2) rfl (by simpa [panelWidth] using (rectCheck_none ok).1) inside
  have ended : Holds k (some r.age) (updateEntry r.age QueueEntry.unmarked (dropWalk s)) := by
    rw [own]
    exact h.walkOver walk (fun _ => rfl) fun _ => rfl
  have px : (updateEntry r.age QueueEntry.unmarked (dropWalk s)).px = s.px := by simp
  have entry : e.unmarked ∈ (updateEntry r.age QueueEntry.unmarked (dropWalk s)).req.queue :=
    List.mem_map.mpr ⟨e, by simpa using mem, if_pos (same.trans own.symm)⟩
  rw [← own]
  refine ended.arms arms (by simpa using live) entry (same.trans own.symm) rfl ?_ rfl rfl rfl ?_ admits.splits ?_ ?_
  · rw [laneAt_congr (s := s) (by simp)]
    exact free
  · intro x y there taken set
    rw [pixelAt_congr (s := s) (by rw [px]) (by rw [px])] at set
    obtain ⟨reading, there', isFree, may⟩ := admits.takes _ taken
    obtain ⟨hx, hy⟩ := (r.rect.position_eq_iff (Rect.indexOf_lt there) x y).mpr ⟨there, rfl⟩
    have law := (reads _ reading there').1 isFree
    rw [← hx, ← hy] at law
    exact may (law.2 set)
  · intro asked d there q live' same' meets
    obtain ⟨d₀, listed, rfl⟩ := List.mem_map.mp there
    have age : d₀.age = q.age := by
      rw [same']
      split <;> rfl
    exact (h.walkFits walk).order asked d₀ (by simpa using listed) q (by simpa using live') age.symm r live own meets
  · intro asked
    refine ⟨fun late => (h.walkFits walk).start asked (by simpa [armedLane, ready] using late) r live own, fun early => ?_⟩
    have passes := admits.early
    have notReady : whole.dataReady = false := by simpa [armedLane] using early
    simp only [earlyDataPasses, notReady, Bool.false_or, Bool.and_eq_true, decide_eq_true_eq] at passes
    simpa [armedLane] using passes.1

/-- The walk's result applied (R42). -/
theorem Holds.applyResult (h : Holds k none s) (walk : s.adm.walk = some w) (live : r ∈ s.req.table) (own : r.age = w.age)
    (mem : e ∈ s.req.queue) (same : e.age = w.age) {whole : AdmissionWalk} (whole_eq : whole = advanceWalk s r r.rect.area w) :
    Holds k (some w.age) (applyResult r e whole (judgeWalk s.settings s.lib r e whole) (dropWalk s)) := by
  have unmarked : ∀ {f : QueueEntry → QueueEntry}, (∀ d, (f d).age = d.age) → (∀ d, (f d).admitting = false) →
      Holds k (some w.age) (updateEntry r.age f (dropWalk s)) := fun ages waits => by
    rw [own]
    exact h.walkOver walk ages waits
  have resolved : ∀ o, Holds k (some w.age) (Machine.resolveEntry r.age o (dropWalk s)) := fun o => by
    have ended := unmarked (f := QueueEntry.unmarked) (fun _ => rfl) fun _ => rfl
    rw [Machine.resolveEntry, ← removeEntry_updateEntry r.age (f := QueueEntry.unmarked) (fun _ => rfl)]
    exact ended.dropEntry_of_entry o (e := e.unmarked)
      (List.mem_map.mpr ⟨e, by simpa using mem, if_pos (same.trans own.symm)⟩) (same.trans own.symm) rfl fun a => .inr
  unfold Machine.applyResult
  split
  · exact unmarked (fun _ => rfl) fun _ => rfl
  · exact (unmarked (f := fun d => { d with admitting := false, upgradePending := true }) (fun _ => rfl) fun _ => rfl).noteUpgrade
      _ _ _
  · rename_i mode reason drive remainder judged
    have admits := judgeWalk_admits (fun x there => by
      obtain ⟨i, at_i⟩ := List.mem_iff_getElem?.mp there
      exact ((readings_advanceWalk h walk live own r.rect.area).2 i x (whole_eq ▸ at_i)).2) judged
    split
    · exact unmarked (fun _ => rfl) fun _ => rfl
    · rename_i l lowest
      have free : laneAt s l = none := by
        have no := List.find?_some lowest
        rw [laneAt_congr (s := s) (by simp)] at no
        simpa using no
      have armed := h.admitWalk walk live own mem same free whole_eq admits
      split
      · exact armed
      · exact armed.noteUpgrade _ _ _
  · split
    · exact resolved _
    · exact (resolved _).noteRefusal _ _

/-- The end of the walk in flight keeps the laws, and the pass moves on (R42, R81, R95). -/
theorem Lawful.endWalk (h : Lawful k s) (walk : s.adm.walk = some w) : Lawful k (endWalk w s) := by
  obtain ⟨h, pass⟩ := h
  have running : s.adm.passRunning = true := by rw [passLaw, walk] at pass; simpa using pass
  obtain ⟨⟨d, there, age⟩, -⟩ := h.readings w walk
  obtain ⟨⟨q, live, own, -⟩, -⟩ := h.entries.2 d there
  have found : findAge s w.age = some q := by rw [← age, ← own]; exact findAge_of_mem h.requests live
  have entry : entryOf s w.age = some d := by
    cases there' : entryOf s w.age with
    | none => exact absurd (List.find?_eq_none.mp there' d there) (by simp [age])
    | some e =>
      obtain ⟨mem, same⟩ := mem_of_entryOf there'
      rw [entry_eq_of_age h.entries mem there (same.trans age.symm)]
  simp only [Machine.endWalk, found, entry, endAdmission, settleWalk]
  have applied := h.applyResult walk live (own.trans age) there age rfl
  have synced : Holds k (some w.age) (syncPower (Machine.applyResult q d (advanceWalk s q q.rect.area w)
      (judgeWalk s.settings s.lib q d (advanceWalk s q q.rect.area w)) (dropWalk s))) :=
    applied.quiet (by constructor <;> simp)
  refine Holds.resumePass (((synced.afterWalk (by simp [dropWalk])).judgeFinish w.age).judgeAfter s) ?_ ?_ w.age
  · simp [dropWalk]
  · simpa using running

end

end Sys2Proof.Machine
end

section
/-!
PROOF. Walks of the Pixel Store and of lanes, bursts and frames keep the laws (chapters 01, 06 and 10).
-/

namespace Sys2Proof.Machine

open Sys2Proof.Safety

/-! ### Lanes and pixels move, requests do not -/

/-- Requests, walk, buffer and writer are as they were, and every lane is of its request still. -/
structure Moves (s u : State) : Prop where
  req : u.req = s.req
  walk : u.adm.walk = s.adm.walk
  buffer : u.inflow.buffer = s.inflow.buffer
  writing : u.inflow.writing.isSome = s.inflow.writing.isSome
  geometry : u.px.geometry = s.px.geometry
  lanes : ∀ l, (laneAt u l).map (fun ln => (ln.tag, ln.rect)) = (laneAt s l).map fun ln => (ln.tag, ln.rect)

/-- A pixel without owner gets none, nor becomes indeterminate. -/
def keepsFree (s u : State) : Prop :=
  ∀ x y, x < panelWidth s → (pixelAt s x y).owner = none →
    (pixelAt u x y).owner = none ∧ ((pixelAt u x y).indeterminate = true → (pixelAt s x y).indeterminate = true)

section
variable {k : Asked} {spared : Option Nat} {s u : State}

theorem Moves.lane_back (moves : Moves s u) {l : LaneId} {ln' : Lane} (used : laneAt u l = some ln') :
    ∃ ln, laneAt s l = some ln ∧ ln.tag = ln'.tag ∧ ln.rect = ln'.rect := by
  have same := moves.lanes l
  rw [used, Option.map_some, eq_comm, Option.map_eq_some_iff] at same
  obtain ⟨ln, before, pair⟩ := same
  rw [Prod.mk.injEq] at pair
  exact ⟨ln, before, pair.1, pair.2⟩

theorem Moves.laneOf (moves : Moves s u) (tag : Nat) : (laneOf u tag fun _ => true) = laneOf s tag fun _ => true := by
  funext l
  have same := moves.lanes l
  cases before : laneAt s l <;> cases after : laneAt u l <;> simp_all [Machine.laneOf]

/-- Lanes and pixels that move keep the laws, given those of stores, rectangles, owners and starts. -/
theorem Holds.moved (h : Holds k spared s) (moves : Moves s u) (stores : storeLaw u) (rects : rectLaw u) (owner : ownerLaw u)
    (free : keepsFree s u) (start : k.start → startLaw u) : Holds k spared u := by
  obtain ⟨req, walk, buffer, writing, geometry, lanes⟩ := moves
  have moves : Moves s u := ⟨req, walk, buffer, writing, geometry, lanes⟩
  refine ⟨stores, ?_, ?_, fun l ln' used => ?_, ?_, ?_, fun w walking => ?_, owner, rects, fun asked => ?_, fun asked => ?_,
    start⟩
  · simpa only [requestLaw, req, geometry] using h.requests
  · simpa only [entriesLaw, req, walk] using h.entries
  · obtain ⟨ln, before, tag, rect⟩ := moves.lane_back used
    rw [req, ← tag, ← rect]
    exact h.lanes l ln before
  · simpa only [partsLaw, req, moves.laneOf] using h.parts
  · simpa only [lineLaw, req] using h.line
  · rw [walk] at walking
    obtain ⟨entry, read⟩ := h.readings w walking
    rw [req]
    refine ⟨entry, fun r live own => ⟨(read r live own).1, fun i x there => ?_⟩⟩
    obtain ⟨isFree, foreign⟩ := (read r live own).2 i x there
    refine ⟨fun own' => ?_, foreign⟩
    have lt : i < r.rect.area := Nat.lt_of_lt_of_le (List.getElem?_eq_some_iff.mp there).1 (read r live own).1
    obtain ⟨none, set⟩ := isFree own'
    obtain ⟨none', set'⟩ := free _ _ (position_inside (h.requests.2.2 r live).2.2.1 lt).1 none
    exact ⟨none', fun indeterminate => set (set' indeterminate)⟩
  · intro e mem q live own r live'
    rw [req] at mem live live'
    obtain ⟨ofLanes, ofWalk⟩ := h.order asked e mem q live own r live'
    refine ⟨fun l ln' used same meets => ?_, by rw [walk]; exact ofWalk⟩
    obtain ⟨ln, before, tag, rect⟩ := moves.lane_back used
    exact ofLanes l ln before (same.trans tag.symm) (rect ▸ meets)
  · simpa only [rowsKept, rowsBuffered, req, buffer, writing] using h.rows asked

/-- Pixels that are as they were keep free what was. -/
theorem keepsFree_of_eq (geometry : u.px.geometry = s.px.geometry) (pixels : u.px.pixels = s.px.pixels) : keepsFree s u := by
  intro x y _ free
  rw [pixelAt_congr geometry pixels]
  exact ⟨free, id⟩

theorem startLaw_of_same (law : startLaw s) (req : u.req = s.req) (walk : u.adm.walk = s.adm.walk)
    (lanes : ∀ l ln', laneAt u l = some ln' → laneAt s l = some ln' ∨ ∃ kind done, ln'.state = .retiring kind done) :
    startLaw u := by
  refine ⟨fun l ln' used => ?_, by rw [walk, req]; exact law.2⟩
  rcases lanes l ln' used with before | ⟨kind, done, retiring⟩
  · simpa only [allRowsWritten, req] using law.1 l ln' before
  · simp [retiring]

/-! ### The walks of the Pixel Store (R9, R14) -/

theorem pixelsWf_assumePixels (r : Rect) (level : Level) (done n : Nat) {s : State} (wf : pixelsWf s.px.pixels = true) :
    pixelsWf (assumePixels r level done n s).px.pixels = true := by
  unfold assumePixels
  induction List.range' done n generalizing s with
  | nil => exact wf
  | cons i is ih => exact ih (putPixel_wf wf _ _)

theorem Holds.advancePixelWalk (h : Holds k spared s) (n : Nat) : Holds k spared (advancePixelWalk n s) := by
  cases walk : s.px.walk with
  | none => simpa only [Machine.advancePixelWalk, walk] using h
  | some walking =>
    have moves : Moves s (Machine.advancePixelWalk n s) := by
      refine ⟨by simp, by simp, by simp, by simp, by simp, fun l => by rw [laneAt_congr (s := s) (by simp)]⟩
    have start : k.start → startLaw (Machine.advancePixelWalk n s) := fun asked =>
      startLaw_of_same (h.start asked) (by simp) (by simp) fun l ln' used => .inl (by rwa [laneAt_congr (s := s) (by simp)] at used)
    cases walking with
    | initialise done =>
      have px := advancePixelWalk_initialise n walk
      refine h.same ⟨by simp, by simp, by simp, by simp, by simp, by simp, by simp, by simp, by simp, by rw [px], by simp⟩
        (storeLaw_congr (by rw [px]) (by simp) h.stores) ⟨by simpa using h.rects.1, fun r level done' other => ?_⟩
      rw [px] at other
      cases other
    | assume r level done =>
      obtain ⟨ok, bound⟩ := h.rects.2 r level done walk
      obtain ⟨walk', pixels⟩ := advancePixelWalk_assume n walk (rectCheck_none ok).1
      refine h.moved moves ⟨by simpa using h.stores.1, ?_⟩ ⟨by simpa using h.rects.1, fun r' level' done' there => ?_⟩ ?_ ?_ start
      · simp only [Machine.advancePixelWalk, walk]
        exact pixelsWf_assumePixels r level _ _ h.stores.2
      · rw [walk'] at there
        cases there
        exact ⟨by simpa using ok, by omega⟩
      · intro x y l inside owns
        rw [panelWidth_congr moves.geometry] at inside
        have same : (pixelAt (Machine.advancePixelWalk n s) x y).owner = (pixelAt s x y).owner := by
          rw [pixels x y inside]
          split <;> rfl
        obtain ⟨tile, ln, used, within, ahead, mode⟩ := h.owner x y l inside (same ▸ owns)
        refine ⟨by simpa [tileLanes, tileOf, tileColumns, panelWidth] using tile, ln, by rw [laneAt_congr (s := s) (by simp), used], within,
          ahead, fun set => mode ?_⟩
        rw [pixels x y inside] at set
        split at set
        · cases set
        · exact set
      · intro x y inside free
        rw [pixels x y inside]
        split
        · exact ⟨free, fun set => by cases set⟩
        · exact ⟨free, id⟩

theorem Holds.endPixelWalk (h : Holds k spared s) : Holds k spared (endPixelWalk s) := by
  have ended : Holds k spared { s with px := { s.px with walk := none } } :=
    h.same ⟨rfl, rfl, rfl, Nat.le_refl _, rfl, rfl, rfl, rfl, rfl, rfl, rfl⟩ h.stores ⟨h.rects.1, fun _ _ _ no => by cases no⟩
  have done : Holds k spared (clientDone .initialisation { s with px := { s.px with walk := none } }) :=
    ended.quiet (by constructor <;> simp)
  exact done.judgeJobs

/-! ### Retirement walks (R110 to R112) -/

theorem retiredRecord_owner (s : State) (ln : Lane) (kind : WalkKind) (x y : Nat) (p : PixelRecord) :
    (retiredRecord s ln kind x y p).owner = none := by
  cases kind with
  | complete =>
    simp only [retiredRecord, completeRecord]
    split <;> rfl
  | release | abort => rfl

/-- A retirement walk that goes forward keeps the laws. -/
theorem Holds.advanceRetire (h : Holds k spared s) (l : LaneId) (n : Nat) : Holds k spared (advanceRetire l n s) := by
  cases lane : laneAt s l with
  | none => simpa only [Machine.advanceRetire, lane] using h
  | some ln =>
    cases retiring : ln.state with
    | armed | active => simpa only [Machine.advanceRetire, lane, retiring] using h
    | retiring kind done =>
      have meaning : Machine.advanceRetire l n s =
          setLane l (some { ln with state := .retiring kind (done + min n (ln.rect.area - done)) })
            { s with px := { s.px with
                pixels := mapPixels (retireAt s l ln kind done (min n (ln.rect.area - done))) s.px.pixels } } := by
        simp only [Machine.advanceRetire, lane, retiring]
      obtain ⟨lanes, pixels⟩ := advanceRetire_writes n lane retiring ((pixelsWf_iff _).mp h.stores.2).1
      have moves : Moves s (Machine.advanceRetire l n s) := by
        refine ⟨by simp, by simp, by simp, by simp, by simp, fun m => ?_⟩
        rw [lanes]
        split
        · rename_i here
          rw [here, lane]
          rfl
        · rfl
      refine h.moved moves ⟨by simpa using h.stores.1, ?_⟩ ?_ ?_ ?_ fun asked =>
        startLaw_of_same (h.start asked) (by simp) (by simp) fun m ln' used => ?_
      · rw [meaning]
        exact mapPixels_wf _ h.stores.2
      · exact rectLaw_congr (by simp) (by simp) (by simp) h.rects
      · intro x y m inside owns
        rw [panelWidth_congr moves.geometry] at inside
        have stays : ¬ ((pixelAt s x y).owner = some l ∧ ln.rect.reaches done (min n (ln.rect.area - done)) x y = true) :=
          fun taken => by
            rw [pixels x y inside, if_pos taken, retiredRecord_owner] at owns
            cases owns
        rw [pixels x y inside, if_neg stays] at owns ⊢
        obtain ⟨tile, ln', used, within, ahead, mode⟩ := h.owner x y m inside owns
        refine ⟨by simpa [tileLanes, tileOf, tileColumns, panelWidth] using tile, ?_⟩
        rw [lanes]
        by_cases here : m = l
        · subst here
          rw [lane] at used
          cases used
          refine ⟨_, if_pos rfl, within, fun kind' done' state => ?_, mode⟩
          cases state
          have before : done ≤ ln.rect.indexOf x y := ahead kind done retiring
          have beyond := fun lt => stays ⟨owns, (Rect.reaches_iff _ _ _ _ _).mpr ⟨within, before, lt⟩⟩
          exact Nat.le_of_not_lt beyond
        · exact ⟨ln', by rw [if_neg here, used], within, ahead, mode⟩
      · intro x y inside free
        rw [pixels x y inside, if_neg (by simp [free])]
        exact ⟨free, id⟩
      · rw [lanes] at used
        split at used
        · cases used
          exact .inr ⟨_, _, rfl⟩
        · exact .inl used

/-- A record behind the end of a lane's walk (R43, R44, R112). -/
theorem Request.behindWalk_carries (ln : Lane) (kind : WalkKind) (r : Request) : r.Carries (r.behindWalk ln kind) := by
  cases kind <;> exact { Request.Told.rfl.toCarries with }

theorem Request.behindWalk_finished (ln : Lane) (kind : WalkKind) (r : Request) :
    (r.behindWalk ln kind).partsFinished = r.partsFinished + 1 := by
  cases kind <;> rfl

/-- The state in which a lane is FREE and its request has been told of the part's end (R43, R112). -/
def partEnded (l : LaneId) (ln : Lane) (kind : WalkKind) (r : Request) (s : State) : State :=
  updateRequest r.age (Request.behindWalk ln kind) (freeTheLane l s)

/-- A record in that state: the request's own has one part more finished. -/
def Request.ended (ln : Lane) (kind : WalkKind) (r q : Request) : Request :=
  if q.age = r.age then q.behindWalk ln kind else q

theorem partEnded_table (l : LaneId) (ln : Lane) (kind : WalkKind) (r : Request) (s : State) :
    (partEnded l ln kind r s).req.table = s.req.table.map (r.ended ln kind) := by
  simp only [partEnded, updateRequest, freeTheLane_keeps]
  rfl

theorem partEnded_keeps (l : LaneId) (ln : Lane) (kind : WalkKind) (r : Request) (s : State) :
    (partEnded l ln kind r s).px = { s.px with tiles := s.px.tiles.filter fun e => e.2 ≠ l }
      ∧ (partEnded l ln kind r s).pool = s.pool ∧ (partEnded l ln kind r s).copier = s.copier
      ∧ (partEnded l ln kind r s).req.queue = s.req.queue ∧ (partEnded l ln kind r s).req.line = s.req.line
      ∧ (partEnded l ln kind r s).req.nextAge = s.req.nextAge ∧ (partEnded l ln kind r s).inflow = s.inflow
      ∧ (partEnded l ln kind r s).adm = s.adm := by
  refine ⟨rfl, ?_⟩
  simp [partEnded]

theorem laneAt_partEnded (l : LaneId) (ln : Lane) (kind : WalkKind) (r : Request) (s : State) (m : LaneId) :
    laneAt (partEnded l ln kind r s) m = if m = l then none else laneAt s m :=
  (laneAt_congr (s := freeTheLane l s) (by simp [partEnded]) m).trans (laneAt_freeTheLane l m s)

section
variable {l : LaneId} {ln : Lane} {kind : WalkKind} {r : Request}

theorem ended_carries (q : Request) : q.Carries (r.ended ln kind q) := by
  unfold Request.ended
  split
  · exact q.behindWalk_carries ln kind
  · exact Request.Told.rfl.toCarries

theorem ended_keeps (q : Request) :
    (r.ended ln kind q).state = q.state ∧ (r.ended ln kind q).partsUsed = q.partsUsed := by
  unfold Request.ended
  split
  · obtain ⟨-, -, -, -, state, used, -⟩ := q.behindWalk_keeps (ln := ln) (kind := kind)
    exact ⟨state, used⟩
  · exact ⟨rfl, rfl⟩

theorem lane_before_partEnded {m : LaneId} {ln' : Lane} (used : laneAt (partEnded l ln kind r s) m = some ln') :
    laneAt s m = some ln' := by
  rw [laneAt_partEnded] at used
  split at used
  · cases used
  · exact used

theorem mem_partEnded {q : Request} (mem : q ∈ s.req.table) : r.ended ln kind q ∈ (partEnded l ln kind r s).req.table := by
  rw [partEnded_table]
  exact List.mem_map_of_mem mem

theorem partEnded_back {p : Request} (mem : p ∈ (partEnded l ln kind r s).req.table) :
    ∃ q ∈ s.req.table, r.ended ln kind q = p := by
  rw [partEnded_table] at mem
  exact List.mem_map.mp mem

theorem requestLaw_partEnded (h : Holds k none s) (lane : laneAt s l = some ln) (live : r ∈ s.req.table) (tag : r.tag = ln.tag) :
    requestLaw (partEnded l ln kind r s) := by
  have first : r.partsFinished ≠ r.partsUsed := fun finished => (none_of_finished h.parts live finished).2 l ln lane tag.symm
  refine ⟨?_, ?_, fun p mem => ?_⟩
  · rw [partEnded_table, List.pairwise_map]
    exact h.requests.1.imp fun lt => by rw [(ended_carries _).age, (ended_carries _).age]; exact lt
  · rw [partEnded_table, List.pairwise_map]
    exact h.requests.2.1.imp fun ne => by rw [(ended_carries _).tag, (ended_carries _).tag]; exact ne
  · obtain ⟨q, live', rfl⟩ := partEnded_back mem
    obtain ⟨px, -, -, -, -, nextAge, -⟩ := partEnded_keeps l ln kind r s
    obtain ⟨age, room, ok, reporting⟩ := h.requests.2.2 q live'
    have carried := ended_carries q (ln := ln) (kind := kind) (r := r)
    obtain ⟨state, used⟩ := ended_keeps q (ln := ln) (kind := kind) (r := r)
    rw [carried.age, carried.rect, carried.withdrawn, state, used, px, nextAge]
    refine ⟨age, room, ok, fun enters => ?_⟩
    have other : q.age ≠ r.age := fun own => by
      rw [request_eq_of_age h.requests live' live own] at reporting enters
      exact first (reporting enters).1
    rw [Request.ended, if_neg other]
    exact reporting enters

theorem partsLaw_partEnded (h : Holds k none s) (lane : laneAt s l = some ln) (live : r ∈ s.req.table) (tag : r.tag = ln.tag) :
    partsLaw (partEnded l ln kind r s) := by
  intro p mem
  obtain ⟨q, live', rfl⟩ := partEnded_back mem
  obtain ⟨-, -, -, queue, -⟩ := partEnded_keeps l ln kind r s
  have count := h.parts q live'
  rw [(ended_carries q).age, (ended_carries q).tag, (ended_keeps q).2, queue]
  by_cases own : q.age = r.age
  · obtain rfl := request_eq_of_age h.requests live' live own
    have one := length_filter_with (l := allLanes) (a := l) allLanes_nodup (mem_allLanes l)
      (p := laneOf (partEnded l ln kind q s) q.tag fun _ => true) (q := laneOf s q.tag fun _ => true)
      (by simp [laneOf, laneAt_partEnded]) (by simp [laneOf, lane, tag])
      fun m other => by simp [laneOf, laneAt_partEnded, other]
    rw [Request.ended, if_pos rfl, Request.behindWalk_finished]
    omega
  · have other : ln.tag ≠ q.tag := fun same => own (congrArg Request.age
      (request_eq_of_tag h.requests live' live (same.symm.trans tag.symm)))
    have same : laneOf (partEnded l ln kind r s) q.tag (fun _ => true) = laneOf s q.tag fun _ => true := by
      funext m
      by_cases here : m = l
      · subst here
        simp [laneOf, laneAt_partEnded, lane, other]
      · simp [laneOf, laneAt_partEnded, here]
    rw [Request.ended, if_neg own, same]
    exact count

theorem ownerLaw_partEnded (law : ownerLaw s) (bare : ∀ x y, x < panelWidth s → (pixelAt s x y).owner ≠ some l) :
    ownerLaw (partEnded l ln kind r s) := by
  obtain ⟨px, -⟩ := partEnded_keeps l ln kind r s
  intro x y m inside owns
  rw [panelWidth_congr (s := s) (by rw [px])] at inside
  rw [pixelAt_congr (s := s) (by rw [px]) (by rw [px])] at owns ⊢
  have other : m ≠ l := fun same => bare x y inside (same ▸ owns)
  obtain ⟨tile, ln', used, rest⟩ := law x y m inside owns
  refine ⟨?_, ln', by rw [laneAt_partEnded, if_neg other, used], rest⟩
  simp only [tileLanes, tileOf, tileColumns, panelWidth, px, List.mem_map, List.mem_filter] at tile ⊢
  obtain ⟨e, ⟨listed, own⟩, rfl⟩ := tile
  exact ⟨e, ⟨⟨listed, by simpa using other⟩, own⟩, rfl⟩

/-- A lane that owns no pixel becomes FREE, and its request is told of the part's end (R43, R112). -/
theorem Holds.partEnded (h : Holds k none s) (lane : laneAt s l = some ln) (kind : WalkKind)
    (bare : ∀ x y, x < panelWidth s → (pixelAt s x y).owner ≠ some l) (live : r ∈ s.req.table)
    (tag : r.tag = ln.tag) : Holds k none (partEnded l ln kind r s) := by
  obtain ⟨px, pool, copier, queue, line, nextAge, inflow, adm⟩ := partEnded_keeps l ln kind r s
  refine ⟨storeLaw_congr (by rw [px]) (by rw [pool]) h.stores, requestLaw_partEnded h lane live tag,
    ⟨by rw [queue]; exact h.entries.1, fun e mem => ?_⟩, fun m ln' used => ?_, partsLaw_partEnded h lane live tag,
    ⟨by rw [line]; exact h.line.1, fun p mem => ?_⟩, fun w walk => ?_, ownerLaw_partEnded h.owner bare,
    rectLaw_congr (by rw [px]) (by rw [px]) (by rw [copier]) h.rects, fun asked e mem q live' own p live'' => ?_,
    fun asked => ?_, fun asked => ⟨fun m ln' used => ?_, fun w walk ready p mem own => ?_⟩⟩
  · rw [queue] at mem
    obtain ⟨⟨q, live', own, notReporting, marks⟩, marked⟩ := h.entries.2 e mem
    exact ⟨⟨_, mem_partEnded live', (ended_carries q).age.trans own, by rw [(ended_keeps q).1]; exact notReporting,
      by rw [(ended_carries q).withdrawn]; exact marks⟩, by rw [adm]; exact marked⟩
  · obtain ⟨q, live', own, rect⟩ := h.lanes m ln' (lane_before_partEnded used)
    exact ⟨_, mem_partEnded live', (ended_carries q).tag.trans own, (ended_carries q).rect.trans rect⟩
  · rw [line] at mem
    obtain ⟨q, live', own, reporting⟩ := h.line.2 p mem
    exact ⟨_, mem_partEnded live', (ended_carries q).age.trans own, (ended_keeps q).1.trans reporting⟩
  · rw [adm] at walk
    rw [queue]
    obtain ⟨entry, read⟩ := h.readings w walk
    refine ⟨entry, fun p mem own => ?_⟩
    obtain ⟨q, live', rfl⟩ := partEnded_back mem
    rw [(ended_carries q).age] at own
    rw [(ended_carries q).rect]
    exact ⟨(read q live' own).1, fun i x at_i =>
      readingLaw_congr (by rw [px]) (by rw [px]) ((read q live' own).2 i x at_i)⟩
  · rw [queue] at mem
    obtain ⟨q₀, live₀, rfl⟩ := partEnded_back live'
    obtain ⟨p₀, live₁, rfl⟩ := partEnded_back live''
    rw [(ended_carries q₀).age] at own ⊢
    rw [(ended_carries q₀).rect, (ended_carries p₀).age, (ended_carries p₀).tag, (ended_carries p₀).rect, adm]
    obtain ⟨ofLanes, ofWalk⟩ := h.order asked e mem q₀ live₀ own p₀ live₁
    exact ⟨fun m ln' used => ofLanes m ln' (lane_before_partEnded used), ofWalk⟩
  · refine rowsKept_carried (h.rows asked) (by rw [inflow]) (by rw [inflow]) nextAge fun p mem => ?_
    obtain ⟨q, live', rfl⟩ := partEnded_back mem
    exact ⟨q, live', ended_carries q⟩
  · have written : ∀ {ln'' : Lane}, allRowsWritten s ln'' → allRowsWritten (Machine.partEnded l ln kind r s) ln'' :=
      fun ⟨q, live', own, all⟩ => ⟨_, mem_partEnded live', (ended_carries q).tag.trans own,
        by rw [(ended_carries q).rowsWritten, (ended_carries q).rect, all]⟩
    obtain ⟨active, late, early⟩ := (h.start asked).1 m ln' (lane_before_partEnded used)
    exact ⟨fun st index => written (active st index), fun st data => written (late st data), early⟩
  · rw [adm] at walk
    obtain ⟨q, live', rfl⟩ := partEnded_back mem
    rw [(ended_carries q).age] at own
    rw [(ended_carries q).rowsWritten, (ended_carries q).rect]
    exact (h.start asked).2 w walk ready q live' own

end

/-- The end of a retirement walk keeps the laws (R112). -/
theorem Holds.endRetirement (h : Holds k none s) {l : LaneId} {ln : Lane} {kind : WalkKind} {done : Nat}
    (lane : laneAt s l = some ln) (retiring : ln.state = .retiring kind done) :
    Holds k none (endRetirement l ln kind s) := by
  have walked := h.advanceRetire l ln.rect.area
  obtain ⟨lanes, -⟩ := advanceRetire_writes ln.rect.area lane retiring ((pixelsWf_iff _).mp h.stores.2).1
  have own := lanes l
  rw [if_pos rfl] at own
  obtain ⟨r, live, tag, -⟩ := walked.lanes l _ own
  have bare : ∀ x y, x < panelWidth (Machine.advanceRetire l ln.rect.area s) →
      (pixelAt (Machine.advanceRetire l ln.rect.area s) x y).owner ≠ some l := fun x y inside owns => by
    obtain ⟨-, ln', used, within, ahead, -⟩ := walked.owner x y l inside owns
    rw [own] at used
    cases used
    have before : done + min ln.rect.area (ln.rect.area - done) ≤ ln.rect.indexOf x y := ahead _ _ rfl
    have below := Rect.indexOf_lt within
    simp only at below
    omega
  have found : findTag (freeTheLane l (Machine.advanceRetire l ln.rect.area s)) ln.tag = some r := by
    have same := findTag_of_mem walked.requests live
    rw [tag] at same
    simpa [findTag] using same
  simp only [Machine.endRetirement, reportPart, found]
  have told := walked.partEnded own kind bare live tag
  exact ((told.judgeFinish r.age).wantPass).judgeJobs

end

end Sys2Proof.Machine
end

section
/-!
PROOF. Bursts, frames and rail faults keep the laws (chapters 06, 08 and 09).
-/

namespace Sys2Proof.Machine

open Sys2Proof.Safety

section
variable {k : Asked} {spared : Option Nat} {s u : State}

/-! ### Bursts (R151) -/

/-- An admission walk that goes forward keeps the laws (R84). -/
theorem Holds.advanceAdmission (h : Holds k none s) (n : Nat) : Holds k none (advanceAdmission n s) := by
  unfold Machine.advanceAdmission
  split
  · exact h
  · rename_i w walk
    split
    · exact h
    · rename_i r found
      have goesOn : ∀ e : QueueEntry, (∃ w', some (advanceWalk s r n w) = some w' ∧ w'.age = e.age) ↔
          ∃ w', s.adm.walk = some w' ∧ w'.age = e.age := fun e => by simp [advanceWalk, walk]
      refine h.rewalked ⟨rfl, rfl, rfl, rfl, rfl, rfl, rfl, rfl, rfl⟩ (g := id) (by simp) (fun _ => rfl) ?_ ?_ ?_ ?_
      · exact fun e mem => ((h.entries.2 e mem).2).trans (goesOn e).symm
      · intro e mem q live own gone
        obtain ⟨⟨q₀, live₀, own₀, -, marks⟩, -⟩ := h.entries.2 e mem
        rw [request_eq_of_age h.requests live live₀ (own.trans own₀.symm)] at gone
        exact marks gone
      · intro w' walk'
        cases walk'
        refine ⟨(h.readings w walk).1, fun q live own => ?_⟩
        rw [request_eq_of_age h.requests live (mem_of_findAge found) (own.trans (age_of_findAge found).symm)]
        exact readings_advanceWalk h walk (mem_of_findAge found) (age_of_findAge found) n
      · intro w' walk'
        cases walk'
        exact ⟨(h.walkFits walk).order, (h.walkFits walk).start⟩

theorem advanceChunk_writing (n : Nat) (s : State) : (advanceChunk n s).inflow.writing.isSome = s.inflow.writing.isSome := by
  unfold advanceChunk
  split
  · rename_i done c rest writing buffer
    split <;> simp [writing]
  · rfl

/-- A chunk write that goes forward keeps the laws (R68). -/
theorem Holds.advanceChunk (h : Holds k spared s) (n : Nat) : Holds k spared (advanceChunk n s) := by
  refine h.same ⟨by simp, by simp, by simp, by simp, by simp, by simp, by simp, advanceChunk_writing n s, by simp, by simp,
    by simp⟩ ⟨advanceChunk_wf n h.stores.1, by simpa using h.stores.2⟩ ?_
  exact rectLaw_congr (by simp) (by simp) (by simp) h.rects

/-- A snapshot that goes forward keeps the laws (R121). -/
theorem Holds.advanceCopy (h : Holds k spared s) (n : Nat) : Holds k spared (advanceCopy n s) := by
  refine h.same (by constructor <;> simp) ⟨advanceCopy_wf n h.stores.1, by simpa using h.stores.2⟩ ?_
  exact rectLaw_congr (by simp) (by simp) (by simp) h.rects

theorem Holds.advanceScan (h : Holds k spared s) (n : Nat) : Holds k spared (advanceScan n s) :=
  h.quiet (by constructor <;> simp)

/-- Whatever a burst moves, it keeps the laws. -/
theorem Holds.serveBurst (h : Holds k none s) (who : Requester) (units : Nat) : Holds k none (serveBurst who units s) := by
  cases who with
  | scanner => exact h.advanceScan _
  | retirement l => exact h.advanceRetire l _
  | admission => exact h.advanceAdmission _
  | initialisation => exact h.advancePixelWalk _
  | inflow => exact h.advanceChunk _
  | copier => exact h.advanceCopy _
  | library => exact h.quiet (by constructor <;> simp [Machine.serveBurst])

theorem Holds.clientDone (h : Holds k spared s) (who : Requester) : Holds k spared (clientDone who s) :=
  h.quiet (by constructor <;> simp)

theorem Holds.beginWait (h : Holds k spared s) (who : Requester) : Holds k spared (beginWait who s) :=
  h.quiet (by constructor <;> simp)

theorem Holds.lastBursts (h : Holds k spared s) (who : Requester) : Holds k spared (lastBursts who s) :=
  h.quiet (by constructor <;> simp)

theorem Holds.finishBurst (h : Holds k none s) (who : Requester) (units : Nat) : Holds k none (finishBurst who units s) := by
  unfold Machine.finishBurst
  dsimp only
  split
  · exact (h.serveBurst who units).clientDone who
  · exact h.serveBurst who units

/-- A burst neither begins nor ends a walk. -/
theorem serveBurst_walk (who : Requester) (units : Nat) (s : State) :
    (serveBurst who units s).adm.walk.isSome = s.adm.walk.isSome := by
  cases who with
  | admission =>
    simp only [serveBurst, advanceAdmission]
    split
    · rfl
    · rename_i w walk
      split <;> simp [walk]
  | scanner | retirement _ | initialisation | inflow | copier => simp [serveBurst]
  | library => rfl

/-! ### Lanes that go forward (R103, R105) -/

/-- What the law of starts asks of a lane (R103). -/
def Lane.Starts (s : State) (ln : Lane) : Prop :=
  (ln.state = .active → ln.leads ≤ ln.index → allRowsWritten s ln)
    ∧ (ln.state = .armed ∨ ln.state = .active → ln.early = false → allRowsWritten s ln)
    ∧ (ln.state = .armed → ln.early = true → 0 < ln.leads)

/-- What a lane that goes forward keeps: all but its state and its index, and the place of a retirement walk, which may begin. -/
structure Lane.GoesOn (ln ln' : Lane) : Prop where
  tag : ln'.tag = ln.tag
  rect : ln'.rect = ln.rect
  mode : ln'.mode = ln.mode
  walk : ∀ kind done, ln'.state = .retiring kind done → done = 0 ∨ ln.state = .retiring kind done

/-- Lanes that go forward keep the laws, given that each starts as the law asks. -/
theorem Holds.goesOn (h : Holds k spared s) (kept : Kept s u) (req : u.req = s.req) {g : LaneId → Lane → Lane}
    (lanes : ∀ l, laneAt u l = (laneAt s l).map (g l)) (goes : ∀ l ln, laneAt s l = some ln → ln.GoesOn (g l ln))
    (starts : k.start → ∀ l ln, laneAt s l = some ln → (g l ln).Starts s) : Holds k spared u := by
  have geometry := congrArg PixelStore.geometry kept.px
  have pixels := congrArg PixelStore.pixels kept.px
  have moves : Moves s u := by
    refine ⟨req, kept.walk, kept.buffer, kept.writing, geometry, fun l => ?_⟩
    rw [lanes]
    cases before : laneAt s l with
    | none => rfl
    | some ln => simp [(goes l ln before).tag, (goes l ln before).rect]
  refine h.moved moves (storeLaw_congr pixels kept.bytes h.stores)
    (rectLaw_congr geometry (congrArg PixelStore.walk kept.px) kept.overlays h.rects) ?_ (keepsFree_of_eq geometry pixels) ?_
  · intro x y l inside owns
    simp only [panelWidth, pixelAt, tileLanes, tileOf, tileColumns, kept.px] at inside owns ⊢
    obtain ⟨tile, ln, used, within, ahead, mode⟩ := h.owner x y l inside owns
    have goesOn := goes l ln used
    refine ⟨tile, g l ln, by rw [lanes, used, Option.map_some], by rw [goesOn.rect]; exact within, fun kind done state => ?_,
      by rw [goesOn.mode]; exact mode⟩
    rw [goesOn.rect]
    rcases goesOn.walk kind done state with rfl | before
    · exact Nat.zero_le _
    · exact ahead kind done before
  · intro asked
    refine ⟨fun l ln' used => ?_, by rw [req, kept.walk]; exact (h.start asked).2⟩
    rw [lanes, Option.map_eq_some_iff] at used
    obtain ⟨ln, before, rfl⟩ := used
    simpa only [Lane.Starts, allRowsWritten, req] using starts asked l ln before

/-- A lane at a frame start: an ARMED one becomes ACTIVE at index 0 (R103). -/
theorem activateLane_goesOn (ln : Lane) : ln.GoesOn (activateLane ln) := by
  unfold activateLane
  split
  · exact ⟨rfl, rfl, rfl, fun kind done no => by cases no⟩
  · exact ⟨rfl, rfl, rfl, fun kind done state => .inr state⟩

/-- An ARMED lane that is early has leads before which it starts; one that is not has all its rows (R95, R103). -/
theorem activateLane_starts {ln : Lane} (starts : ln.Starts s) : (activateLane ln).Starts s := by
  obtain ⟨active, late, early⟩ := starts
  unfold activateLane
  split
  · rename_i armed
    refine ⟨fun _ noLeads => ?_, fun _ isLate => late (.inl armed) isLate, fun no => by cases no⟩
    cases data : ln.early with
    | false => exact late (.inl armed) data
    | true =>
      have leads := early armed data
      have none : ln.leads ≤ 0 := noLeads
      omega
  · exact ⟨active, late, early⟩

theorem laneAt_activateArmed (s : State) (l : LaneId) : laneAt (activateArmed s) l = (laneAt s l).map activateLane := by
  simp only [laneAt, activateArmed]
  exact Vector.getElem_map ..

theorem Holds.activateArmed (h : Holds k spared s) : Holds k spared (activateArmed s) :=
  h.goesOn (by constructor <;> simp) (by simp) (g := fun _ => activateLane) (laneAt_activateArmed s)
    (fun _ ln _ => activateLane_goesOn ln) fun asked l ln used => activateLane_starts ((h.start asked).1 l ln used)

/-- A frame start keeps the laws (R102, R103). -/
theorem Holds.startFrame (h : Holds k spared s) : Holds k spared (startFrame s) := by
  have marked : ∀ scan, Holds k spared { s with scan := scan } := fun scan =>
    h.quiet (by constructor <;> simp)
  unfold Machine.startFrame
  dsimp only
  split
  · exact (marked _).activateArmed.beginWait _
  · exact (marked _).beginWait _

/-- One lane's record changes, as it may. -/
theorem Holds.setLane (h : Holds k spared s) {l : LaneId} {ln ln' : Lane} (lane : laneAt s l = some ln)
    (goes : ln.GoesOn ln') (starts : k.start → ln'.Starts s) : Holds k spared (setLane l (some ln') s) := by
  refine h.goesOn (by constructor <;> simp) (by simp) (g := fun m old => if m = l then ln' else old) (fun m => ?_)
    (fun m old used => ?_) fun asked m old used => ?_
  · rw [laneAt_setLane]
    by_cases here : m = l
    · simp [here, lane]
    · simp [here]
  · split
    · rename_i here
      rw [here, lane] at used
      cases used
      exact goes
    · exact ⟨rfl, rfl, rfl, fun _ _ state => .inr state⟩
  · split
    · exact starts asked
    · exact (h.start asked).1 m old used

theorem setLane_setLane (l : LaneId) (v w : Option Lane) (s : State) : setLane l w (setLane l v s) = setLane l w s := by
  simp [Machine.setLane]

/-- A lane's index set and its COMPLETE walk ordered at one go (R105). -/
theorem beginRetire_setLane (l : LaneId) (kind : WalkKind) (ln : Lane) (s : State) :
    beginRetire l kind (setLane l (some ln) s) =
      beginWait (.retirement l) (setLane l (some { ln with state := .retiring kind 0 }) s) := by
  simp only [beginRetire, laneAt_setLane, if_true, setLane_setLane]

/-- A lane starves (R106). -/
theorem Holds.starveLane (h : Holds k none s) (l : LaneId) (ln : Lane) : Holds k none (starveLane l ln s) := by
  unfold Machine.starveLane
  refine Holds.reportAbort (Holds.raise ((h.abortLane .starved l).quiet ?_) _) _ _
  exact (by constructor <;> simp)

/-- With no rows missing they are all written (R40). -/
theorem allRowsWritten_of_rowsMissing (h : Holds k spared s) {w : Prop} (rows : rowsKept w s) {l : LaneId} {ln : Lane}
    (lane : laneAt s l = some ln) (whole : rowsMissing s ln = false) : allRowsWritten s ln := by
  obtain ⟨r, live, tag, -⟩ := h.lanes l ln lane
  have found := findTag_of_mem h.requests live
  rw [tag] at found
  simp only [rowsMissing, found, decide_eq_false_iff_not] at whole
  have bounded := (rows.2.2 r live).1
  exact ⟨r, live, tag, by omega⟩

/-- A lane at a frame completion keeps the laws (R105). -/
theorem Holds.advanceLane (h : Holds k none s) (l : LaneId) : Holds k none (advanceLane s l) := by
  unfold Machine.advanceLane
  split
  · exact h
  · rename_i ln lane
    split
    · exact h
    · rename_i active
      have active : ln.state = .active := not_not.mp active
      split
      · rw [beginRetire_setLane]
        refine Holds.beginWait (Holds.setLane h lane ?_ fun _ => ?_) _
        · refine ⟨rfl, rfl, rfl, fun kind done state => ?_⟩
          cases state
          exact .inl rfl
        · simp [Lane.Starts]
      · split
        · exact h.starveLane l ln
        · rename_i fed
          refine h.setLane lane ⟨rfl, rfl, rfl, fun kind done state => .inr state⟩ fun asked => ?_
          obtain ⟨past, late, early⟩ := (h.start asked).1 l ln lane
          refine ⟨fun _ reached => ?_, late, early⟩
          by_cases before : ln.leads ≤ ln.index
          · exact past active before
          · have reached : ln.leads ≤ ln.index + 1 := reached
            cases data : ln.early with
            | false => exact late (.inr active) data
            | true =>
              have whole : rowsMissing s ln = false := by
                rw [← Bool.not_eq_true]
                exact fun missing => fed ⟨data, by omega, missing⟩
              have written : allRowsWritten s ln :=
                allRowsWritten_of_rowsMissing h (h.rows (k.withRows asked)) lane whole
              exact written

/-- A frame completion keeps the laws (R105). -/
theorem Holds.completeFrame (h : Holds k none s) (f : Frame) : Holds k none (completeFrame f s) := by
  have ended : Holds k none (endFrame (Machine.advanceScan (panelHeight s) s)) :=
    (h.advanceScan (panelHeight s)).quiet (by constructor <;> simp)
  unfold Machine.completeFrame advanceLanes
  cases f.mark with
  | driven => exact (ended.foldl (fun l held => held.advanceLane l) _).judgeAfter s
  | frozen => exact ended.judgeAfter s

/-! ### Rail faults (R75, R115, R140) -/

theorem Holds.loseLane (h : Holds k none s) (l : LaneId) : Holds k none (loseLane s l) := by
  unfold Machine.loseLane
  split
  · split
    · exact (h.abortLane .railLost l).reportAbort _ _
    · exact h
  · exact h

theorem Holds.flushRequest (h : Holds k none s) (age : Nat) : Holds k none (flushRequest s age) := by
  unfold Machine.flushRequest
  split
  · split
    · exact (h.closeTally age).withdrawRest _ _
    · exact h
  · exact h

/-- A rail fault keeps the laws. -/
theorem Holds.railFault (h : Holds k none s) : Holds k none (railFault s) := by
  have failed : Holds k none (faultRails s) := h.quiet (by constructor <;> simp)
  have lost := failed.foldl (fun l held => held.loseLane l) allLanes
  have flushed : Holds k none (flushAll (allLanes.foldl Machine.loseLane (faultRails s))) := by
    unfold flushAll
    split
    · exact lost.foldl (fun age held => held.flushRequest age) _
    · exact lost
  exact (flushed.judgeAll.raise _).judgeAfter s

/-- A sample of power good keeps the laws (R136, R137, R140). -/
theorem Holds.takeSample (h : Holds k none s) (high : Bool) : Holds k none (takeSample high s) := by
  have sampled : Holds k none { s with rails := filterSample high s.rails } :=
    h.quiet (by constructor <;> simp)
  unfold Machine.takeSample
  dsimp only
  split
  · exact sampled.quiet (by constructor <;> simp)
  · split
    · exact sampled.railFault
    · exact sampled

end

end Sys2Proof.Machine
end

section
/-!
PROOF. Postings, and the commands beside them that touch requests or overlay entries, keep the laws (chapters 01, 03 and 07).
-/

namespace Sys2Proof.Machine

open Sys2Proof.Safety

theorem failIf_eq_none_iff {c : Bool} {r : Result} : failIf c r = none ↔ c = false := by cases c <;> simp [failIf]

/-! ### A request created (R38, R48) -/

/-- A record as it is created: with the next number of the order, a tag that is not in use, a rectangle in the panel, one part,
and no row yet but those of a source that has its image whole. -/
structure Request.Fresh (s : State) (q : Request) : Prop where
  age : q.age = s.req.nextAge
  tag : ∀ r ∈ s.req.table, r.tag ≠ q.tag
  rect : rectCheck s.px.geometry q.rect = none
  used : q.partsUsed = 1
  finished : q.partsFinished = 0
  state : q.state = .openState
  live : q.withdrawn = false
  written : q.rowsWritten ≤ q.rect.height
  tallied : q.tally.isSome = true ↔ q.source = .inflow
  begun : ∀ t, q.tally = some t → t.rowsAccepted = 0 ∧ q.rowsWritten = 0

theorem newRequest_fresh {s : State} {tag : Nat} {rect : Rect} (source : Source) (mode : Mode) (ghost : GhostPolicy)
    (collision : CollisionPolicy) (early : Bool) (pages : Option (List Nat)) (unused : findTag s tag = none)
    (ok : rectCheck s.px.geometry rect = none) :
    (newRequest s.req.nextAge tag source rect mode ghost collision early pages).Fresh s := by
  have apart : ∀ r ∈ s.req.table, r.tag ≠ tag := by simpa [findTag] using unused
  refine ⟨rfl, apart, ok, rfl, rfl, rfl, rfl, ?_, ?_, ?_⟩ <;> cases source <;> simp [newRequest]

section
variable {k : Asked} {spared : Option Nat} {s u : State}

/-- Every entry is older than the next request. -/
theorem entry_age_lt (h : Holds k spared s) {e : QueueEntry} (mem : e ∈ s.req.queue) : e.age < s.req.nextAge := by
  obtain ⟨⟨r, live, own, -⟩, -⟩ := h.entries.2 e mem
  rw [← own]
  exact (h.requests.2.2 r live).1

/-- And so is the walk in flight. -/
theorem walk_age_lt (h : Holds k spared s) {w : AdmissionWalk} (walk : s.adm.walk = some w) : w.age < s.req.nextAge := by
  obtain ⟨⟨e, mem, own⟩, -⟩ := h.readings w walk
  rw [← own]
  exact entry_age_lt h mem

/-- No lane carries a tag that is not in use. -/
theorem lane_tag_ne (h : Holds k spared s) {tag : Nat} (unused : ∀ r ∈ s.req.table, r.tag ≠ tag) {l : LaneId} {ln : Lane}
    (lane : laneAt s l = some ln) : ln.tag ≠ tag := by
  obtain ⟨r, live, own, -⟩ := h.lanes l ln lane
  rw [← own]
  exact unused r live

section
variable {mk : Nat → Request}

theorem requestLaw_created (h : Holds k none s) (fresh : (mk s.req.nextAge).Fresh s) : requestLaw (createRequest mk s) := by
  simp only [requestLaw, createRequest_req, createRequest_keeps, List.pairwise_append, List.pairwise_singleton,
    List.mem_append, List.mem_singleton, true_and, forall_eq]
  refine ⟨⟨h.requests.1, fun r live => ?_⟩, ⟨h.requests.2.1, fresh.tag⟩, fun r mem => ?_⟩
  · rw [fresh.age]
    exact (h.requests.2.2 r live).1
  · rcases mem with live | rfl
    · obtain ⟨age, rest⟩ := h.requests.2.2 r live
      exact ⟨by omega, rest⟩
    · refine ⟨by rw [fresh.age]; omega, by rw [fresh.used]; decide, fresh.rect, fun no => ?_⟩
      rw [fresh.state] at no
      cases no

theorem entriesLaw_created (h : Holds k none s) (fresh : (mk s.req.nextAge).Fresh s) :
    entriesLaw none (createRequest mk s) := by
  simp only [entriesLaw, createRequest_req, createRequest_keeps, List.pairwise_append, List.pairwise_singleton,
    List.mem_append, List.mem_singleton, true_and, forall_eq]
  refine ⟨⟨h.entries.1, fun e mem => entry_age_lt h mem⟩, fun e mem => ?_⟩
  rcases mem with old | rfl
  · obtain ⟨⟨r, live, rest⟩, marked⟩ := h.entries.2 e old
    exact ⟨⟨r, .inl live, rest⟩, marked⟩
  · refine ⟨⟨_, .inr rfl, fresh.age, by rw [fresh.state]; simp, by rw [fresh.live]; simp⟩, iff_of_false (by simp) ?_⟩
    rintro ⟨w, walk, own⟩
    exact absurd own (Nat.ne_of_lt (walk_age_lt h walk))

theorem partsLaw_created (h : Holds k none s) (fresh : (mk s.req.nextAge).Fresh s) : partsLaw (createRequest mk s) := by
  have lanes : ∀ l, laneAt (createRequest mk s) l = laneAt s l := laneAt_congr (by simp)
  intro r mem
  rw [createRequest_req] at mem ⊢
  rw [laneOf_congr lanes, List.filter_append, List.length_append]
  rcases List.mem_append.mp mem with live | new
  · have apart : s.req.nextAge ≠ r.age := Nat.ne_of_gt (h.requests.2.2 r live).1
    simpa [apart] using h.parts r live
  · obtain rfl := List.mem_singleton.mp new
    have noEntry : (s.req.queue.filter fun e => decide (e.age = (mk s.req.nextAge).age)) = [] := by
      rw [List.filter_eq_nil_iff]
      intro e there
      simpa [fresh.age] using Nat.ne_of_lt (entry_age_lt h there)
    have noLane : (allLanes.filter (laneOf s (mk s.req.nextAge).tag fun _ => true)) = [] := by
      rw [List.filter_eq_nil_iff]
      intro l _
      cases used : laneAt s l with
      | none => simp [laneOf, used]
      | some ln => simpa [laneOf, used] using lane_tag_ne h fresh.tag used
    simp only [noEntry, noLane, fresh.used, fresh.finished]
    simp [fresh.age]

theorem orderLaw_created (h : Holds k none s) (law : orderLaw s) (fresh : (mk s.req.nextAge).Fresh s) :
    orderLaw (createRequest mk s) := by
  have lanes : ∀ l, laneAt (createRequest mk s) l = laneAt s l := laneAt_congr (by simp)
  simp only [orderLaw, createRequest_req, createRequest_keeps, lanes, List.mem_append, List.mem_singleton]
  have youngest : ∀ r, r ∈ s.req.table ∨ r = mk s.req.nextAge → r.age ≤ s.req.nextAge := fun r mem => by
    rcases mem with live | rfl
    · exact Nat.le_of_lt (h.requests.2.2 r live).1
    · exact Nat.le_of_eq fresh.age
  rintro e (old | rfl) q mem own r mem'
  · have live : q ∈ s.req.table := mem.resolve_right fun new => by
      have lt := entry_age_lt h old
      rw [← own, new, fresh.age] at lt
      exact Nat.lt_irrefl _ lt
    rcases mem' with live' | rfl
    · exact law e old q live own r live'
    · refine ⟨fun l ln used tag => absurd tag.symm (lane_tag_ne h fresh.tag used), fun w walk same => ?_⟩
      have lt := walk_age_lt h walk
      rw [← same, fresh.age] at lt
      exact absurd lt (Nat.lt_irrefl _)
  · have le : r.age ≤ q.age := by
      rw [own]
      exact youngest r mem'
    exact ⟨fun _ _ _ _ _ => le, fun _ _ _ _ => le⟩

theorem rowsKept_created {w : Prop} (law : rowsKept w s) (fresh : (mk s.req.nextAge).Fresh s) :
    rowsKept w (createRequest mk s) := by
  obtain ⟨writer, chunks, rows⟩ := law
  have buffered : ∀ age, rowsBuffered (createRequest mk s) age = rowsBuffered s age := fun age => by simp [rowsBuffered]
  simp only [rowsKept, createRequest_req, createRequest_keeps, buffered, List.mem_append, List.mem_singleton]
  refine ⟨writer, fun c mem => Nat.lt_succ_of_lt (chunks c mem), fun r mem => ?_⟩
  rcases mem with live | rfl
  · exact rows r live
  · have noChunk : rowsBuffered s (mk s.req.nextAge).age = 0 := by
      have none : (s.inflow.buffer.filter fun c => decide (c.age = (mk s.req.nextAge).age)) = [] := by
        rw [List.filter_eq_nil_iff]
        intro c there
        simpa [fresh.age] using Nat.ne_of_lt (chunks c there)
      simp [rowsBuffered, none]
    refine ⟨fresh.written, by simpa [fresh.live] using fresh.tallied, fun t tally => ?_⟩
    obtain ⟨accepted, written⟩ := fresh.begun t tally
    refine ⟨by omega, fun no => ?_, fun _ => by omega⟩
    rw [fresh.state] at no
    cases no

theorem startLaw_created (h : Holds k none s) (law : startLaw s) (fresh : (mk s.req.nextAge).Fresh s) :
    startLaw (createRequest mk s) := by
  have lanes : ∀ l, laneAt (createRequest mk s) l = laneAt s l := laneAt_congr (by simp)
  have written : ∀ {ln : Lane}, allRowsWritten s ln → allRowsWritten (createRequest mk s) ln := fun ⟨r, live, all⟩ =>
    ⟨r, by rw [createRequest_req]; exact List.mem_append_left _ live, all⟩
  refine ⟨fun l ln used => ?_, fun w walk ready r mem own => ?_⟩
  · rw [lanes] at used
    obtain ⟨active, late, early⟩ := law.1 l ln used
    exact ⟨fun st index => written (active st index), fun st data => written (late st data), early⟩
  · rw [show (createRequest mk s).adm.walk = s.adm.walk by simp] at walk
    rw [createRequest_req] at mem
    rcases List.mem_append.mp mem with live | new
    · exact law.2 w walk ready r live own
    · have lt := walk_age_lt h walk
      rw [← own, List.mem_singleton.mp new, fresh.age] at lt
      exact absurd lt (Nat.lt_irrefl _)

/-- A request created keeps the laws (R48). -/
theorem Holds.createRequest (h : Holds k none s) (fresh : (mk s.req.nextAge).Fresh s) : Holds k none (createRequest mk s) := by
  have lanes : ∀ l, laneAt (Machine.createRequest mk s) l = laneAt s l := laneAt_congr (by simp)
  have stays : ∀ r ∈ s.req.table, r ∈ (Machine.createRequest mk s).req.table := fun r live => by
    rw [createRequest_req]
    exact List.mem_append_left _ live
  refine ⟨storeLaw_congr (by simp) (by simp) h.stores, requestLaw_created h fresh, entriesLaw_created h fresh,
    fun l ln used => ?_, partsLaw_created h fresh, ⟨by simpa using h.line.1, fun p mem => ?_⟩, fun w walk => ?_,
    ownerLaw_congr (by simp) (by simp) (by simp) lanes h.owner, rectLaw_congr (by simp) (by simp) (by simp) h.rects,
    fun asked => orderLaw_created h (h.order asked) fresh, fun asked => rowsKept_created (h.rows asked) fresh,
    fun asked => startLaw_created h (h.start asked) fresh⟩
  · rw [lanes] at used
    obtain ⟨r, live, same⟩ := h.lanes l ln used
    exact ⟨r, stays r live, same⟩
  · rw [show (Machine.createRequest mk s).req.line = s.req.line by simp] at mem
    obtain ⟨r, live, same⟩ := h.line.2 p mem
    exact ⟨r, stays r live, same⟩
  · rw [show (Machine.createRequest mk s).adm.walk = s.adm.walk by simp] at walk
    obtain ⟨⟨e, mem, own⟩, read⟩ := h.readings w walk
    rw [createRequest_req]
    refine ⟨⟨e, List.mem_append_left _ mem, own⟩, fun r there same => ?_⟩
    have live : r ∈ s.req.table := (List.mem_append.mp there).resolve_right fun new => by
      have lt := walk_age_lt h walk
      rw [← same, List.mem_singleton.mp new, fresh.age] at lt
      exact Nat.lt_irrefl _ lt
    exact ⟨(read r live same).1, fun i x at_i => readingLaw_congr (by simp) (by simp) ((read r live same).2 i x at_i)⟩

end

/-! ### Jobs and overlay entries (R119, R128) -/

theorem Holds.takePages (h : Holds k spared s) (r : Rect) : Holds k spared (takePages r s) :=
  h.quiet (by constructor <;> simp)

/-- A job created takes a number of the order (R119). -/
theorem Holds.createJob (h : Holds k spared s) (mk : Nat → Job) : Holds k spared (createJob mk s) :=
  h.quiet (by constructor <;> simp [Machine.createJob])

/-- Overlay entries come and go, those that come with rectangles in the panel. -/
theorem Holds.overlaid (h : Holds k spared s) (same : SameBooks s u) (bytes : u.pool.bytes = s.pool.bytes)
    (walk : u.px.walk = s.px.walk)
    (overlays : ∀ o ∈ u.copier.overlays, o ∈ s.copier.overlays ∨ rectCheck s.px.geometry o.rect = none) :
    Holds k spared u := by
  refine h.same same (storeLaw_congr same.pixels bytes h.stores) ⟨fun o mem => ?_, fun r level done walking => ?_⟩
  · rw [same.geometry]
    exact (overlays o mem).elim (h.rects.1 o) id
  · rw [same.geometry]
    rw [walk] at walking
    exact h.rects.2 r level done walking

theorem discardBottom_sublist (s : State) : (discardBottom s).copier.overlays ⊆ s.copier.overlays := by
  unfold discardBottom
  split
  · exact fun _ mem => mem
  · split
    · exact fun _ mem => mem
    · rename_i bottom rest stack
      simp only [raise_keeps, releaseOverlay_keeps, stack]
      exact List.subset_cons_self _ _

/-- A push keeps the laws (R129). -/
theorem Holds.overlayPush (h : Holds k spared s) {r : Rect} (ok : rectCheck s.px.geometry r = none) :
    Holds k spared (overlayPush r s) := by
  have made := (h.takePages r).createJob (newJob .push r (allocation r s) false)
  refine Holds.judgeJobs (made.overlaid (by constructor <;> simp) (by simp) (by simp) fun o mem => ?_)
  simp only [placeOverlay, List.mem_append, List.mem_singleton] at mem
  rcases mem with old | rfl
  · exact .inl (discardBottom_sublist _ old)
  · exact .inr (by simpa using ok)

/-- The top entry of the stack is one of its entries. -/
theorem mem_of_topOverlay {o : Overlay} (top : topOverlay s = some o) : o ∈ s.copier.overlays := List.mem_of_getLast? top

/-- A pop keeps the laws (R131). -/
theorem Holds.overlayPop (h : Holds k none s) {tag : Nat} (c : PostChoice) {o : Overlay} (unused : findTag s tag = none)
    (top : topOverlay s = some o) : Holds k none (overlayPop tag c o s) := by
  have popped : Holds k none { s with copier := { s.copier with overlays := s.copier.overlays.dropLast } } :=
    h.overlaid ⟨rfl, rfl, rfl, Nat.le_refl _, rfl, rfl, rfl, rfl, rfl, rfl, rfl⟩ rfl rfl fun o mem =>
      .inl (List.dropLast_subset _ mem)
  exact popped.createRequest (newRequest_fresh _ _ _ _ _ _ unused (h.rects.1 o (mem_of_topOverlay top)))

/-- A swap keeps the laws (R133). -/
theorem Holds.overlaySwap (h : Holds k none s) {tag : Nat} (c : PostChoice) {o : Overlay} (unused : findTag s tag = none)
    (top : topOverlay s = some o) : Holds k none (overlaySwap tag c o s) := by
  have made := (h.takePages o.rect).createJob (newJob .swap o.rect (allocation o.rect s) false)
  have ok := h.rects.1 o (mem_of_topOverlay top)
  have posted := made.createRequest (mk := overlayRequest tag c o)
    (newRequest_fresh _ _ _ _ _ _ (by simpa [findTag] using unused) (by simpa using ok))
  refine Holds.judgeJobs (posted.overlaid ⟨rfl, rfl, rfl, Nat.le_refl _, rfl, rfl, rfl, rfl, rfl, rfl, rfl⟩ rfl rfl
    fun p mem => ?_)
  rcases List.mem_append.mp mem with old | new
  · exact .inl (List.dropLast_subset _ old)
  · rw [List.mem_singleton.mp new]
    exact .inr (by simpa using ok)

/-- A copy posted keeps the laws (R127). -/
theorem Holds.postCopy (h : Holds k none s) {tag : Nat} (source : Rect) {destination : Rect} (c : PostChoice)
    (unused : findTag s tag = none) (ok : rectCheck s.px.geometry destination = none) :
    Holds k none (postCopy tag source destination c s) :=
  (((h.takePages source).createJob _).createRequest
    (newRequest_fresh _ _ _ _ _ _ (by simpa [findTag] using unused) (by simpa using ok))).judgeJobs

/-- An update posted keeps the laws (R48). -/
theorem Holds.postUpdate (h : Holds k none s) {f : PostUpdate} (unused : findTag s f.tag = none)
    (ok : rectCheck s.px.geometry f.rect = none) : Holds k none (postUpdate f s) := by
  unfold Machine.postUpdate
  split
  · exact (h.takePages f.rect).createRequest (newRequest_fresh _ _ _ _ _ _ unused ok)
  · exact h.createRequest (newRequest_fresh _ _ _ _ _ _ unused ok)

/-- An assume walk that begins keeps the laws (R13, R14). -/
theorem Holds.startAssume (h : Holds k spared s) {r : Rect} (level : Level) (ok : rectCheck s.px.geometry r = none) :
    Holds k spared (startAssume r level s) := by
  have begun : Holds k spared { s with px := { s.px with walk := some (.assume r level 0) } } := by
    refine h.same ⟨rfl, rfl, rfl, Nat.le_refl _, rfl, rfl, rfl, rfl, rfl, rfl, rfl⟩ h.stores
      ⟨h.rects.1, fun r' level' done walk => ?_⟩
    cases walk
    exact ⟨ok, Nat.zero_le _⟩
  exact begun.beginWait _

/-! ### Cancels (R49 to R52) -/

theorem Holds.pendCancel (h : Holds k spared s) (r : Request) (force : Bool) : Holds k spared (pendCancel r force s) := by
  refine Holds.closeTally ?_ _
  exact h.updateRequest r.age fun _ => { Request.Told.rfl with }

/-- A cancel at once keeps the laws, given that what it cuts does. -/
theorem Holds.cancelNow {r : Request} {cut : Request → State → State}
    (cuts : Holds k none (cut r (Machine.closeTally r.age s))) : Holds k none (cancelNow r cut s) :=
  (cuts.judgeFinish r.age).judgeAfter s

end

end Sys2Proof.Machine
end

section
/-!
PROOF. The Inflow Unit's rows and the copier's, and the requests that hold them, keep the laws (chapters 04 and 07).
-/

namespace Sys2Proof.Machine

open Sys2Proof.Safety

/-! ### Rows counted -/

/-- A record with other counts of rows written and accepted. -/
def Request.withCounts (n : Request → Nat) (t : Request → Option Tally) (r : Request) : Request :=
  { r with rowsWritten := n r, tally := t r }

/-- All but the counts of rows, the buffer and the writer is as it was, as far as the laws see it. -/
structure Counts (n : Request → Nat) (t : Request → Option Tally) (s u : State) : Prop where
  table : u.req.table = s.req.table.map (Request.withCounts n t)
  queue : u.req.queue = s.req.queue
  line : u.req.line = s.req.line
  nextAge : u.req.nextAge = s.req.nextAge
  px : u.px = s.px
  bytes : u.pool.bytes = s.pool.bytes
  overlays : u.copier.overlays = s.copier.overlays
  lanes : u.lanes = s.lanes
  walk : u.adm.walk = s.adm.walk

/-- The laws but for what is said of the writer. -/
def Asked.loose (k : Asked) : Asked := { k with writer := False }

section
variable {k : Asked} {spared : Option Nat} {s u : State}

theorem Holds.tighten (h : Holds k.loose spared s)
    (writer : k.rows → k.writer → (s.inflow.writing.isSome = true ↔ s.inflow.buffer ≠ [])) : Holds k spared s :=
  { h with rows := fun asked => ⟨writer asked, (h.rows asked).2⟩ }

/-- Rows counted keep the laws, given that of rows, and that a request with all its rows has them still. -/
theorem Holds.counted (h : Holds k spared s) {k' : Asked} {n : Request → Nat} {t : Request → Option Tally}
    (counts : Counts n t s u) (order : k'.order → k.order) (rows : k'.rows → rowsKept k'.writer u)
    (start : k'.start → k.start ∧ ∀ r ∈ s.req.table, r.rowsWritten = r.rect.height → n r = r.rect.height) :
    Holds k' spared u := by
  obtain ⟨table, queue, line, nextAge, px, bytes, overlays, sameLanes, walk⟩ := counts
  have lanes : ∀ l, laneAt u l = laneAt s l := laneAt_congr sameLanes
  have geometry := congrArg PixelStore.geometry px
  have pixels := congrArg PixelStore.pixels px
  have stays : ∀ r ∈ s.req.table, r.withCounts n t ∈ u.req.table := fun r live => by
    rw [table]
    exact List.mem_map_of_mem live
  have back : ∀ q ∈ u.req.table, ∃ r ∈ s.req.table, r.withCounts n t = q := fun q mem => by
    rw [table] at mem
    exact List.mem_map.mp mem
  refine ⟨storeLaw_congr pixels bytes h.stores, ⟨?_, ?_, fun q mem => ?_⟩, ⟨by rw [queue]; exact h.entries.1, fun e mem => ?_⟩,
    fun l ln used => ?_, fun q mem => ?_, ⟨by rw [line]; exact h.line.1, fun p mem => ?_⟩, fun w walking => ?_,
    ownerLaw_congr geometry pixels (congrArg PixelStore.tiles px) lanes h.owner,
    rectLaw_congr geometry (congrArg PixelStore.walk px) overlays h.rects, fun asked e mem q live own p live' => ?_, rows,
    fun asked => ⟨fun l ln used => ?_, fun w walking ready q mem own => ?_⟩⟩
  · rw [table, List.pairwise_map]
    exact h.requests.1
  · rw [table, List.pairwise_map]
    exact h.requests.2.1
  · obtain ⟨r, live, rfl⟩ := back q mem
    rw [nextAge, geometry]
    exact h.requests.2.2 r live
  · rw [queue] at mem
    obtain ⟨⟨r, live, rest⟩, marked⟩ := h.entries.2 e mem
    exact ⟨⟨_, stays r live, rest⟩, by rw [walk]; exact marked⟩
  · rw [lanes] at used
    obtain ⟨r, live, same⟩ := h.lanes l ln used
    exact ⟨_, stays r live, same⟩
  · obtain ⟨r, live, rfl⟩ := back q mem
    rw [queue, laneOf_congr lanes]
    exact h.parts r live
  · rw [line] at mem
    obtain ⟨r, live, same⟩ := h.line.2 p mem
    exact ⟨_, stays r live, same⟩
  · rw [walk] at walking
    obtain ⟨entry, read⟩ := h.readings w walking
    rw [queue]
    refine ⟨entry, fun q mem own => ?_⟩
    obtain ⟨r, live, rfl⟩ := back q mem
    exact ⟨(read r live own).1, fun i x at_i => readingLaw_congr geometry pixels ((read r live own).2 i x at_i)⟩
  · rw [queue] at mem
    obtain ⟨q₀, live₀, rfl⟩ := back q live
    obtain ⟨p₀, live₁, rfl⟩ := back p live'
    simp only [lanes, walk]
    exact h.order (order asked) e mem q₀ live₀ own p₀ live₁
  · obtain ⟨asked, whole⟩ := start asked
    rw [lanes] at used
    have written : allRowsWritten s ln → allRowsWritten u ln := fun ⟨r, live, own, all⟩ =>
      ⟨_, stays r live, own, whole r live all⟩
    obtain ⟨active, late, early⟩ := (h.start asked).1 l ln used
    exact ⟨fun st index => written (active st index), fun st data => written (late st data), early⟩
  · obtain ⟨asked, whole⟩ := start asked
    rw [walk] at walking
    obtain ⟨r, live, rfl⟩ := back q mem
    exact whole r live ((h.start asked).2 w walking ready r live own)

/-! ### Chunks wanted and unwanted (R68) -/

/-- The writer writes a chunk of a live request with an open tally alone. -/
theorem tally_of_wanted (requests : requestLaw s) {c : Chunk} (wanted : chunkUnwanted s c = false) {r : Request}
    (live : r ∈ s.req.table) (own : r.age = c.age) : ∃ t, r.tally = some t ∧ t.closed = false := by
  have found := findAge_of_mem requests live
  rw [own] at found
  simp only [chunkUnwanted, found] at wanted
  cases tally : r.tally with
  | none => simp [tally] at wanted
  | some t => exact ⟨t, rfl, by simpa [tally] using wanted⟩

/-- A chunk dropped is of no request with an open tally. -/
theorem closed_of_unwanted (requests : requestLaw s) {c : Chunk} (unwanted : chunkUnwanted s c = true) {r : Request}
    (live : r ∈ s.req.table) (own : r.age = c.age) {t : Tally} (tally : r.tally = some t) : t.closed = true := by
  have found := findAge_of_mem requests live
  rw [own] at found
  simpa [chunkUnwanted, found, tally] using unwanted

/-- The rows of the oldest chunk are counted among the buffered (R64). -/
theorem rowsBuffered_cons {c : Chunk} {later : List Chunk} (buffer : s.inflow.buffer = c :: later)
    (popped : u.inflow.buffer = later) (age : Nat) :
    rowsBuffered s age = (if c.age = age then c.rowCount else 0) + rowsBuffered u age := by
  simp only [rowsBuffered, buffer, popped, List.filter_cons]
  by_cases own : c.age = age <;> simp [own]

theorem rowsBuffered_append {c : Chunk} (buffer : u.inflow.buffer = s.inflow.buffer ++ [c]) (age : Nat) :
    rowsBuffered u age = rowsBuffered s age + if c.age = age then c.rowCount else 0 := by
  simp only [rowsBuffered, buffer, List.filter_append, List.map_append, List.sum_append]
  by_cases own : c.age = age <;> simp [own]

theorem withCounts_id (l : List Request) : l.map (Request.withCounts Request.rowsWritten Request.tally) = l :=
  List.map_id _

/-! ### The writer takes the next chunk (R68) -/

theorem Holds.checkRefill (h : Holds k spared s) : Holds k spared (checkRefill s) :=
  h.quiet (by constructor <;> simp)

/-- A chunk dropped keeps the laws, but for what is said of the writer. -/
theorem Holds.dropChunk (h : Holds k.loose spared s) {c : Chunk} {later : List Chunk} (buffer : s.inflow.buffer = c :: later)
    (unwanted : chunkUnwanted s c = true) : Holds k.loose spared (dropChunk s) := by
  have popped : (Machine.dropChunk s).inflow.buffer = later := by simp [Machine.dropChunk, popChunk, buffer]
  refine h.counted (n := Request.rowsWritten) (t := Request.tally) ⟨by simp [withCounts_id], by simp, by simp, by simp, by simp,
    by simp, by simp, by simp, by simp⟩ id (fun asked => ?_) fun asked => ⟨asked, fun r _ whole => whole⟩
  obtain ⟨-, chunks, rows⟩ := h.rows asked
  refine ⟨False.elim, fun d mem => ?_, fun r live => ?_⟩
  · rw [popped] at mem
    simpa using chunks d (by rw [buffer]; exact List.mem_cons_of_mem _ mem)
  · rw [(dropChunk_keeps s).2.2.2.1] at live
    obtain ⟨bounded, tallied, accounts⟩ := rows r live
    refine ⟨bounded, tallied, fun t tally => ?_⟩
    obtain ⟨accepted, reporting, ahead⟩ := accounts t tally
    refine ⟨accepted, reporting, fun isOpen => ?_⟩
    have count := rowsBuffered_cons buffer popped r.age
    have other : c.age ≠ r.age := fun own => by
      rw [closed_of_unwanted h.requests unwanted live own.symm tally] at isOpen
      cases isOpen
    rw [if_neg other, Nat.zero_add] at count
    rw [ahead isOpen, count]

/-- An idle writer that looks through the buffer keeps the laws, and is idle behind it only where the buffer is empty. -/
theorem Holds.takeChunks (l : List Chunk) {s : State} (h : Holds k.loose spared s) (buffer : s.inflow.buffer = l)
    (idle : s.inflow.writing = none) : Holds k spared (takeChunks l s) := by
  induction l generalizing s with
  | nil => exact h.tighten fun _ _ => by simp [idle, buffer]
  | cons c later ih =>
    unfold Machine.takeChunks
    split
    · rename_i unwanted
      exact ih (h.dropChunk buffer unwanted) (by simp [Machine.dropChunk, popChunk, buffer]) (by simpa using idle)
    · have begun : Holds k.loose spared { s with inflow := { s.inflow with writing := some 0 } } := by
        refine h.counted (n := Request.rowsWritten) (t := Request.tally) ⟨(withCounts_id _).symm, rfl, rfl, rfl, rfl, rfl, rfl, rfl, rfl⟩
          id (fun asked => ?_) fun asked => ⟨asked, fun r _ whole => whole⟩
        exact ⟨False.elim, (h.rows asked).2⟩
      exact Holds.beginWait (begun.tighten fun _ _ => by simp [buffer]) _

/-- The writer's turn keeps the laws (R68). -/
theorem Holds.takeNextChunk (h : Holds k.loose spared s)
    (writer : k.rows → k.writer → s.inflow.writing.isSome = true → s.inflow.buffer ≠ []) :
    Holds k spared (takeNextChunk s) := by
  unfold Machine.takeNextChunk
  split
  · rename_i busy
    exact h.tighten fun asked asked' => ⟨writer asked asked', fun _ => busy⟩
  · rename_i idle
    exact h.takeChunks _ rfl (by simpa using idle)

/-! ### The end of a chunk write (R69) -/

/-- The state in which the chunk whose write has ended has left the buffer. -/
def writeEnded (s : State) : State :=
  checkRefill (clientDone .inflow { popChunk s with inflow := { (popChunk s).inflow with writing := none } })

theorem endChunkWrite_eq (c : Chunk) (s : State) : endChunkWrite c s =
    takeNextChunk (returnHeldPages c.age (countRows c (writeEnded (advanceChunk c.data.length s)))) := rfl

theorem writeEnded_keeps (s : State) : (writeEnded s).req = s.req ∧ (writeEnded s).px = s.px
    ∧ (writeEnded s).pool = s.pool ∧ (writeEnded s).copier = s.copier ∧ (writeEnded s).lanes = s.lanes
    ∧ (writeEnded s).adm = s.adm ∧ (writeEnded s).inflow.writing = none
    ∧ (writeEnded s).inflow.buffer = s.inflow.buffer.tail := by
  simp [writeEnded, popChunk]

/-- Rows written behind a chunk's write (R69). -/
def rowsBehind (s : State) (c : Chunk) (r : Request) : Nat :=
  if r.age = c.age ∧ chunkUnwanted s c = false then r.rowsWritten + c.rowCount else r.rowsWritten

theorem countRows_table (requests : requestLaw s) (c : Chunk) :
    (countRows c s).req.table = s.req.table.map (Request.withCounts (rowsBehind s c) Request.tally) := by
  have stays : (∀ r ∈ s.req.table, rowsBehind s c r = r.rowsWritten) →
      s.req.table = s.req.table.map (Request.withCounts (rowsBehind s c) Request.tally) := fun same =>
    (List.map_id _).symm.trans (List.map_congr_left fun r live => by rw [Request.withCounts, same r live]; rfl)
  unfold countRows
  split
  · rename_i absent
    refine stays fun r live => if_neg fun both => ?_
    exact absurd (List.find?_eq_none.mp absent r live) (by simp [both.1])
  · rename_i q found
    split
    · rename_i unwanted
      exact stays fun r live => if_neg fun both => by rw [unwanted] at both; exact absurd both.2 (by simp)
    · rename_i wanted
      have table : (updateRequest c.age (fun r => { r with rowsWritten := q.rowsWritten + c.rowCount }) s).req.table =
          s.req.table.map (Request.withCounts (rowsBehind s c) Request.tally) := by
        refine List.map_congr_left fun r live => ?_
        by_cases own : r.age = c.age
        · obtain rfl := request_eq_of_age requests live (mem_of_findAge found) (own.trans (age_of_findAge found).symm)
          rw [if_pos own, Request.withCounts, rowsBehind, if_pos ⟨own, by simpa using wanted⟩]
        · rw [if_neg own, Request.withCounts, rowsBehind, if_neg fun both => own both.1]
      dsimp only
      split
      · exact table
      · exact table

/-- The rows of a chunk written are counted: all laws are kept but what is said of the writer. -/
theorem Holds.countRows (h : Holds k none s) {c : Chunk} {later : List Chunk} (buffer : s.inflow.buffer = c :: later) :
    Holds k.loose none (countRows c (writeEnded s)) := by
  obtain ⟨req, px, pool, copier, lanes, adm, -, tail⟩ := writeEnded_keeps s
  have requests : requestLaw (writeEnded s) := by
    simpa only [requestLaw, req, px] using h.requests
  have table := countRows_table requests c
  rw [req] at table
  have same : chunkUnwanted (writeEnded s) c = chunkUnwanted s c := by simp only [chunkUnwanted, findAge, req]
  have popped : (Machine.countRows c (writeEnded s)).inflow.buffer = later := by simp [tail, buffer]
  have fits : k.rows → ∀ r ∈ s.req.table, r.age = c.age → chunkUnwanted s c = false → ∃ t, r.tally = some t
      ∧ t.rowsAccepted ≤ r.rect.height
      ∧ t.rowsAccepted = r.rowsWritten + c.rowCount + rowsBuffered (Machine.countRows c (writeEnded s)) r.age := by
    intro asked r live own wanted
    obtain ⟨t, tally, isOpen⟩ := tally_of_wanted h.requests wanted live own
    obtain ⟨accepted, -, ahead⟩ := ((h.rows asked).2.2 r live).2.2 t tally
    have count := rowsBuffered_cons buffer popped r.age
    rw [if_pos own.symm] at count
    exact ⟨t, tally, accepted, by rw [ahead isOpen, count]; omega⟩
  refine h.counted ⟨table, by simp [req], by simp [req], by simp [req], by simp [px], by simp [pool], by simp [copier],
    by simp [lanes], by simp [adm]⟩ id (fun asked => ?_) fun asked => ⟨asked, fun r live whole => ?_⟩
  · obtain ⟨-, chunks, rows⟩ := h.rows asked
    refine ⟨False.elim, fun d mem => ?_, fun q mem => ?_⟩
    · rw [popped] at mem
      simpa [req] using chunks d (by rw [buffer]; exact List.mem_cons_of_mem _ mem)
    · rw [table] at mem
      obtain ⟨r, live, rfl⟩ := List.mem_map.mp mem
      obtain ⟨bounded, tallied, accounts⟩ := rows r live
      refine ⟨?_, tallied, fun t tally => ?_⟩
      · simp only [Request.withCounts, rowsBehind, same]
        split
        · rename_i both
          obtain ⟨t, -, accepted, ahead⟩ := fits asked r live both.1 both.2
          omega
        · exact bounded
      · obtain ⟨accepted, reporting, ahead⟩ := accounts t tally
        refine ⟨accepted, reporting, fun isOpen => ?_⟩
        simp only [Request.withCounts, rowsBehind, same]
        split
        · rename_i both
          obtain ⟨t', tally', -, ahead'⟩ := fits asked r live both.1 both.2
          have equal : some t' = some t := tally'.symm.trans tally
          cases equal
          exact ahead'
        · rename_i neither
          have other : c.age ≠ r.age := fun own => by
            have unwanted : chunkUnwanted s c = true := by
              rw [← Bool.not_eq_false]
              exact fun wanted => neither ⟨own.symm, wanted⟩
            rw [closed_of_unwanted h.requests unwanted live own.symm tally] at isOpen
            cases isOpen
          have count := rowsBuffered_cons buffer popped r.age
          rw [if_neg other, Nat.zero_add] at count
          rw [ahead isOpen, count]
  · simp only [rowsBehind, same]
    split
    · rename_i both
      obtain ⟨t, -, accepted, ahead⟩ := fits (k.withRows asked) r live both.1 both.2
      omega
    · exact whole

theorem Holds.returnHeldPages (h : Holds k spared s) (age : Nat) : Holds k spared (returnHeldPages age s) := by
  unfold Machine.returnHeldPages
  split
  · split
    · exact (h.freeRequestPages age).offerRecords
    · exact h
  · exact h

/-- The end of a chunk write keeps the laws (R69). -/
theorem Holds.endChunkWrite (h : Holds k none s) {c : Chunk} {later : List Chunk} (buffer : s.inflow.buffer = c :: later) :
    Holds k none (endChunkWrite c s) := by
  rw [endChunkWrite_eq]
  have whole := h.advanceChunk c.data.length
  have counted := (whole.countRows (c := c) (later := later) (by simpa using buffer)).returnHeldPages c.age
  refine counted.takeNextChunk fun _ _ busy => ?_
  rw [(returnHeldPages_keeps _ _).2.2.2.2.2.1, (countRows_keeps _ _).2.2.2.2.2.2.1,
    (writeEnded_keeps _).2.2.2.2.2.2.1] at busy
  cases busy

/-! ### PIXELS (R66) -/

/-- Rows accepted behind an accepted PIXELS (R66). -/
def tallyBehind (age count : Nat) (r : Request) : Option Tally :=
  if r.age = age then r.tally.map fun t => { t with rowsAccepted := t.rowsAccepted + count } else r.tally

/-- The chunk that an accepted PIXELS puts at the tail of the buffer (R66). -/
def PixelsFields.chunk (f : PixelsFields) (r : Request) : Chunk :=
  { age := r.age, firstRow := f.firstRow, rowCount := f.rowCount, data := f.data }

/-- What the checks of PIXELS leave: a live INFLOW request with an open tally that has the rows to come (R65). -/
theorem pixelsRequestCheck_none {f : PixelsFields} {r : Request} (passed : pixelsRequestCheck f r s = none) :
    ∃ t, r.tally = some t ∧ t.closed = false ∧ t.rowsAccepted + f.rowCount ≤ r.rect.height := by
  unfold pixelsRequestCheck at passed
  split at passed
  · cases passed
  · rename_i t tally
    simp only [Option.or_eq_none_iff, failIf_eq_none_iff, decide_eq_false_iff_not, not_not, Nat.not_lt] at passed
    obtain ⟨-, isOpen, -, first, room, -⟩ := passed
    exact ⟨t, tally, isOpen, by omega⟩

/-- An accepted PIXELS keeps the laws (R66). -/
theorem Holds.acceptPixels (h : Holds k none s) {f : PixelsFields} {r : Request} (live : r ∈ s.req.table)
    (passed : pixelsRequestCheck f r s = none) : Holds k none (acceptPixels f r s) := by
  obtain ⟨t, tally, isOpen, room⟩ := pixelsRequestCheck_none passed
  refine Holds.takeNextChunk (h.counted (n := Request.rowsWritten) (t := tallyBehind r.age f.rowCount) ⟨?_, by simp, by simp,
    by simp, by simp, by simp, by simp, by simp, by simp⟩ id (fun asked => ⟨False.elim, ?_, ?_⟩) fun asked =>
      ⟨asked, fun r _ whole => whole⟩) fun _ _ _ => by simp
  · simp only [armLatch_keeps]
    refine List.map_congr_left fun q _ => ?_
    by_cases own : q.age = r.age <;> simp [Request.withCounts, tallyBehind, own]
  · simp only [armLatch_keeps, updateRequest_keeps, List.mem_append, List.mem_singleton]
    rintro c (old | rfl)
    · exact (h.rows asked).2.1 c old
    · exact (h.requests.2.2 r live).1
  · simp only [armLatch_keeps]
    intro q mem
    obtain ⟨p, there, rfl⟩ := List.mem_map.mp mem
    obtain ⟨bounded, tallied, accounts⟩ := (h.rows asked).2.2 p there
    by_cases own : p.age = r.age
    · obtain rfl := request_eq_of_age h.requests there live own
      obtain ⟨-, reporting, ahead⟩ := accounts t tally
      rw [if_pos rfl]
      simp only [tally, Option.map_some, Option.isSome_some, Option.some.injEq, forall_eq'] at tallied ⊢
      refine ⟨bounded, tallied, ?_⟩
      refine ⟨room, reporting, fun isOpen => ?_⟩
      have before := ahead isOpen
      rw [rowsBuffered_append (s := s) (c := f.chunk p) (by simp [PixelsFields.chunk])]
      simp only [PixelsFields.chunk, if_true]
      omega
    · rw [if_neg own]
      refine ⟨bounded, tallied, fun t' tally' => ?_⟩
      obtain ⟨accepted, reporting, ahead⟩ := accounts t' tally'
      refine ⟨accepted, reporting, fun isOpen => ?_⟩
      rw [rowsBuffered_append (s := s) (c := f.chunk r) (by simp [PixelsFields.chunk])]
      simpa [PixelsFields.chunk, Ne.symm own] using ahead isOpen

/-! ### The end of a snapshot (R122) -/

/-- An overlay entry that has its image is CAPTURING no longer (R122). -/
theorem Holds.captured (h : Holds k spared s) (age : Nat) : Holds k spared { s with copier := { s.copier with
    overlays := s.copier.overlays.map fun o => if o.capturing = some age then { o with capturing := none } else o } } := by
  refine h.overlaid ⟨rfl, rfl, rfl, Nat.le_refl _, rfl, rfl, rfl, rfl, rfl, rfl, rfl⟩ rfl rfl fun o mem => .inr ?_
  obtain ⟨p, there, rfl⟩ := List.mem_map.mp mem
  split <;> exact h.rects.1 p there

theorem Holds.withJobs (h : Holds k spared s) (jobs : List Job) :
    Holds k spared { s with copier := { s.copier with jobs := jobs } } :=
  h.quiet (by constructor <;> simp)

/-- A snapshot's result handed over keeps the laws: a COPY job's request, which has no tally, has all its rows (R122). -/
theorem Holds.handSnapshot (h : Holds k spared s) {j : Job}
    (copies : k.rows → ∀ age, j.purpose = .copy age → ∀ r ∈ s.req.table, r.age = age → r.source = .copy) :
    Holds k spared (handSnapshot j s) := by
  unfold Machine.handSnapshot
  split
  · rename_i age purpose
    refine Holds.wantPass (h.counted (n := fun r => if r.age = age then r.rect.height else r.rowsWritten) (t := Request.tally)
      ⟨?_, rfl, rfl, rfl, rfl, rfl, rfl, rfl, rfl⟩ id (fun asked => ?_) fun asked => ⟨asked, fun r _ whole => ?_⟩)
    · refine List.map_congr_left fun r _ => ?_
      by_cases own : r.age = age <;> simp [Request.withCounts, own]
    · obtain ⟨writer, chunks, rows⟩ := h.rows asked
      refine ⟨writer, chunks, fun q mem => ?_⟩
      obtain ⟨r, live, rfl⟩ := List.mem_map.mp mem
      obtain ⟨bounded, tallied, accounts⟩ := rows r live
      split
      · rename_i own
        have none : r.tally = none := by
          rw [← Option.not_isSome_iff_eq_none, tallied, copies asked age purpose r live own]
          simp
        exact ⟨Nat.le_refl _, tallied, fun t tally => by rw [none] at tally; cases tally⟩
      · exact ⟨bounded, tallied, accounts⟩
    · split
      · rfl
      · exact whole
  all_goals
    split
    · exact h.captured j.age
    · exact h.returnPages _

/-- The end of a snapshot keeps the laws. -/
theorem Holds.endSnapshot (h : Holds k spared s) {j : Job}
    (copies : k.rows → ∀ age, j.purpose = .copy age → ∀ r ∈ s.req.table, r.age = age → r.source = .copy) :
    Holds k spared (endSnapshot j s) := by
  refine Holds.judgeJobs (Holds.handSnapshot (Holds.clientDone ((h.advanceCopy j.rect.area).withJobs _) _) ?_)
  simpa using copies

/-- The RUNNING job is in the list. -/
theorem mem_of_currentJob {j : Job} {done : Nat} {half : Option Level} (running : currentJob s = some (j, done, half)) :
    j ∈ s.copier.jobs := by
  obtain ⟨i, mem, found⟩ := List.exists_of_findSome?_eq_some running
  cases state : i.state with
  | pending => simp [state] at found
  | running done' half' =>
    simp only [state, Option.some.injEq, Prod.mk.injEq] at found
    rwa [← found.1]

/-- The requests of COPY jobs are COPY requests (R127). -/
theorem source_of_copy (requests : requestLaw s) (jobs : jobLaw s) {j : Job} (mem : j ∈ s.copier.jobs) {age : Nat}
    (purpose : j.purpose = .copy age) {r : Request} (live : r ∈ s.req.table) (own : r.age = age) : r.source = .copy := by
  have about := (jobs.2.2.1 j mem).2.2.2
  rw [purpose] at about
  obtain ⟨q, live', own', source, -⟩ := about
  rwa [request_eq_of_age requests live live' (own.trans own'.symm)]

end

end Sys2Proof.Machine
end

section
/-!
PROOF. RESTART, CONFIGURE and the resets keep the laws (chapters 01, 03 and 11).
-/

namespace Sys2Proof.Machine

open Sys2Proof.Safety

section
variable {k : Asked} {spared : Option Nat} {s u : State}

/-! ### Requests at a RESTART (R59) -/

theorem restartRequests_table (s : State) : (restartRequests s).req.table =
    (s.req.table.filter (staysWithdrawn s)).map (withdrawnRequest s) := by
  simp [restartRequests]

theorem restartRequests_queue (s : State) : (restartRequests s).req.queue = s.req.queue.filter fun e => e.admitting := by
  simp [restartRequests]

theorem restartRequests_line (s : State) : (restartRequests s).req.line = [] := by simp [restartRequests]

/-- What a request that stays keeps: all that the laws look at but its tally, and the part of its entry. -/
theorem withdrawnRequest_keeps (s : State) (r : Request) :
    (withdrawnRequest s r).age = r.age ∧ (withdrawnRequest s r).tag = r.tag ∧ (withdrawnRequest s r).rect = r.rect
      ∧ (withdrawnRequest s r).rowsWritten = r.rowsWritten ∧ (withdrawnRequest s r).state = r.state
      ∧ (withdrawnRequest s r).partsUsed = r.partsUsed
      ∧ (withdrawnRequest s r).partsFinished = (dropWaitingPart s r).partsFinished := by
  unfold withdrawnRequest dropWaitingPart
  split
  · split <;> exact ⟨rfl, rfl, rfl, rfl, rfl, rfl, rfl⟩
  · exact ⟨rfl, rfl, rfl, rfl, rfl, rfl, rfl⟩

/-- A request's WAITING entry goes, and its part has finished (R42, R43). -/
theorem dropWaitingPart_finished (h : Holds k spared s) (r : Request) :
    (dropWaitingPart s r).partsFinished + ((s.req.queue.filter fun e => e.admitting).filter fun e => decide (e.age = r.age)).length
      = r.partsFinished + (s.req.queue.filter fun e => decide (e.age = r.age)).length := by
  rw [List.filter_comm]
  unfold dropWaitingPart
  split
  · rename_i e found
    obtain ⟨mem, own⟩ := mem_of_entryOf found
    rw [← own, entries_of_entry h.entries mem]
    cases marked : e.admitting <;> simp [marked, Request.withPartFinished]
  · rename_i absent
    have none : (s.req.queue.filter fun e => decide (e.age = r.age)) = [] := by
      rw [List.filter_eq_nil_iff]
      intro e mem
      simpa using List.find?_eq_none.mp absent e mem
    rw [none]
    rfl

theorem stays_of_lane {l : LaneId} {ln : Lane} {r : Request} (lane : laneAt s l = some ln) (tag : ln.tag = r.tag) :
    staysWithdrawn s r = true := by
  rw [staysWithdrawn, Bool.or_eq_true]
  exact .inr (anyLane_true_iff.mpr ⟨l, ln, lane, tag⟩)

theorem stays_of_entry (h : Holds k spared s) {e : QueueEntry} {r : Request} (mem : e ∈ s.req.queue)
    (marked : e.admitting = true) (own : e.age = r.age) : staysWithdrawn s r = true := by
  rw [staysWithdrawn, Bool.or_eq_true]
  exact .inl ((isAdmitting_iff h.entries r.age).mpr ⟨e, mem, own, marked⟩)

/-- A request in REPORTING does not stay (R56, R59). -/
theorem not_reporting_of_stays (h : Holds k spared s) {r : Request} (live : r ∈ s.req.table)
    (stays : staysWithdrawn s r = true) : r.state ≠ .reporting := by
  intro reporting
  obtain ⟨noEntry, noLane⟩ := none_of_finished h.parts live ((h.requests.2.2 r live).2.2.2 reporting).1
  rw [staysWithdrawn, Bool.or_eq_true] at stays
  rcases stays with entry | lane
  · obtain ⟨e, mem, own, -⟩ := (isAdmitting_iff h.entries r.age).mp entry
    exact noEntry e mem own
  · obtain ⟨l, ln, used, tag⟩ := anyLane_true_iff.mp lane
    exact noLane l ln used tag

/-- Requests at a RESTART keep the laws. -/
theorem Holds.restartRequests (h : Holds k none s) : Holds k none (restartRequests s) := by
  have lanes : ∀ l, laneAt (Machine.restartRequests s) l = laneAt s l := laneAt_congr (by simp)
  have table := restartRequests_table s
  have queue := restartRequests_queue s
  have adm : (Machine.restartRequests s).adm = s.adm := by simp
  have stays : ∀ r ∈ s.req.table, staysWithdrawn s r = true →
      withdrawnRequest s r ∈ (Machine.restartRequests s).req.table := fun r live stays => by
    rw [table]
    exact List.mem_map_of_mem (List.mem_filter.mpr ⟨live, stays⟩)
  have back : ∀ q ∈ (Machine.restartRequests s).req.table,
      ∃ r ∈ s.req.table, staysWithdrawn s r = true ∧ withdrawnRequest s r = q := fun q mem => by
    rw [table] at mem
    obtain ⟨r, kept, rfl⟩ := List.mem_map.mp mem
    exact ⟨r, (List.mem_filter.mp kept).1, (List.mem_filter.mp kept).2, rfl⟩
  refine ⟨storeLaw_congr (by simp) (by simp) h.stores, ⟨?_, ?_, fun q mem => ?_⟩,
    ⟨by rw [queue]; exact h.entries.1.sublist List.filter_sublist, fun e mem => ?_⟩, fun l ln used => ?_, fun q mem => ?_,
    ⟨by simp [restartRequests_line], fun p mem => ?_⟩, fun w walk => ?_, ownerLaw_congr (by simp) (by simp) (by simp) lanes h.owner,
    rectLaw_congr (by simp) (by simp) (by simp) h.rects, fun asked e mem q live own p live' => ?_, fun asked => ?_,
    fun asked => ⟨fun l ln used => ?_, fun w walk ready q mem own => ?_⟩⟩
  · rw [table, List.pairwise_map]
    refine (h.requests.1.sublist List.filter_sublist).imp fun lt => ?_
    rwa [(withdrawnRequest_keeps s _).1, (withdrawnRequest_keeps s _).1]
  · rw [table, List.pairwise_map]
    refine (h.requests.2.1.sublist List.filter_sublist).imp fun ne => ?_
    rwa [(withdrawnRequest_keeps s _).2.1, (withdrawnRequest_keeps s _).2.1]
  · obtain ⟨r, live, stay, rfl⟩ := back q mem
    obtain ⟨age, -, rect, -, state, used, -⟩ := withdrawnRequest_keeps s r
    obtain ⟨lt, room, ok, -⟩ := h.requests.2.2 r live
    rw [age, rect, state, used]
    exact ⟨by simpa using lt, room, by simpa using ok, fun no => absurd no (not_reporting_of_stays h live stay)⟩
  · rw [queue] at mem
    obtain ⟨there, marked⟩ := List.mem_filter.mp mem
    obtain ⟨⟨r, live, own, state, -⟩, walk⟩ := h.entries.2 e there
    obtain ⟨age, -, -, -, same, -⟩ := withdrawnRequest_keeps s r
    exact ⟨⟨_, stays r live (stays_of_entry h there marked own.symm), age.trans own, by rw [same]; exact state, fun _ => .inl marked⟩,
      by rw [adm]; exact walk⟩
  · rw [lanes] at used
    obtain ⟨r, live, own, same⟩ := h.lanes l ln used
    obtain ⟨-, tag, rect, -⟩ := withdrawnRequest_keeps s r
    exact ⟨_, stays r live (stays_of_lane used own.symm), tag.trans own, rect.trans same⟩
  · obtain ⟨r, live, -, rfl⟩ := back q mem
    obtain ⟨age, tag, -, -, -, used, finished⟩ := withdrawnRequest_keeps s r
    rw [age, tag, used, finished, queue, laneOf_congr lanes, dropWaitingPart_finished h]
    exact h.parts r live
  · rw [restartRequests_line] at mem
    cases mem
  · rw [adm] at walk
    obtain ⟨⟨e, mem, own⟩, read⟩ := h.readings w walk
    refine ⟨⟨e, ?_, own⟩, fun q mem' same => ?_⟩
    · rw [queue]
      exact List.mem_filter.mpr ⟨mem, (h.entries.2 e mem).2.mpr ⟨w, walk, own.symm⟩⟩
    · obtain ⟨r, live, -, rfl⟩ := back q mem'
      obtain ⟨age, -, rect, -⟩ := withdrawnRequest_keeps s r
      rw [rect]
      obtain ⟨bounded, each⟩ := read r live (age.symm.trans same)
      exact ⟨bounded, fun i x at_i => readingLaw_congr (by simp) (by simp) (each i x at_i)⟩
  · rw [queue] at mem
    obtain ⟨q₀, live₀, -, rfl⟩ := back q live
    obtain ⟨p₀, live₁, -, rfl⟩ := back p live'
    obtain ⟨age, -, rect, -⟩ := withdrawnRequest_keeps s q₀
    obtain ⟨age', tag', rect', -⟩ := withdrawnRequest_keeps s p₀
    rw [age] at own ⊢
    simp only [lanes, adm, rect, age', tag', rect']
    exact h.order asked e (List.mem_filter.mp mem).1 q₀ live₀ own p₀ live₁
  · obtain ⟨writer, chunks, rows⟩ := h.rows asked
    refine ⟨by simpa using writer, by simpa using chunks, fun q mem => ?_⟩
    obtain ⟨r, live, -, rfl⟩ := back q mem
    obtain ⟨-, -, rect, written, -⟩ := withdrawnRequest_keeps s r
    rw [rect, written]
    exact ⟨(rows r live).1, by simp [withdrawnRequest], fun t no => by simp [withdrawnRequest] at no⟩
  · rw [lanes] at used
    have written : allRowsWritten s ln → allRowsWritten (Machine.restartRequests s) ln := fun ⟨r, live, own, all⟩ => by
      obtain ⟨-, tag, rect, written, -⟩ := withdrawnRequest_keeps s r
      exact ⟨_, stays r live (stays_of_lane used own.symm), tag.trans own, by rw [written, rect, all]⟩
    obtain ⟨active, late, early⟩ := (h.start asked).1 l ln used
    exact ⟨fun st index => written (active st index), fun st data => written (late st data), early⟩
  · rw [adm] at walk
    obtain ⟨r, live, -, rfl⟩ := back q mem
    obtain ⟨age, -, rect, written, -⟩ := withdrawnRequest_keeps s r
    rw [written, rect]
    exact (h.start asked).2 w walk ready r live (age.symm.trans own)

/-- No request has a tally behind a RESTART (R77). -/
theorem restartRequests_tally (s : State) : ∀ r ∈ (restartRequests s).req.table, r.tally = none := by
  rw [restartRequests_table]
  intro q mem
  obtain ⟨r, -, rfl⟩ := List.mem_map.mp mem
  rfl

/-! ### The other units at a RESTART (R77, R98, R116, R134, R144) -/

theorem Holds.restartLanes (h : Holds k spared s) : Holds k spared (restartLanes s) := by
  refine h.turned (by constructor <;> simp) (by simp)
    (lanesTurn_of_map (g := fun _ ln => (ln.aborted .restarted).released .aborted) (laneAt_restartLanes s) fun _ ln => ?_)
  rcases ln.aborted_turns .restarted with same | aborted
  · rw [same]
    exact ln.released_turns _
  · obtain ⟨tag, rect, mode, kind, state⟩ := aborted
    have stays : (ln.aborted .restarted).released .aborted = ln.aborted .restarted := by simp [Lane.released, state]
    rw [stays]
    exact .inr ⟨tag, rect, mode, kind, state⟩

/-- The inflow buffer emptied keeps the laws where no request has a tally (R77). -/
theorem Holds.restartInflow (h : Holds k spared s) (none : ∀ r ∈ s.req.table, r.tally = none) :
    Holds k spared (restartInflow s) := by
  have table : (Machine.restartInflow s).req.table = s.req.table := by simp
  have buffer : (Machine.restartInflow s).inflow = Inflow.initial := by simp [Machine.restartInflow]
  refine h.counted (n := Request.rowsWritten) (t := Request.tally) ⟨by rw [table, withCounts_id], by simp, by simp, by simp, by simp,
    by simp, by simp, by simp, by simp⟩ id (fun asked => ⟨fun _ => by simp [buffer, Inflow.initial], ?_, ?_⟩) fun asked =>
      ⟨asked, fun r _ whole => whole⟩
  · simp [buffer, Inflow.initial]
  · rw [table]
    intro r live
    obtain ⟨bounded, tallied, -⟩ := (h.rows asked).2.2 r live
    refine ⟨bounded, tallied, fun t tally => ?_⟩
    rw [none r live] at tally
    cases tally

theorem Holds.emptyCopier (h : Holds k spared s) : Holds k spared (emptyCopier s) :=
  h.overlaid (by constructor <;> simp) (by simp) (by simp) fun o mem => by
    simp [Machine.emptyCopier, Copier.initial] at mem

theorem Holds.restartAdmission (h : Holds k spared s) : Holds k spared (restartAdmission s) :=
  h.quiet (by constructor <;> simp)

theorem Holds.restartRails (h : Holds k spared s) : Holds k spared (restartRails s) :=
  h.quiet (by constructor <;> simp)

theorem Holds.restartLink (h : Holds k spared s) : Holds k spared (restartLink s) :=
  h.quiet (by constructor <;> simp)

/-- A RESTART keeps the laws (R169). -/
theorem Holds.restart (h : Holds k none s) : Holds k none (restart s) := by
  have requests := h.restartLanes.restartRequests
  have emptied := (requests.restartInflow (restartRequests_tally _)).emptyCopier
  exact emptied.restartAdmission.restartRails.restartLink

/-! ### CONFIGURE and the resets (R8, R165, R170) -/

/-- Nothing is in use, and every pixel is as a fresh table has it. -/
structure Blank (s : State) : Prop where
  table : s.req.table = []
  queue : s.req.queue = []
  line : s.req.line = []
  lanes : ∀ l, laneAt s l = none
  walk : s.adm.walk = none
  pixels : s.px.pixels = []
  bytes : Memory.wf s.pool.bytes = true
  overlays : s.copier.overlays = []
  pixelWalk : ∀ r level done, s.px.walk ≠ some (.assume r level done)

/-- A blank state has the laws, given that of its chunks. -/
theorem Blank.holds (blank : Blank s) (rows : k.rows → rowsKept k.writer s) : Holds k none s where
  stores := ⟨blank.bytes, by rw [blank.pixels]; rfl⟩
  requests := by simp [requestLaw, blank.table]
  entries := by simp [entriesLaw, blank.queue]
  lanes := by simp [laneLaw, blank.lanes]
  parts := by simp [partsLaw, blank.table]
  line := by simp [lineLaw, blank.line]
  readings := by simp [readingsLaw, blank.walk]
  owner := by
    intro x y l _ owns
    rw [pixelAt, blank.pixels] at owns
    cases owns
  rects := by simp [rectLaw, blank.overlays, blank.pixelWalk]
  order _ := by simp [orderLaw, blank.queue]
  rows := rows
  start _ := by simp [startLaw, blank.lanes, blank.walk]

theorem Blank.initial (link : LinkPort) (epoch : Nat) (pending : List Instr) : Blank (State.initial link epoch pending) := by
  refine ⟨rfl, rfl, rfl, fun l => ?_, rfl, rfl, rfl, rfl, fun _ _ _ no => by cases no⟩
  simp only [laneAt, State.initial]
  exact Vector.getElem_replicate ..

/-- Every state a reset leaves has the laws (R170). -/
theorem Lawful.initial (k : Asked) (link : LinkPort) (epoch : Nat) (pending : List Instr) :
    Lawful k (State.initial link epoch pending) := by
  refine ⟨(Blank.initial link epoch pending).holds fun _ => ?_, rfl⟩
  simp [rowsKept, State.initial, Inflow.initial, Requests.initial]

theorem Holds.applySettings (h : Holds k spared s) (c : Settings) : Holds k spared (applySettings c s) :=
  h.quiet (by constructor <;> simp)

/-- A new geometry keeps the laws where no request is live and no lane in use (R8, R165). -/
theorem Holds.newTable (h : Holds k none s) (g : Geometry) (table : s.req.table = []) (free : ∀ l, laneAt s l = none) :
    Holds k none (newTable g s) := by
  have queue : s.req.queue = [] := by
    rw [List.eq_nil_iff_forall_not_mem]
    intro e mem
    obtain ⟨⟨r, live, -⟩, -⟩ := h.entries.2 e mem
    rw [table] at live
    cases live
  have line : s.req.line = [] := by
    rw [List.eq_nil_iff_forall_not_mem]
    intro p mem
    obtain ⟨r, live, -⟩ := h.line.2 p mem
    rw [table] at live
    cases live
  have walk : s.adm.walk = none := by
    rw [Option.eq_none_iff_forall_ne_some]
    intro w walking
    obtain ⟨⟨e, mem, -⟩, -⟩ := h.readings w walking
    rw [queue] at mem
    cases mem
  have blank : Blank (Machine.newTable g s) := by
    refine ⟨by simpa using table, by simpa using queue, by simpa using line, fun l => ?_, by simpa using walk,
      by simp [Machine.newTable], by simpa using h.stores.1, by simp [Machine.newTable, Machine.emptyCopier, Copier.initial],
      fun r level done no => by simp [Machine.newTable] at no⟩
    rw [laneAt_congr (s := s) (by simp)]
    exact free l
  refine blank.holds fun asked => ?_
  simpa [rowsKept, rowsBuffered] using h.rows asked

/-- The geometry in force keeps the laws, or becomes a new one with no request live and no lane in use. -/
theorem Holds.applyGeometry (h : Holds k none s) (g : Geometry) (table : s.req.table = []) (free : ∀ l, laneAt s l = none) :
    Holds k none (applyGeometry g s) := by
  unfold Machine.applyGeometry
  split
  · exact h
  · exact h.newTable g table free

/-- What the checks of CONFIGURE leave (R165): no live request, and every lane FREE. -/
theorem configureCheck_none {p : List Byte} (passed : configureCheck p s = none) :
    s.req.table = [] ∧ ∀ l, laneAt s l = none := by
  simp only [configureCheck, configureBusy, allFree, Option.or_eq_none_iff, failIf_eq_none_iff, Bool.or_eq_false_iff,
    Bool.not_eq_false', List.isEmpty_iff, List.all_eq_true, Option.isNone_iff_eq_none] at passed
  obtain ⟨-, -, -, ⟨⟨table, free⟩, -⟩, -⟩ := passed
  exact ⟨table, fun l => free l (mem_allLanes l)⟩

end

end Sys2Proof.Machine
end

section
/-!
PROOF. Every command keeps the laws, and with it every step (chapter 01, log 30).
-/

namespace Sys2Proof.Machine

open Sys2Proof.Safety

section
variable {k : Asked} {s u : State}

/-- The law of the pass is kept with pass and walk. -/
theorem Lawful.kept (h : Lawful k s) (held : Holds k none u) (running : u.adm.passRunning = s.adm.passRunning)
    (walk : u.adm.walk = s.adm.walk) : Lawful k u :=
  ⟨held, by rw [passLaw, running, walk]; exact h.2⟩

/-! ### Taking a command (R160, R161) -/

theorem Lawful.atRisingEdge (h : Lawful k s) (t : Transfer) : Lawful k (atRisingEdge t s) :=
  h.quiet (by constructor <;> simp) (by simp)

/-- A row that takes a command keeps the laws where its effect does, and the rule behind its reply. -/
theorem Lawful.takeCommand (h : Lawful k s) {kind : Kind} {t : Transfer} {admits : List Byte → Bool}
    {effect : List Byte → State → Effect} {after : State → State} (next : takeCommand kind t admits effect after s = .next u)
    (taken : ∀ p v, Lawful k v → Lawful k (effect p v).1) (later : ∀ v, Lawful k v → Lawful k (after v)) : Lawful k u := by
  rcases takeCommand_next next with rfl | ⟨seq, p, -, rfl⟩
  · exact h.atRisingEdge t
  · have ended := (taken p _ (h.atRisingEdge t)).finish (Machine.atRisingEdge t s)
    exact later _ (ended.quiet (by constructor <;> simp) (by simp))

theorem Lawful.takeKind (h : Lawful k s) {kind : Kind} {t : Transfer} {effect : List Byte → State → Effect}
    (next : takeKind kind t effect s = .next u) (taken : ∀ p v, Lawful k v → Lawful k (effect p v).1) : Lawful k u :=
  h.takeCommand next taken fun _ held => held

/-! ### Commands that leave the books alone -/

theorem Lawful.takeIdent (h : Lawful k s) (p : List Byte) : Lawful k (takeIdent p s).1 := by
  unfold Machine.takeIdent; split <;> exact h

theorem Lawful.takeStatus (h : Lawful k s) (p : List Byte) : Lawful k (takeStatus p s).1 := by
  unfold Machine.takeStatus; split <;> exact h

theorem Lawful.autoClear (h : Lawful k s) : Lawful k (autoClear s) :=
  h.quiet (by constructor <;> simp) (by simp)

theorem Lawful.takeCounters (h : Lawful k s) (p : List Byte) : Lawful k (takeCounters p s).1 := by
  unfold Machine.takeCounters; split <;> exact h

theorem Lawful.clearCounters (h : Lawful k s) : Lawful k (clearCounters s) :=
  h.quiet (by constructor <;> simp) (by simp)

theorem Lawful.takeNoticeSet (h : Lawful k s) (p : List Byte) : Lawful k (takeNoticeSet p s).1 := by
  unfold Machine.takeNoticeSet
  split
  · exact h
  · exact h.quiet (by constructor <;> simp [accepted])
      (by simp [accepted])

theorem Lawful.takeNoticeTake (h : Lawful k s) (p : List Byte) : Lawful k (takeNoticeTake p s).1 := by
  unfold Machine.takeNoticeTake
  split
  · exact h
  · exact h.quiet (by constructor <;> simp) (by simp)

/-- A change of library state (R25). -/
theorem Lawful.setLibrary (h : Lawful k s) (lib : Library) : Lawful k (setLibrary lib s) :=
  h.quiet (by constructor <;> simp) (by simp)

theorem Lawful.clientAbandon (h : Lawful k s) (who : Requester) : Lawful k (clientAbandon who s) :=
  h.quiet (by constructor <;> simp) (by simp)

theorem Lawful.clientDone (h : Lawful k s) (who : Requester) : Lawful k (clientDone who s) :=
  h.quiet (by constructor <;> simp) (by simp)

theorem Lawful.lastBursts (h : Lawful k s) (who : Requester) : Lawful k (lastBursts who s) :=
  h.quiet (by constructor <;> simp) (by simp)

theorem Lawful.raise (h : Lawful k s) (src : NoticeSource) : Lawful k (raise src s) :=
  h.quiet (by constructor <;> simp) (by simp)

theorem Lawful.takeLibBegin (h : Lawful k s) (p : List Byte) : Lawful k (takeLibBegin p s).1 := by
  unfold Machine.takeLibBegin
  split
  · exact h
  · exact (h.clientAbandon _).setLibrary _

theorem Lawful.takeLibData (h : Lawful k s) (p : List Byte) : Lawful k (takeLibData p s).1 := by
  unfold Machine.takeLibData
  split
  · exact h
  · split
    · exact h
    · exact h.quiet (by constructor <;> simp) (by simp)

theorem Lawful.takeLibCommit (h : Lawful k s) (p : List Byte) : Lawful k (takeLibCommit p s).1 := by
  unfold Machine.takeLibCommit
  split
  · exact h
  · exact h.quiet (by constructor <;> simp [accepted])
      (by simp [accepted])

theorem Lawful.takeLibAbandon (h : Lawful k s) (p : List Byte) : Lawful k (takeLibAbandon p s).1 := by
  unfold Machine.takeLibAbandon
  split
  · exact h
  · exact (h.clientAbandon _).setLibrary _

theorem Lawful.takeTemp (h : Lawful k s) (p : List Byte) : Lawful k (takeTemp p s).1 := by
  unfold Machine.takeTemp
  split
  · exact h
  · exact h.quiet (by constructor <;> simp) (by simp)

theorem Lawful.takeRails (h : Lawful k s) (p : List Byte) : Lawful k (takeRails p s).1 := by
  unfold Machine.takeRails railsOffEffect clearFaultEffect
  split
  · exact h
  · split
    · split
      · exact h.quiet (by constructor <;> simp) (by simp)
      · exact h
    · exact h.quiet (by constructor <;> simp) (by simp)

theorem Lawful.takeClearDiscard (h : Lawful k s) (p : List Byte) : Lawful k (takeClearDiscard p s).1 := by
  unfold Machine.takeClearDiscard
  split
  · exact h
  · exact h.quiet (by constructor <;> simp) (by simp)

theorem Lawful.takeFreeze (h : Lawful k s) (on : Bool) (p : List Byte) : Lawful k (takeFreeze on p s).1 := by
  unfold Machine.takeFreeze
  split
  · exact h
  · exact h.quiet (by constructor <;> simp [accepted])
      (by simp [accepted])

/-- The log's oldest records leave it, and the line offers (R177). -/
theorem Lawful.takeReadLog (h : Lawful k s) (p : List Byte) : Lawful k (takeReadLog p s).1 := by
  unfold Machine.takeReadLog
  split
  · exact h
  · have taken : Lawful k { s with notices := { s.notices with log := s.notices.log.drop (field p 0 1) } } :=
      h.quiet (by constructor <;> simp) (by simp)
    exact taken.kept taken.1.offerRecords (by simp) (by simp)

/-! ### Commands that post, cancel, feed and configure -/

/-- What `tableCheck` leaves: a tag that is not in use (R46). -/
theorem tableCheck_unused {tag : Nat} (passed : postingCheck.tableCheck tag s = none) : findTag s tag = none := by
  simp only [postingCheck.tableCheck, Option.or_eq_none_iff, failIf_eq_none_iff, Option.isSome_eq_false_iff,
    Option.isNone_iff_eq_none] at passed
  exact passed.1

theorem postUpdateFields_some {p : List Byte} {f : PostUpdate} (fields : postUpdateFields p = some f) :
    f.tag = field p 0 2 ∧ f.rect = rectField p 2 := by
  unfold postUpdateFields at fields
  split at fields
  · cases fields
  · split at fields
    · cases fields
    · split at fields
      · cases fields
      · cases fields
        exact ⟨rfl, rfl⟩

theorem Lawful.takePostUpdate (h : Lawful k s) (p : List Byte) : Lawful k (takePostUpdate p s).1 := by
  unfold Machine.takePostUpdate
  split
  · exact h
  · rename_i passed
    split
    · rename_i f fields
      obtain ⟨tag, rect⟩ := postUpdateFields_some fields
      simp only [postUpdateCheck, postingCheck, Option.or_eq_none_iff] at passed
      obtain ⟨-, -, ok, -, ⟨-, room⟩, -⟩ := passed
      exact h.kept (h.1.postUpdate (by rw [tag]; exact tableCheck_unused room) (by rw [rect]; exact ok))
        (by simp [accepted]) (by simp [accepted])
    · exact h

theorem Lawful.takePostCopy (h : Lawful k s) (p : List Byte) : Lawful k (takePostCopy p s).1 := by
  unfold Machine.takePostCopy
  split
  · exact h
  · rename_i passed
    split
    · simp only [postCopyCheck, postingCheck, Option.or_eq_none_iff] at passed
      obtain ⟨-, -, -, ok, -, ⟨-, room⟩, -⟩ := passed
      exact h.kept (h.1.postCopy _ _ (tableCheck_unused room) ok) (by simp [accepted]) (by simp [accepted])
    · exact h

theorem Lawful.takeOverlayPush (h : Lawful k s) (p : List Byte) : Lawful k (takeOverlayPush p s).1 := by
  unfold Machine.takeOverlayPush
  split
  · exact h
  · rename_i passed
    simp only [overlayPushCheck, Option.or_eq_none_iff] at passed
    obtain ⟨-, -, ok, -⟩ := passed
    exact h.kept (h.1.overlayPush ok) (by simp) (by simp)

/-- What the checks of OVERLAY_POP leave: a tag that is not in use (R131). -/
theorem overlayPopCheck_unused {p : List Byte} (passed : overlayPopCheck p s = none) : findTag s (field p 0 2) = none := by
  simp only [overlayPopCheck, Option.or_eq_none_iff] at passed
  obtain ⟨-, -, -, -, top⟩ := passed
  split at top
  · cases top
  · exact tableCheck_unused (Option.or_eq_none_iff.mp top).2

theorem Lawful.takeOverlayPop (h : Lawful k s) (p : List Byte) : Lawful k (takeOverlayPop p s).1 := by
  unfold Machine.takeOverlayPop
  split
  · exact h
  · rename_i passed
    split
    · rename_i c o _ top
      exact h.kept (h.1.overlayPop c (overlayPopCheck_unused passed) top) (by simp) (by simp)
    · exact h

theorem Lawful.takeOverlaySwap (h : Lawful k s) (p : List Byte) : Lawful k (takeOverlaySwap p s).1 := by
  unfold Machine.takeOverlaySwap
  split
  · exact h
  · rename_i passed
    split
    · rename_i c o _ top
      have unused := overlayPopCheck_unused (Option.or_eq_none_iff.mp passed).1
      exact h.kept (h.1.overlaySwap c unused top) (by simp) (by simp)
    · exact h

theorem Lawful.takeAssume (h : Lawful k s) (p : List Byte) : Lawful k (takeAssume p s).1 := by
  unfold Machine.takeAssume
  split
  · exact h
  · rename_i passed
    simp only [assumeCheck, Option.or_eq_none_iff] at passed
    exact h.kept (h.1.startAssume _ passed.2.1) (by simp [accepted]) (by simp [accepted])

/-- A CANCEL of a live request keeps the laws: recorded while its entry is ADMITTING, else taken at once (R50 to R52). -/
theorem Lawful.cancelRequest (h : Lawful k s) (r : Request) (force : Bool) : Lawful k (cancelRequest r force s).1 := by
  unfold Machine.cancelRequest
  split
  · split
    · exact h.kept (h.1.pendCancel r force) (by simp [accepted]) (by simp [accepted])
    · exact h
  · rename_i waits
    have waits : isAdmitting (closeTally r.age s) r.age = false := by
      rw [isAdmitting_congr (s := s) (by simp)]
      simpa using waits
    split
    · split
      · exact h.kept (Holds.cancelNow ((h.1.closeTally r.age).forcedCancel waits)) (by simp [accepted]) (by simp [accepted])
      · exact h
    · exact h.kept (Holds.cancelNow ((h.1.closeTally r.age).cleanCancel force waits)) (by simp [accepted]) (by simp [accepted])

theorem Lawful.takeCancel (h : Lawful k s) (p : List Byte) : Lawful k (takeCancel p s).1 := by
  unfold Machine.takeCancel
  split
  · exact h
  · split
    · exact h
    · split
      · exact h
      · split
        · exact h
        · exact h.cancelRequest _ _

theorem Lawful.countRefusal (h : Lawful k s) : Lawful k (countRefusal s) :=
  h.quiet (by constructor <;> simp) (by simp)

theorem Lawful.takePixels (h : Lawful k s) (p : List Byte) : Lawful k (takePixels p s).1 := by
  unfold Machine.takePixels
  dsimp only
  split
  · exact h.countRefusal
  · exact h.countRefusal
  · rename_i passed
    split
    · rename_i r found
      simp only [pixelsCheck, found, Option.or_eq_none_iff] at passed
      obtain ⟨-, passed⟩ := passed
      split at passed
      · cases passed
      · exact h.kept (h.1.acceptPixels (mem_of_findTag found).1 passed) (by simp) (by simp)
    · exact h

theorem Lawful.takeRestart (h : Lawful k s) (p : List Byte) : Lawful k (takeRestart p s).1 := by
  unfold Machine.takeRestart
  split
  · exact h
  · exact h.kept h.1.restart (by simp [accepted]) (by simp [accepted])

theorem Lawful.takeConfigure (h : Lawful k s) (p : List Byte) : Lawful k (takeConfigure p s).1 := by
  unfold Machine.takeConfigure
  split
  · exact h
  · rename_i passed
    obtain ⟨table, free⟩ := configureCheck_none passed
    refine h.kept ((h.1.applySettings _).applyGeometry _ (by simpa using table) fun l => ?_) (by simp [accepted])
      (by simp [accepted])
    rw [laneAt_congr (s := s) (by simp)]
    exact free l

/-! ### Events (chapters 01 to 10) -/

/-- A burst's end keeps the laws (R151). -/
theorem Lawful.finishBurst (h : Lawful k s) (who : Requester) (units : Nat) : Lawful k (finishBurst who units s) := by
  refine ⟨h.1.finishBurst who units, ?_⟩
  rw [passLaw, (finishBurst_moves who units s).2.2.2.2.1, serveBurst_walk]
  simpa [passLaw] using h.2

theorem Lawful.becomeReady (h : Lawful k s) (ready : List Requester) : Lawful k (becomeReady ready s) :=
  h.quiet (by constructor <;> simp) (by simp)

theorem Lawful.endGrant (h : Lawful k s) : Lawful k (endGrant s) :=
  h.quiet (by constructor <;> simp) (by simp)

/-- Whatever is written of the arbiter, the link, the rails or the counters. -/
theorem Lawful.withMem (h : Lawful k s) (mem : FrameMemory) : Lawful k { s with mem := mem } :=
  h.quiet (by constructor <;> simp) (by simp)

theorem Lawful.withLink (h : Lawful k s) (link : LinkPort) : Lawful k { s with link := link } :=
  h.quiet (by constructor <;> simp) (by simp)

theorem Lawful.withRails (h : Lawful k s) (rails : Rails) : Lawful k { s with rails := rails } :=
  h.quiet (by constructor <;> simp) (by simp)

theorem Lawful.failLink (h : Lawful k s) (r : Result) (seq : Byte) (t : Transfer) : Lawful k (failLink r seq t s) := by
  have taken := h.atRisingEdge t
  unfold Machine.failLink
  dsimp only
  split
  · exact taken
  · have counted : Lawful k { Machine.atRisingEdge t s with counters :=
        { (Machine.atRisingEdge t s).counters with frameErrors := bump (Machine.atRisingEdge t s).counters.frameErrors } } :=
      taken.quiet (by constructor <;> simp) (by simp)
    exact ((counted.raise .linkError).finish _).withLink _

theorem Lawful.expireInterval (h : Lawful k s) : Lawful k (expireInterval s) :=
  h.quiet (by constructor <;> simp) (by simp)

theorem Lawful.endLibWrite (h : Lawful k s) : Lawful k (endLibWrite s) :=
  h.quiet (by constructor <;> simp) (by simp)

theorem Lawful.fallRails (h : Lawful k s) : Lawful k (fallRails s) :=
  h.quiet (by constructor <;> simp) (by simp)

/-- Every command keeps the laws. That of rows asks for that of jobs: a snapshot's end gives a request its rows (R122). -/
theorem Lawful.exec {c : Instr} (h : Lawful k s) (jobs : k.rows → jobLaw s) (next : exec c s = .next u) : Lawful k u := by
  cases c with
  | powerOn => cases next; exact Lawful.initial k _ _ _
  | resetPin => cases next; exact Lawful.initial k _ _ _
  | ident t => exact h.takeKind next fun p _ held => held.takeIdent p
  | status t => exact h.takeCommand next (fun p _ held => held.takeStatus p) fun _ held => held.autoClear
  | countersRead t => exact h.takeCommand next (fun p _ held => held.takeCounters p) fun _ held => held
  | countersReadAndClear t => exact h.takeCommand next (fun p _ held => held.takeCounters p) fun _ held => held.clearCounters
  | configure t => exact h.takeKind next fun p _ held => held.takeConfigure p
  | restart t => exact h.takeKind next fun p _ held => held.takeRestart p
  | noticeSet t => exact h.takeKind next fun p _ held => held.takeNoticeSet p
  | noticeTake t => exact h.takeKind next fun p _ held => held.takeNoticeTake p
  | readLog t => exact h.takeKind next fun p _ held => held.takeReadLog p
  | libBegin t => exact h.takeKind next fun p _ held => held.takeLibBegin p
  | libData t => exact h.takeKind next fun p _ held => held.takeLibData p
  | libCommit t => exact h.takeKind next fun p _ held => held.takeLibCommit p
  | libAbandon t => exact h.takeKind next fun p _ held => held.takeLibAbandon p
  | temp t => exact h.takeKind next fun p _ held => held.takeTemp p
  | railsOff t => exact h.takeCommand next (fun p _ held => held.takeRails p) fun _ held => held
  | railsClearFault t => exact h.takeCommand next (fun p _ held => held.takeRails p) fun _ held => held
  | postUpdate t => exact h.takeKind next fun p _ held => held.takePostUpdate p
  | pixels t => exact h.takeKind next fun p _ held => held.takePixels p
  | cancel t => exact h.takeKind next fun p _ held => held.takeCancel p
  | clearDiscard t => exact h.takeKind next fun p _ held => held.takeClearDiscard p
  | postCopy t => exact h.takeKind next fun p _ held => held.takePostCopy p
  | overlayPush t => exact h.takeKind next fun p _ held => held.takeOverlayPush p
  | overlayPop t => exact h.takeKind next fun p _ held => held.takeOverlayPop p
  | overlaySwap t => exact h.takeKind next fun p _ held => held.takeOverlaySwap p
  | freeze t => exact h.takeKind next fun p _ held => held.takeFreeze true p
  | thaw t => exact h.takeKind next fun p _ held => held.takeFreeze false p
  | assume t => exact h.takeKind next fun p _ held => held.takeAssume p
  | transactionStart =>
    simp only [Machine.exec, execTransactionStart] at next
    split at next <;> cases next
    exact h.withLink _
  | poll t =>
    simp only [Machine.exec, execPoll] at next
    split at next <;> cases next
    exact h.atRisingEdge t
  | linkFailure t =>
    simp only [Machine.exec, execLinkFailure] at next
    split at next <;> cases next
    exact h.failLink _ _ t
  | initialisationWalkEnd =>
    simp only [Machine.exec, execInitialisationWalkEnd] at next
    split at next <;> cases next
    exact (h.kept (h.lastBursts _).1.endPixelWalk (by simp) (by simp)).finish s
  | assumeWalkEnd =>
    simp only [Machine.exec, execAssumeWalkEnd] at next
    split at next <;> cases next
    exact (h.kept ((h.lastBursts _).1.advancePixelWalk _).endPixelWalk (by simp) (by simp)).finish s
  | libChunkWriteEnd =>
    simp only [Machine.exec, execLibChunkWriteEnd] at next
    split at next <;> cases next
    exact (h.lastBursts _).endLibWrite.finish s
  | commitWalkEnd =>
    simp only [Machine.exec, execCommitWalkEnd] at next
    split at next <;> cases next
    exact ((((h.lastBursts _).clientDone _).setLibrary _).raise _).finish s
  | inflowChunkWriteEnd =>
    simp only [Machine.exec, execInflowChunkWriteEnd] at next
    split at next <;> cases next
    rename_i buffer
    exact (h.kept ((h.lastBursts _).1.endChunkWrite (by simpa using buffer)) (by simp) (by simp)).finish s
  | admissionWalkEnd =>
    simp only [Machine.exec, execAdmissionWalkEnd] at next
    split at next <;> cases next
    rename_i walk
    exact ((h.lastBursts _).endWalk (by simpa using walk)).finish s
  | frameStart =>
    simp only [Machine.exec, execFrameStart] at next
    (repeat' split at next) <;> cases next
    exact (h.kept h.1.startFrame (by simp) (by simp)).finish s
  | frameCompletion =>
    simp only [Machine.exec, execFrameCompletion] at next
    split at next <;> cases next
    exact (h.kept ((h.lastBursts _).1.completeFrame _) (by simp) (by simp)).finish s
  | retirementWalkEnd l =>
    simp only [Machine.exec, execRetirementWalkEnd] at next
    (repeat' split at next) <;> cases next
    rename_i lane _ _ _ retiring
    have same : laneAt (Machine.lastBursts (.retirement l) s) l = laneAt s l := laneAt_congr (by simp) l
    exact (h.kept ((h.lastBursts _).1.endRetirement (same.trans lane) retiring) (by simp) (by simp)).finish s
  | copierJobEnd =>
    simp only [Machine.exec, execCopierJobEnd] at next
    split at next <;> cases next
    rename_i running
    refine (h.kept ((h.lastBursts _).1.endSnapshot fun asked age purpose r live own => ?_) (by simp) (by simp)).finish s
    exact source_of_copy h.1.requests (jobs asked) (mem_of_currentJob running) purpose (by simpa using live) own
  | powerGoodSample high =>
    cases next
    exact (h.kept (h.1.takeSample high) (by simp) (by simp)).finish s
  | riseTimeout =>
    simp only [Machine.exec, execRiseTimeout] at next
    split at next <;> cases next
    exact (h.kept h.1.railFault (by simp) (by simp)).finish s
  | idleTimerExpiry =>
    simp only [Machine.exec, execIdleTimerExpiry] at next
    split at next <;> cases next
    exact h.fallRails.finish s
  | fallTimeEnd =>
    simp only [Machine.exec, execFallTimeEnd] at next
    split at next <;> cases next
    exact (h.withRails _).finish s
  | intervalTimerExpiry => cases next; exact h.expireInterval.finish s
  | refreshRequest ready => cases next; exact ((h.becomeReady ready).withMem _).finish s
  | refreshEnd ready =>
    simp only [Machine.exec, execRefreshEnd] at next
    split at next <;> cases next
    exact (h.becomeReady ready).endGrant.finish s
  | burstEnd units ready =>
    simp only [Machine.exec, execBurstEnd] at next
    split at next <;> cases next
    split
    · exact ((h.becomeReady ready).finishBurst _ units).endGrant.finish s
    · exact (h.becomeReady ready).endGrant.finish s
  | calibrationEnd =>
    simp only [Machine.exec, execCalibrationEnd] at next
    split at next <;> cases next
    exact (h.withMem _).finish s
  | resetRelease =>
    simp only [Machine.exec, execResetRelease] at next
    split at next <;> cases next
    exact h.withLink _

/-! ### Steps -/

/-- A step keeps the laws: the command it takes does, and the queue has no part in them. -/
theorem Lawful.step (h : Lawful k s) (jobs : k.rows → jobLaw s) (next : step s = .next u) : Lawful k u := by
  unfold Machine.step at next
  split at next
  · cases next
    exact h
  · rename_i c rest _
    have taken : Lawful k (s.withPending rest) :=
      h.quiet (by constructor <;> simp [State.withPending]) (by simp [State.withPending])
    exact taken.exec jobs next

end

/-- The laws beside `ownershipLaw`, each asked for alone, and that of starts with that of rows. -/
def Asked.nothing : Asked := { order := False, rows := False, writer := True, start := False, withRows := False.elim }

def Asked.orderAlone : Asked := { Asked.nothing with order := True }

def Asked.rowsAlone : Asked := { Asked.nothing with rows := True, withRows := False.elim }

def Asked.rowsAndStart : Asked := { Asked.rowsAlone with start := True, withRows := fun _ => trivial }

/-- Settles O59: `Lawful.step` with nothing asked for beside `ownershipLaw`, with order, with rows, and with rows and starts. -/
theorem everyStepKeepsOwnersAndRequests : Obligations.EveryStepKeepsOwnersAndRequests := by
  have iff := fun s => rowsKept_iff (writer := True) trivial s
  refine ⟨fun s u law next => ?_, fun s u ⟨law, order⟩ next => ?_, fun s u ⟨law, jobs, rows⟩ next => ?_,
    fun s u ⟨law, jobs, rows, start⟩ next => ?_⟩
  · have before : Lawful .nothing s := (holds_iff _ s).mpr ⟨law, False.elim, False.elim, False.elim⟩
    exact ((holds_iff _ u).mp (before.step False.elim next)).1
  · have before : Lawful .orderAlone s := (holds_iff _ s).mpr ⟨law, fun _ => order, False.elim, False.elim⟩
    exact ((holds_iff _ u).mp (before.step False.elim next)).2.1 trivial
  · have before : Lawful .rowsAlone s := (holds_iff _ s).mpr ⟨law, False.elim, fun _ => (iff s).mpr rows, False.elim⟩
    exact (iff u).mp (((holds_iff _ u).mp (before.step (fun _ => jobs) next)).2.2.1 trivial)
  · have before : Lawful .rowsAndStart s :=
      (holds_iff _ s).mpr ⟨law, False.elim, fun _ => (iff s).mpr rows, fun _ => start⟩
    exact ((holds_iff _ u).mp (before.step (fun _ => jobs) next)).2.2.2 trivial

end Sys2Proof.Machine
end

section
/-!
PROOF. The library's commands and events: what every other command leaves of the library and the temperature, loads opened,
continued, abandoned and committed, and the generation number (chapter 02).
-/

namespace Sys2Proof.Machine
open Sys2Proof.Safety

/-! ### Commands that leave library and temperature -/

/-- A command row leaves library and temperature where its effect does, and the rule after its reply. -/
theorem takeCommand_waves {k : Kind} {t : Transfer} {admits : List Byte → Bool} {effect : List Byte → State → Effect}
    {after : State → State} {s u : State} (h : takeCommand k t admits effect after s = .next u)
    (taken : ∀ p v, (effect p v).1.lib = v.lib ∧ (effect p v).1.temp = v.temp)
    (later : ∀ v, (after v).lib = v.lib ∧ (after v).temp = v.temp) : u.lib = s.lib ∧ u.temp = s.temp := by
  have same := takeCommand_frame (fun v => (v.lib, v.temp)) h (by simp) (fun p v => by simp [taken p v]) (by simp)
    fun v => by simp [later v]
  exact Prod.mk.inj same

theorem takeKind_waves {k : Kind} {t : Transfer} {effect : List Byte → State → Effect} {s u : State}
    (h : takeKind k t effect s = .next u) (taken : ∀ p v, (effect p v).1.lib = v.lib ∧ (effect p v).1.temp = v.temp) :
    u.lib = s.lib ∧ u.temp = s.temp :=
  takeCommand_waves h taken fun _ => ⟨rfl, rfl⟩

theorem takeCounters_waves (p : List Byte) (s : State) :
    (takeCounters p s).1.lib = s.lib ∧ (takeCounters p s).1.temp = s.temp := by
  unfold takeCounters; split <;> exact ⟨rfl, rfl⟩

theorem takeRails_waves (p : List Byte) (s : State) : (takeRails p s).1.lib = s.lib ∧ (takeRails p s).1.temp = s.temp := by
  unfold takeRails railsOffEffect clearFaultEffect; (repeat' split) <;> simp

theorem takeFreeze_waves (on : Bool) (p : List Byte) (s : State) :
    (takeFreeze on p s).1.lib = s.lib ∧ (takeFreeze on p s).1.temp = s.temp := by
  unfold takeFreeze; split <;> exact ⟨rfl, rfl⟩

theorem takeCancel_waves (p : List Byte) (s : State) : (takeCancel p s).1.lib = s.lib ∧ (takeCancel p s).1.temp = s.temp := by
  unfold takeCancel cancelRequest
  (repeat' split) <;> simp [refused, accepted]

theorem exec_waves {c : Instr} {s u : State} (h : exec c s = .next u) (lib : writesLibrary c = false)
    (temp : writesTemperature c = false) : u.lib = s.lib ∧ u.temp = s.temp := by
  cases c with
  | powerOn | resetPin | libBegin _ | libData _ | libCommit _ | libAbandon _ | libChunkWriteEnd | commitWalkEnd
  | burstEnd _ _ => cases lib
  | configure _ | temp _ | intervalTimerExpiry => cases temp
  | ident t => exact takeKind_waves h fun p v => by unfold takeIdent; split <;> exact ⟨rfl, rfl⟩
  | status t => exact takeCommand_waves h (fun p v => by unfold takeStatus; split <;> exact ⟨rfl, rfl⟩) fun v => by simp
  | countersRead t => exact takeCommand_waves h takeCounters_waves fun v => ⟨rfl, rfl⟩
  | countersReadAndClear t => exact takeCommand_waves h takeCounters_waves fun v => by simp
  | restart t => exact takeKind_waves h fun p v => by unfold takeRestart; split <;> simp [refused, accepted]
  | noticeSet t => exact takeKind_waves h fun p v => by unfold takeNoticeSet; split <;> exact ⟨rfl, rfl⟩
  | noticeTake t => exact takeKind_waves h fun p v => by unfold takeNoticeTake; split <;> simp [refused]
  | readLog t => exact takeKind_waves h fun p v => by unfold takeReadLog; split <;> simp [refused]
  | railsOff t => exact takeCommand_waves h takeRails_waves fun v => ⟨rfl, rfl⟩
  | railsClearFault t => exact takeCommand_waves h takeRails_waves fun v => ⟨rfl, rfl⟩
  | postUpdate t => exact takeKind_waves h fun p v => by unfold takePostUpdate; (repeat' split) <;> simp [refused, accepted]
  | pixels t => exact takeKind_waves h fun p v => by unfold takePixels; dsimp only; (repeat' split) <;> simp [refused]
  | cancel t => exact takeKind_waves h takeCancel_waves
  | clearDiscard t => exact takeKind_waves h fun p v => by unfold takeClearDiscard; split <;> exact ⟨rfl, rfl⟩
  | postCopy t => exact takeKind_waves h fun p v => by unfold takePostCopy; (repeat' split) <;> simp [refused, accepted]
  | overlayPush t => exact takeKind_waves h fun p v => by unfold takeOverlayPush; split <;> simp [refused]
  | overlayPop t => exact takeKind_waves h fun p v => by unfold takeOverlayPop; (repeat' split) <;> simp [refused]
  | overlaySwap t => exact takeKind_waves h fun p v => by unfold takeOverlaySwap; (repeat' split) <;> simp [refused]
  | freeze t => exact takeKind_waves h (takeFreeze_waves _)
  | thaw t => exact takeKind_waves h (takeFreeze_waves _)
  | assume t => exact takeKind_waves h fun p v => by unfold takeAssume; split <;> simp [refused, accepted]
  | transactionStart => simp only [exec, execTransactionStart] at h; split at h <;> cases h; simp
  | poll t => simp only [exec, execPoll] at h; split at h <;> cases h; simp
  | linkFailure t =>
    simp only [exec, execLinkFailure, failLink] at h
    split at h <;> cases h
    split <;> simp
  | initialisationWalkEnd => simp only [exec, execInitialisationWalkEnd] at h; split at h <;> cases h; simp
  | assumeWalkEnd => simp only [exec, execAssumeWalkEnd] at h; split at h <;> cases h; simp
  | inflowChunkWriteEnd => simp only [exec, execInflowChunkWriteEnd] at h; split at h <;> cases h; simp
  | admissionWalkEnd => simp only [exec, execAdmissionWalkEnd] at h; split at h <;> cases h; simp
  | frameStart => simp only [exec, execFrameStart] at h; (repeat' split at h) <;> cases h; simp
  | frameCompletion => simp only [exec, execFrameCompletion] at h; split at h <;> cases h; simp
  | retirementWalkEnd l => simp only [exec, execRetirementWalkEnd] at h; (repeat' split at h) <;> cases h; simp
  | copierJobEnd => simp only [exec, execCopierJobEnd] at h; split at h <;> cases h; simp
  | powerGoodSample high => cases h; simp
  | riseTimeout => simp only [exec, execRiseTimeout] at h; split at h <;> cases h; simp
  | idleTimerExpiry => simp only [exec, execIdleTimerExpiry] at h; split at h <;> cases h; simp
  | fallTimeEnd => simp only [exec, execFallTimeEnd] at h; split at h <;> cases h; simp
  | refreshRequest ready => cases h; simp
  | refreshEnd ready => simp only [exec, execRefreshEnd] at h; split at h <;> cases h; simp
  | calibrationEnd => simp only [exec, execCalibrationEnd] at h; split at h <;> cases h; simp
  | resetRelease => simp only [exec, execResetRelease] at h; split at h <;> cases h; simp

/-! ### Commands that write the library or the temperature -/

/-- What a row that takes its kind in all forms leaves of library and temperature: what its transaction's end left, or what its
effect did. -/
theorem takeKind_leaves {k : Kind} {t : Transfer} {effect : List Byte → State → Effect} {s u : State}
    (h : takeKind k t effect s = .next u) : (u.lib = s.lib ∧ u.temp = s.temp)
      ∨ ∃ p, u.lib = (effect p (atRisingEdge t s)).1.lib ∧ u.temp = (effect p (atRisingEdge t s)).1.temp := by
  rcases takeCommand_next h with rfl | ⟨seq, p, -, rfl⟩
  · exact .inl (by simp)
  · exact .inr ⟨p, by simp⟩

/-- CONFIGURE writes of both the interval timer alone (R149). -/
theorem takeConfigure_waves (p : List Byte) (s : State) : (takeConfigure p s).1.lib = s.lib
    ∧ (takeConfigure p s).1.temp = { s.temp with timer := (takeConfigure p s).1.temp.timer } := by
  unfold takeConfigure
  split
  · exact ⟨rfl, rfl⟩
  · simp [accepted, applySettings]

/-- Settles O45: CONFIGURE and the temperature's own commands write no library, and every other command outside chapter 02 leaves
library and temperature alone (`exec_waves`). -/
theorem libraryFrame : Obligations.LibraryFrame := by
  intro c s u h quiet
  by_cases temp : writesTemperature c = false
  · exact (exec_waves h quiet temp).1
  · cases c with
    | powerOn | resetPin | libBegin _ | libAbandon _ | commitWalkEnd => cases quiet
    | configure t =>
      rcases takeKind_leaves h with ⟨lib, -⟩ | ⟨p, lib, -⟩
      · exact lib
      · rw [lib, (takeConfigure_waves p _).1]; simp
    | temp t =>
      rcases takeKind_leaves h with ⟨lib, -⟩ | ⟨p, lib, -⟩
      · exact lib
      · rw [lib]; unfold takeTemp; split <;> simp [refused]
    | intervalTimerExpiry => cases h; simp
    | _ => exact absurd rfl temp

/-! ### What a load leaves (R26, R29 to R31) -/

/-- Library state, generation number and bounds, which the commands and bursts of a load leave alone, and the temperature. -/
structure SameBands (s u : State) : Prop where
  state : u.lib.state = s.lib.state
  generation : u.lib.generation = s.lib.generation
  bounds : u.lib.bounds = s.lib.bounds
  temp : u.temp = s.temp

theorem sameBands_of_eq {s u : State} (lib : u.lib = s.lib) (temp : u.temp = s.temp) : SameBands s u := by
  constructor <;> simp [lib, temp]

theorem SameBands.trans {a b c : State} (h : SameBands a b) (k : SameBands b c) : SameBands a c :=
  ⟨k.state.trans h.state, k.generation.trans h.generation, k.bounds.trans h.bounds, k.temp.trans h.temp⟩

/-- A row whose effect leaves the bands leaves them. -/
theorem takeKind_bands {k : Kind} {t : Transfer} {effect : List Byte → State → Effect} {s u : State}
    (h : takeKind k t effect s = .next u) (taken : ∀ p v, SameBands v (effect p v).1) : SameBands s u := by
  rcases takeKind_leaves h with ⟨lib, temp⟩ | ⟨p, lib, temp⟩
  · exact sameBands_of_eq lib temp
  · exact (sameBands_of_eq (by simp) (by simp)).trans ((taken p (atRisingEdge t s)).trans (sameBands_of_eq lib temp))

theorem startCommit_bands (s : State) : SameBands s (startCommit s) := by
  unfold startCommit
  split
  · exact ⟨rfl, rfl, rfl, rfl⟩
  · constructor <;> simp

theorem endLibWrite_bands (s : State) : SameBands s (endLibWrite s) := by
  have stored : SameBands s (clientDone .library { s with lib := endedWrite s.lib }) := ⟨rfl, rfl, rfl, rfl⟩
  unfold endLibWrite
  dsimp only
  split
  · exact stored.trans (startCommit_bands _)
  · exact stored

theorem takeLibData_bands (p : List Byte) (s : State) : SameBands s (takeLibData p s).1 := by
  unfold takeLibData
  split
  · exact sameBands_of_eq rfl rfl
  · split
    · exact sameBands_of_eq rfl rfl
    · constructor <;> simp

theorem takeLibCommit_bands (p : List Byte) (s : State) : SameBands s (takeLibCommit p s).1 := by
  unfold takeLibCommit
  split
  · exact sameBands_of_eq rfl rfl
  · have stored : SameBands s { s with lib := { s.lib with hostCrc := BitVec.ofNat 16 (field p 0 2) } } :=
      ⟨rfl, rfl, rfl, rfl⟩
    exact stored.trans (startCommit_bands _)

/-- The commands that open a load, end one, or reset (R27, R33, R34, R170). -/
def writesBands : Instr → Bool
  | .libBegin _ | .libAbandon _ | .commitWalkEnd => true
  | c => resets c

/-- Every command that neither opens nor ends a load, resets or moves the temperature leaves bands and temperature. -/
theorem exec_bands {c : Instr} {s u : State} (h : exec c s = .next u) (bands : writesBands c = false)
    (temp : writesTemperature c = false) : SameBands s u := by
  by_cases lib : writesLibrary c = false
  · exact sameBands_of_eq (exec_waves h lib temp).1 (exec_waves h lib temp).2
  · cases c with
    | powerOn | resetPin | libBegin _ | libAbandon _ | commitWalkEnd => cases bands
    | libData t => exact takeKind_bands h takeLibData_bands
    | libCommit t => exact takeKind_bands h takeLibCommit_bands
    | libChunkWriteEnd =>
      simp only [exec, execLibChunkWriteEnd] at h
      split at h <;> cases h
      have before : SameBands s (lastBursts .library s) := sameBands_of_eq (by simp) (by simp)
      exact before.trans ((endLibWrite_bands _).trans (sameBands_of_eq (by simp) (by simp)))
    | burstEnd units ready =>
      simp only [exec, execBurstEnd] at h
      split at h <;> cases h
      split <;> constructor <;> simp
    | _ => exact absurd rfl lib

/-- The same of the library's part, whatever the temperature does. -/
theorem exec_libraryBands {c : Instr} {s u : State} (h : exec c s = .next u) (bands : writesBands c = false) :
    u.lib.state = s.lib.state ∧ u.lib.generation = s.lib.generation ∧ u.lib.bounds = s.lib.bounds := by
  by_cases lib : writesLibrary c = false
  · simp [libraryFrame c s u h lib]
  · have temp : writesTemperature c = false := by
      cases c <;> simp_all [writesLibrary, writesBands, writesTemperature, resets]
    obtain ⟨state, generation, bounds, -⟩ := exec_bands h bands temp
    exact ⟨state, generation, bounds⟩

/-! ### Loads opened, abandoned and committed (R26, R27, R33, R34) -/

/-- A library set writes, of library and temperature, what follows from the library and the reading alone (R25, R145). -/
theorem setLibrary_waves (lib : Library) {s v : State} (temp : v.temp = s.temp) :
    (setLibrary lib v).lib = lib ∧ (setLibrary lib v).temp = (setLibrary lib s).temp := by
  refine ⟨setLibrary_lib lib v, ?_⟩
  simp only [setLibrary, recomputeTemp_temp, temp]

/-- The checks of LIB_BEGIN, LIB_DATA and LIB_ABANDON look past the link. -/
theorem libBeginCheck_atRisingEdge (p : List Byte) (t : Transfer) (s : State) :
    libBeginCheck p (atRisingEdge t s) = libBeginCheck p s := by rw [atRisingEdge_eq]; rfl

theorem libDataCheck_atRisingEdge (p : List Byte) (t : Transfer) (s : State) :
    libDataCheck p (atRisingEdge t s) = libDataCheck p s := by rw [atRisingEdge_eq]; rfl

theorem libAbandonCheck_atRisingEdge (p : List Byte) (t : Transfer) (s : State) :
    libAbandonCheck p (atRisingEdge t s) = libAbandonCheck p s := by rw [atRisingEdge_eq]; rfl

/-- LIB_BEGIN leaves library and temperature, or loads the library its payload carries (R27). -/
theorem exec_libBegin {t : Transfer} {s u : State} (h : exec (.libBegin t) s = .next u) :
    (u.lib = s.lib ∧ u.temp = s.temp) ∨ ∃ p, libBeginCheck p s = none ∧ u.lib = loadingLibrary p s.lib
      ∧ u.temp = (setLibrary (loadingLibrary p s.lib) s).temp := by
  rcases takeKind_leaves h with same | ⟨p, lib, temp⟩
  · exact .inl same
  · rw [takeLibBegin, libBeginCheck_atRisingEdge] at lib temp
    cases check : libBeginCheck p s with
    | some r => exact .inl (by simpa [check, refused] using And.intro lib temp)
    | none =>
      obtain ⟨written, recomputed⟩ := setLibrary_waves (loadingLibrary p s.lib) (s := s)
        (v := clientAbandon .library (atRisingEdge t s)) (by simp)
      simp only [check, atRisingEdge_keeps] at lib temp
      exact .inr ⟨p, check, lib.trans written, temp.trans recomputed⟩

/-- LIB_ABANDON leaves library and temperature, or empties the library (R34). -/
theorem exec_libAbandon {t : Transfer} {s u : State} (h : exec (.libAbandon t) s = .next u) :
    (u.lib = s.lib ∧ u.temp = s.temp) ∨ u.lib = clearedLibrary .empty .none s.lib.generation
      ∧ u.temp = (setLibrary (clearedLibrary .empty .none s.lib.generation) s).temp := by
  rcases takeKind_leaves h with same | ⟨p, lib, temp⟩
  · exact .inl same
  · rw [takeLibAbandon] at lib temp
    cases check : libAbandonCheck p (atRisingEdge t s) with
    | some r => exact .inl (by simpa [check, refused] using And.intro lib temp)
    | none =>
      obtain ⟨written, recomputed⟩ := setLibrary_waves (clearedLibrary .empty .none s.lib.generation) (s := s)
        (v := clientAbandon .library (atRisingEdge t s)) (by simp)
      simp only [check, accepted, atRisingEdge_keeps] at lib temp
      exact .inr ⟨lib.trans written, temp.trans recomputed⟩

/-- The end of the commit walk leaves the library VALID or INVALID (R33). -/
theorem exec_commitWalkEnd {s u : State} (h : exec .commitWalkEnd s = .next u) :
    u.lib = committedLibrary s.lib ∧ u.temp = (setLibrary (committedLibrary s.lib) s).temp := by
  simp only [exec, execCommitWalkEnd] at h
  split at h <;> cases h
  obtain ⟨written, recomputed⟩ := setLibrary_waves (committedLibrary s.lib) (s := s)
    (v := clientDone .library (lastBursts .library s)) (by simp)
  exact ⟨by simpa using written, by simpa using recomputed⟩

/-- The commit walk's end counts a library it leaves VALID, and keeps the number of one it leaves INVALID (R26, R33). -/
theorem committedLibrary_spec (lib : Library) :
    (committedLibrary lib).state = .valid ∧ (committedLibrary lib).generation = nextGeneration lib.generation
        ∧ (committedLibrary lib).bounds = lib.bounds
      ∨ (committedLibrary lib).state = .invalid ∧ (committedLibrary lib).generation = lib.generation
        ∧ (committedLibrary lib).bounds = [] := by
  unfold committedLibrary
  split
  · exact .inl ⟨rfl, rfl, rfl⟩
  · exact .inr ⟨rfl, rfl, rfl⟩

/-- Power-on and the RESET pin leave the library as it is initially (R24, R170). -/
theorem exec_resets_lib {c : Instr} {s u : State} (h : exec c s = .next u) (reset : resets c = true) :
    u.lib = Library.initial ∧ u.temp = Temperature.initial := by
  cases c with
  | powerOn | resetPin => cases h; exact ⟨rfl, rfl⟩
  | _ => cases reset

/-- Settles O21: a commit walk's end counts as `committedLibrary_spec` says, LIB_BEGIN and LIB_ABANDON hand the number on, and
no other command moves it (`exec_libraryBands`). -/
theorem generationNumberFollowsTheCommits : Obligations.GenerationNumberFollowsTheCommits := by
  refine ⟨fun c s u reset h => by rw [(exec_resets_lib h reset).1]; rfl, fun s u bounded h => ?_,
    fun c s u noReset noCommit h => ?_⟩
  · rw [(exec_commitWalkEnd h).1]
    have next : nextGeneration s.lib.generation =
        if s.lib.generation = 65535 then 1 else s.lib.generation + 1 := by
      unfold nextGeneration
      split <;> split <;> omega
    rcases committedLibrary_spec s.lib with ⟨state, generation, -⟩ | ⟨state, generation, -⟩
    · rw [state, generation, next, if_pos rfl]
    · rw [state, generation]; rfl
  · by_cases bands : writesBands c = false
    · exact (exec_libraryBands h bands).2.1
    · cases c with
      | libBegin t => 
        rcases exec_libBegin h with ⟨lib, -⟩ | ⟨p, -, lib, -⟩ <;> rw [lib]
        rfl
      | libAbandon t => 
        rcases exec_libAbandon h with ⟨lib, -⟩ | ⟨lib, -⟩ <;> rw [lib]
        rfl
      | commitWalkEnd => exact absurd rfl noCommit
      | _ => exact absurd noReset bands

/-- A library that is VALID behind a command other than the end of a commit walk was so before (R33, R34). -/
theorem valid_before {c : Instr} {s u : State} (h : exec c s = .next u) (noCommit : c ≠ .commitWalkEnd)
    (valid : u.lib.state = .valid) : s.lib.state = .valid := by
  by_cases bands : writesBands c = false
  · exact (exec_libraryBands h bands).1 ▸ valid
  · cases c with
    | libBegin t =>
      rcases exec_libBegin h with ⟨lib, -⟩ | ⟨p, -, lib, -⟩ <;> rw [lib] at valid
      · exact valid
      · cases valid
    | libAbandon t =>
      rcases exec_libAbandon h with ⟨lib, -⟩ | ⟨lib, -⟩ <;> rw [lib] at valid
      · exact valid
      · cases valid
    | commitWalkEnd => exact absurd rfl noCommit
    | powerOn | resetPin => rw [(exec_resets_lib h rfl).1] at valid; cases valid
    | _ => exact absurd rfl bands

/-! ### The commands answered (R27, R29, R34) -/

/-- A command taken: the reply carries what the block answered, and beside the link the state is that of the event's end. -/
theorem takeKind_replies {k : Kind} {t : Transfer} {effect : List Byte → State → Effect} {s v : State} {seq : Byte}
    {p : List Byte} {r : Result} {body : State → List Byte} (live : linkTakes s) (arrives : arrivalOf t = .command k seq p)
    (taken : effect p (atRisingEdge t s) = (v, r, body)) :
    ∃ u, takeKind k t effect s = .next u ∧ answers u k seq r (body (finish (atRisingEdge t s) v))
      ∧ u.lib = v.lib ∧ u.temp = v.temp ∧ u.notices = (finish (atRisingEdge t s) v).notices := by
  rw [takeKind_takes live arrives, taken]
  exact ⟨_, rfl, answers_placeReply _ _ _ _ _, by simp⟩

/-- A refused command leaves the library. -/
theorem takeKind_refused {k : Kind} {t : Transfer} {effect : List Byte → State → Effect} {s : State} {seq : Byte}
    {p : List Byte} {r : Result} (live : linkTakes s) (arrives : arrivalOf t = .command k seq p)
    (refusal : effect p (atRisingEdge t s) = refused (atRisingEdge t s) r) :
    ∃ u, takeKind k t effect s = .next u ∧ answers u k seq r [] ∧ u.lib = s.lib := by
  obtain ⟨u, next, reply, lib, -⟩ := takeKind_replies live arrives refusal
  exact ⟨u, next, reply, lib.trans (by simp)⟩

/-- LIB_BEGIN passes its checks (R27). -/
theorem libBeginCheck_none {p : List Byte} {s : State} (calm : s.mem.calibrating = false) (idle : s.lib.commit = .none)
    (free : ∀ l, laneAt s l = none) (empty : s.req.table = []) (low : 1 ≤ libBandCount p) (high : libBandCount p ≤ 12)
    (length : p.length = 3 + 12 * libBandCount p) (fields : libFieldsBad p = false) : libBeginCheck p s = none := by
  have some : p ≠ [] := by rintro rfl; simp at length; omega
  have count : ¬ (libBandCount p = 0 ∨ 12 < libBandCount p) := by omega
  simp [libBeginCheck, failIf, calm, commitBusy, idle, (allFree_iff s).mpr free, empty, length, fields, some, count]

/-- Settles O17: the accepted form by `libBeginCheck_none`, the sizes by `expectedSize_eq`, the refused forms by
`firstRefusal_libBeginChecks`. -/
theorem libBeginOpensALoad : Obligations.LibBeginOpensALoad := by
  refine ⟨fun t s seq p arrives live calm idle free empty low high length fields => ?_,
    fun bands directory some => expectedSize_eq some directory, fun p => ⟨rfl, rfl, rfl⟩,
    fun t s seq p r arrives live rest refusal => refuses_of_refused live rest arrives rfl ?_⟩
  · have taken : takeLibBegin p (atRisingEdge t s) =
        (setLibrary (loadingLibrary p s.lib) (clientAbandon .library (atRisingEdge t s)), .ok,
          fun s' => leBytes 4 s'.lib.expected) := by
      rw [takeLibBegin, libBeginCheck_atRisingEdge, libBeginCheck_none calm idle free empty low high length fields]
      simp
    obtain ⟨u, next, reply, lib, -⟩ := takeKind_replies live arrives taken
    simp only [finish_keeps, setLibrary_lib] at reply lib
    exact ⟨u, next, reply, lib⟩
  · rw [takeLibBegin, libBeginCheck_atRisingEdge, ← firstRefusal_libBeginChecks, refusal]

/-- The library behind an accepted LIB_DATA: its chunk counted, in the running CRC, and its write in flight (R29, R30). -/
def Library.withChunk (lib : Library) (p : List Byte) : Library :=
  { lib with
    crc := crcFold lib.crc (p.drop 4)
    received := lib.received + (p.length - 4)
    write := some { offset := lib.received, bytes := p.drop 4 }
    moved := 0 }

/-- What LIB_DATA does with a chunk that passes its checks (R29). -/
theorem takeLibData_passed {p : List Byte} {s : State} (passed : libDataCheck p s = none) : takeLibData p s =
    if field p 0 4 ≠ s.lib.received then (s, .sequence, nextOffset)
    else (waitToTransfer { s with lib := s.lib.withChunk p }, .ok, nextOffset) := by
  simp [takeLibData, passed, Library.withChunk]

/-- Settles O18, one clause for each check of R29 and the two forms that pass them all. -/
theorem libDataExtendsTheLoad : Obligations.LibDataExtendsTheLoad := by
  intro t s seq p arrives live
  have refusal : ∀ r, libDataCheck p s = some r →
      ∃ u, exec (.libData t) s = .next u ∧ answers u .libData seq r [] ∧ u.lib = s.lib := fun r check =>
    takeKind_refused live arrives (by rw [takeLibData, libDataCheck_atRisingEdge, check])
  refine ⟨fun length => refusal _ ?_, fun low high state => refusal _ ?_, fun low high state busy => refusal _ ?_,
    fun low high state idle free => ?_⟩
  · simp [libDataCheck, failIf, length]
  · simp [libDataCheck, failIf, Nat.not_lt.mpr low, Nat.not_lt.mpr high, state]
  · have waits : commitBusy s = true ∨ s.lib.write.isSome = true := by
      simpa [commitBusy, Option.isSome_iff_ne_none] using busy
    simp [libDataCheck, failIf, Nat.not_lt.mpr low, Nat.not_lt.mpr high, state, waits]
  · have passed : libDataCheck p s = none := by
      simp [libDataCheck, failIf, Nat.not_lt.mpr low, Nat.not_lt.mpr high, state, commitBusy, idle, free]
    have taken := takeLibData_passed ((libDataCheck_atRisingEdge p t s).trans passed)
    refine ⟨fun other => ?_, fun next => ?_⟩
    · rw [if_pos (by simpa using other)] at taken
      obtain ⟨u, done, reply, lib, -⟩ := takeKind_replies live arrives taken
      exact ⟨u, done, by simpa [nextOffset] using reply, lib.trans (by simp)⟩
    · rw [if_neg (by simpa using next)] at taken
      obtain ⟨u, done, reply, lib, -⟩ := takeKind_replies live arrives taken
      exact ⟨u, done, by simpa [nextOffset, Library.withChunk] using reply, lib.trans (by simp [Library.withChunk])⟩

/-! ### LIB_ABANDON (R34) -/

/-- A library that is not VALID gives no reading a band (R19, R25). -/
theorem bind_lookupBand_of_not_valid {lib : Library} (state : lib.state ≠ .valid) (reading : Option Int) :
    reading.bind lib.lookupBand = none := by
  cases reading <;> simp [Library.lookupBand, state]

/-- Recomputing a temperature state that is as it should be reports nothing (R79, R145). -/
theorem recomputeTemp_notices {s : State}
    (state : s.temp.state = tempStateOf s.temp.reading s.temp.staleness (s.temp.reading.bind s.lib.lookupBand)) :
    (recomputeTemp s).notices = s.notices := by
  simp [recomputeTemp, reportTempChange, ← state]

/-- What an accepted LIB_ABANDON does (R34). -/
def abandonedLoad (s : State) : State :=
  setLibrary (clearedLibrary .empty .none s.lib.generation) (clientAbandon .library s)

/-- With the library LOADING there is no band, so its end moves no temperature state and raises no notice (R25, R79, R145). -/
theorem abandonedLoad_notices {s : State} (loading : s.lib.state = .loading) (law : temperatureLaw s) :
    (abandonedLoad s).notices = s.notices := by
  obtain ⟨band, state, -⟩ := law
  rw [bind_lookupBand_of_not_valid (by simp [loading])] at band
  rw [abandonedLoad, setLibrary, recomputeTemp_notices] <;> simp
  rw [state, band, bind_lookupBand_of_not_valid (by simp [clearedLibrary])]

/-- Settles O20: only a commit walk's end makes a library VALID (`valid_before`); an accepted LIB_ABANDON leaves a part in
which admission is held, as it was while the library was LOADING, and whose temperature state does not change. -/
theorem libAbandonEndsTheLoad : Obligations.LibAbandonEndsTheLoad := by
  refine ⟨fun c s u h noCommit valid => valid_before h noCommit valid, fun t s seq p arrives live => ?_⟩
  have refusal : ∀ r, libAbandonCheck p s = some r →
      ∃ u, exec (.libAbandon t) s = .next u ∧ answers u .libAbandon seq r [] ∧ u.lib = s.lib := fun r check =>
    takeKind_refused live arrives (by rw [takeLibAbandon, libAbandonCheck_atRisingEdge, check])
  refine ⟨fun length => refusal _ ?_, fun empty state => refusal _ ?_, fun empty state busy => refusal _ ?_,
    fun empty state idle law => ?_⟩
  · simp [libAbandonCheck, failIf, length]
  · simp [libAbandonCheck, failIf, empty, state]
  · simp [libAbandonCheck, failIf, empty, state, commitBusy, busy]
  · have passed : libAbandonCheck p s = none := by simp [libAbandonCheck, failIf, empty, state, commitBusy, idle]
    have taken : takeLibAbandon p (atRisingEdge t s) =
        (abandonedLoad (atRisingEdge t s), .ok, noBody) := by
      rw [takeLibAbandon, libAbandonCheck_atRisingEdge, passed]; rfl
    obtain ⟨u, next, reply, lib, temp, notices⟩ := takeKind_replies live arrives taken
    have kept : (abandonedLoad (atRisingEdge t s)).notices = s.notices :=
      (abandonedLoad_notices (by simpa using state) (by simpa [temperatureLaw] using law)).trans (by simp)
    have before : held (atRisingEdge t s) = true := by simp [held, state]
    have now : held (abandonedLoad (atRisingEdge t s)) = true := by simp [held, abandonedLoad, setLibrary_lib, clearedLibrary]
    rw [finish_of_held before now] at notices
    rw [abandonedLoad, setLibrary_lib] at lib
    have cleared : u.temp.band = none ∧ u.temp.state = tempStateOf s.temp.reading s.temp.staleness none := by
      rw [temp, abandonedLoad, setLibrary, recomputeTemp_temp, bind_lookupBand_of_not_valid (by simp [clearedLibrary])]
      simp
    obtain ⟨band, tempState⟩ := cleared
    refine ⟨u, next, reply, ?_, ?_, ?_, ?_, ?_, ?_, ?_, ?_, band, tempState, by rw [notices]; simp [kept]⟩ <;>
      rw [lib] <;> simp [clearedLibrary, Library.initial]

end Sys2Proof.Machine
end

section
/-!
PROOF. Every step keeps the temperature that of reading and library, and the bounds ascending (R19, R145).
-/

namespace Sys2Proof.Machine

open Sys2Proof.Safety

/-- What every command keeps and the queue has no part in, every step keeps. -/
theorem step_keeps {law : State → Prop} (queue : ∀ {s : State} (rest : List Instr), law s → law (s.withPending rest))
    (command : ∀ {c : Instr} {s u : State}, law s → exec c s = .next u → law u) {s u : State} (before : law s)
    (h : step s = .next u) : law u := by
  unfold step at h
  split at h
  · cases h; exact before
  · exact command (queue _ before) h

/-! ### The law of the temperature (R145) -/

/-- The law is read off the temperature, library state and bounds. -/
theorem temperatureLaw_congr {s u : State} (temp : u.temp = s.temp) (state : u.lib.state = s.lib.state)
    (bounds : u.lib.bounds = s.lib.bounds) (law : temperatureLaw s) : temperatureLaw u := by
  have lookup : u.lib.lookupBand = s.lib.lookupBand := by
    funext t
    rw [Library.lookupBand, Library.lookupBand, state, bounds]
  unfold temperatureLaw
  rw [temp, lookup]
  exact law

/-- Band and state recomputed are those of reading, counter and library. -/
theorem temperatureLaw_recomputeTemp {s : State} (le : s.temp.staleness ≤ 3) : temperatureLaw (recomputeTemp s) := by
  unfold temperatureLaw
  rw [recomputeTemp_temp]
  exact ⟨by simp, rfl, le⟩

theorem temperatureLaw_finish (b : State) {s : State} (law : temperatureLaw s) : temperatureLaw (finish b s) :=
  temperatureLaw_congr (by simp) (by simp) (by simp) law

/-- A library set where the counter stands as it did. -/
theorem temperatureLaw_setLibrary {s u : State} {lib : Library} (law : temperatureLaw s) (libs : u.lib = lib)
    (temp : u.temp = (setLibrary lib s).temp) : temperatureLaw u := by
  have set : temperatureLaw (setLibrary lib s) := temperatureLaw_recomputeTemp (s := { s with lib := lib }) law.2.2
  have same : u.lib = (setLibrary lib s).lib := libs.trans (setLibrary_lib lib s).symm
  exact temperatureLaw_congr temp (by rw [same]) (by rw [same]) set

/-- A reading taken, or refused (R146). -/
theorem temperatureLaw_takeTemp (p : List Byte) {s : State} (law : temperatureLaw s) : temperatureLaw (takeTemp p s).1 := by
  unfold takeTemp
  split
  · exact law
  · have taken := temperatureLaw_recomputeTemp (s := { s with temp := { s.temp with
        reading := some (fieldSigned p 0), staleness := 0, timer := s.settings.tempInterval } }) (Nat.zero_le 3)
    exact temperatureLaw_congr (by simp [takeReading]) (by simp [takeReading]) (by simp [takeReading]) taken

/-- An expiry of the interval timer counts up to 3 (R147). -/
theorem temperatureLaw_expireInterval {s : State} (law : temperatureLaw s) : temperatureLaw (expireInterval s) := by
  unfold expireInterval
  dsimp only
  split
  · exact law
  · rename_i counts
    have counted := temperatureLaw_recomputeTemp (s := { s with temp := { s.temp with
      timer := s.settings.tempInterval, staleness := s.temp.staleness + 1 } }) (by simp only; omega)
    split
    · exact temperatureLaw_congr (by simp) (by simp) (by simp) counted
    · exact counted

/-- CONFIGURE moves the interval timer alone (R149). -/
theorem temperatureLaw_takeConfigure (p : List Byte) {s : State} (law : temperatureLaw s) :
    temperatureLaw (takeConfigure p s).1 := by
  obtain ⟨lib, temp⟩ := takeConfigure_waves p s
  unfold temperatureLaw
  rw [lib, temp]
  exact law

/-- A row that takes a command keeps the law where its effect does. -/
theorem temperatureLaw_takeKind {k : Kind} {t : Transfer} {effect : List Byte → State → Effect} {s u : State}
    (h : takeKind k t effect s = .next u) (taken : ∀ p v, temperatureLaw v → temperatureLaw (effect p v).1)
    (law : temperatureLaw s) : temperatureLaw u := by
  rcases takeKind_leaves h with ⟨lib, temp⟩ | ⟨p, lib, temp⟩
  · exact temperatureLaw_congr temp (by rw [lib]) (by rw [lib]) law
  · have edge : temperatureLaw (atRisingEdge t s) := temperatureLaw_congr (by simp) (by simp) (by simp) law
    exact temperatureLaw_congr temp (by rw [lib]) (by rw [lib]) (taken p _ edge)

/-- Every command keeps the law: those that leave bands and temperature by `exec_bands`, the rest recompute. -/
theorem temperatureLaw_exec {c : Instr} {s u : State} (law : temperatureLaw s) (h : exec c s = .next u) :
    temperatureLaw u := by
  cases c with
  | powerOn | resetPin =>
    obtain ⟨lib, temp⟩ := exec_resets_lib h rfl
    unfold temperatureLaw
    rw [lib, temp]
    decide
  | configure t => exact temperatureLaw_takeKind h (fun p v => temperatureLaw_takeConfigure p) law
  | temp t => exact temperatureLaw_takeKind h (fun p v => temperatureLaw_takeTemp p) law
  | intervalTimerExpiry => cases h; exact temperatureLaw_finish s (temperatureLaw_expireInterval law)
  | libBegin t =>
    rcases exec_libBegin h with ⟨lib, temp⟩ | ⟨p, -, lib, temp⟩
    · exact temperatureLaw_congr temp (by rw [lib]) (by rw [lib]) law
    · exact temperatureLaw_setLibrary law lib temp
  | libAbandon t =>
    rcases exec_libAbandon h with ⟨lib, temp⟩ | ⟨lib, temp⟩
    · exact temperatureLaw_congr temp (by rw [lib]) (by rw [lib]) law
    · exact temperatureLaw_setLibrary law lib temp
  | commitWalkEnd =>
    obtain ⟨lib, temp⟩ := exec_commitWalkEnd h
    exact temperatureLaw_setLibrary law lib temp
  | _ =>
    obtain ⟨state, -, bounds, temp⟩ := exec_bands h rfl rfl
    exact temperatureLaw_congr temp state bounds law

/-! ### The bounds of the bands (R19) -/

/-- Neighbours in order put the whole list in order. -/
theorem pairwise_of_ascending : (l : List Int) → ascending l = true → l.Pairwise fun a b => a < b
  | [], _ => .nil
  | [a], _ => List.pairwise_singleton _ a
  | a :: b :: rest, h => by
    simp only [ascending, Bool.and_eq_true, decide_eq_true_eq] at h
    obtain ⟨first, later⟩ := h
    have inOrder := pairwise_of_ascending (b :: rest) later
    refine List.pairwise_cons.mpr ⟨fun c mem => ?_, inOrder⟩
    rcases List.mem_cons.mp mem with rfl | behind
    · exact first
    · exact first.trans ((List.pairwise_cons.mp inOrder).1 c behind)

/-- Every command keeps the bounds in order: LIB_BEGIN checks those it brings (R27). -/
theorem boundsLaw_exec {c : Instr} {s u : State} (law : boundsLaw s) (h : exec c s = .next u) : boundsLaw u := by
  unfold boundsLaw at law ⊢
  by_cases bands : writesBands c = false
  · rw [(exec_libraryBands h bands).2.2]; exact law
  · cases c with
    | powerOn | resetPin => rw [(exec_resets_lib h rfl).1]; exact .nil
    | libBegin t =>
      rcases exec_libBegin h with ⟨lib, -⟩ | ⟨p, check, lib, -⟩ <;> rw [lib]
      · exact law
      · simp only [libBeginCheck, Option.or_eq_none_iff, failIf_eq_none_iff, libFieldsBad, Bool.or_eq_false_iff,
          Bool.not_eq_false'] at check
        obtain ⟨-, -, -, bounds, -⟩ := check
        exact pairwise_of_ascending _ bounds
    | libAbandon t =>
      rcases exec_libAbandon h with ⟨lib, -⟩ | ⟨lib, -⟩ <;> rw [lib]
      · exact law
      · exact .nil
    | commitWalkEnd =>
      rw [(exec_commitWalkEnd h).1]
      rcases committedLibrary_spec s.lib with ⟨-, -, bounds⟩ | ⟨-, -, bounds⟩ <;> rw [bounds]
      · exact law
      · exact .nil
    | _ => exact absurd rfl bands

/-- Settles O57: the command a step takes keeps both laws (`temperatureLaw_exec`, `boundsLaw_exec`), and the queue has no part
in them. -/
theorem everyStepKeepsTheTemperature : Obligations.EveryStepKeepsTheTemperature := by
  exact ⟨fun s u => step_keeps (fun _ law => law) temperatureLaw_exec, fun s u => step_keeps (fun _ law => law) boundsLaw_exec⟩

end Sys2Proof.Machine
end

section
/-!
PROOF. Drive codes: the owner of a pixel, its lane, and the library's bytes (R20 to R22, R28, R61, R104).
-/

namespace Sys2Proof.Machine

open Sys2Proof.Safety

/-- Below the lead count a lookup reads the lead entry, whatever the target (R22). -/
theorem driveCode_lead {lib : Library} {m : Mode} {band i : Nat} (lead : i < (lib.setOf m band).leads) (shown a b : Level) :
    lib.driveCode m band shown a i = lib.driveCode m band shown b i := by
  simp only [Library.driveCode, lead, if_true]

/-- A packed byte holds the left pixel's level in its low four bits and the right one's above them (R61). -/
theorem unpackLevel_toNat (b : Byte) (c : Nat) : (unpackLevel b c).toNat = b.toNat / 16 ^ (c % 2) % 16 := by
  unfold unpackLevel
  rcases Nat.mod_two_eq_zero_or_one c with even | odd
  · simp [even, BitVec.extractLsb'_toNat]
  · simp [odd, BitVec.extractLsb'_toNat, Nat.shiftRight_eq_div_pow]

/-- The level at a place of an image that its pages hold (R61). -/
theorem imageLevel_toNat {s : State} {pages : List Nat} {w c r page : Nat}
    (there : pages[imageByteOf w c r / 4096]? = some page) : (imageLevel s pages w c r).toNat =
      (stagingByte s (page * 4096 + imageByteOf w c r % 4096)).toNat / 16 ^ (c % 2) % 16 := by
  simp only [imageLevel, imageAddress, Config.pageBytes, there, Option.map_some, unpackLevel_toNat]

/-- The target of a request that does not fill is the level in its pages (R104). -/
theorem targetLevel_of_image {s : State} {source : Source} (image : ∀ level, source ≠ .fill level) (pages : List Nat) (r : Rect)
    (x y : Nat) : targetLevel s source pages r x y = imageLevel s pages r.width (x - r.col) (y - r.row) := by
  cases source with
  | fill level => exact absurd rfl (image level)
  | inflow | copy | overlay => rfl

/-- Settles O41: the cases of a pixel's owner are those of `pixelCode`; the lookup is `driveCode_spec`, the target's level
`imageLevel_toNat`. -/
theorem driveCodesFollowTheOwner : Obligations.DriveCodesFollowTheOwner := by
  intro s x y
  refine ⟨rfl, fun none => by simp [pixelCode, none], fun l ln owner lane idle => ?_, fun l ln owner lane active => ?_,
    fun lib m band shown a b i lead => driveCode_lead lead shown a b, ?_, rfl, fun lib m band => ⟨rfl, rfl⟩,
    fun ln r found => ⟨fun level fill => ?_, fun image pages b page list at_ there => ?_⟩⟩
  · simp only [pixelCode, owner, lane, laneCode]
    split
    · rename_i active; exact absurd active idle
    · rfl
    · rfl
  · simp only [pixelCode, owner, lane, laneCode, active]
  · rintro lib m band shown target i set entry w rfl bands there below rfl
    exact driveCode_spec bands m band shown target i w there below
  · simp only [laneTarget, found, fill, targetLevel]
  · simp only [laneTarget, found, targetLevel_of_image image, list, Option.getD_some]
    subst at_
    exact imageLevel_toNat there

end Sys2Proof.Machine
end

section
/-!
PROOF. Every step keeps capacities, counters and settings within their limits, and requests and lanes out of a part whose library
loads (R26, R35, R37, R67, R119, R128, R154, R164, R168).
-/

namespace Sys2Proof.Machine

open Sys2Proof.Safety

/-! ### Operations that take up nothing -/

/-- The limits of capacities, counters and settings. -/
def limits (s : State) : Prop := capacityLaw s ∧ counterLaw s ∧ settingsLaw s

/-- What an operation that posts no request, pushes no overlay and takes no chunk may do: what it counts on stays within its
limit, tables and buffers do not grow, and with no request no lane is armed. -/
structure Within (s u : State) : Prop where
  table : u.req.table.length ≤ s.req.table.length
  jobs : u.copier.jobs.length ≤ s.copier.jobs.length
  overlays : u.copier.overlays.length ≤ s.copier.overlays.length
  log : s.notices.log.length ≤ Config.logRecords → u.notices.log.length ≤ Config.logRecords
  debt : s.mem.debt ≤ Config.maxDebt → u.mem.debt ≤ Config.maxDebt
  fill : fillLevel u ≤ fillLevel s
  generation : s.lib.generation ≤ 65535 → u.lib.generation ≤ 65535
  counters : counterLaw s → counterLaw u
  settings : settingsLaw s → settingsLaw u
  lanes : s.req.table = [] → ∀ l, laneAt s l = none → laneAt u l = none

theorem Within.rfl {s : State} : Within s s :=
  ⟨Nat.le_refl _, Nat.le_refl _, Nat.le_refl _, id, id, Nat.le_refl _, id, id, id, fun _ _ free => free⟩

/-- No request is left where there was none. -/
theorem Within.table_empty {s u : State} (h : Within s u) (empty : s.req.table = []) : u.req.table = [] :=
  List.eq_nil_of_length_eq_zero (by have := h.table; rw [empty] at this; exact Nat.le_zero.mp this)

theorem Within.trans {a b c : State} (h : Within a b) (k : Within b c) : Within a c where
  table := k.table.trans h.table
  jobs := k.jobs.trans h.jobs
  overlays := k.overlays.trans h.overlays
  log := k.log ∘ h.log
  debt := k.debt ∘ h.debt
  fill := k.fill.trans h.fill
  generation := k.generation ∘ h.generation
  counters := k.counters ∘ h.counters
  settings := k.settings ∘ h.settings
  lanes empty l free := k.lanes (h.table_empty empty) l (h.lanes empty l free)

theorem Within.foldl {α : Type} {f : State → α → State} (step : ∀ s a, Within s (f s a)) (l : List α) (s : State) :
    Within s (l.foldl f s) := by
  induction l generalizing s with
  | nil => exact .rfl
  | cons a l ih => exact (step s a).trans (ih _)

theorem Within.ite {c : Prop} [Decidable c] {s a b : State} (h : c → Within s a) (k : ¬ c → Within s b) :
    Within s (if c then a else b) := by
  split
  · exact h ‹_›
  · exact k ‹_›

/-- The limits hold behind an operation that takes up nothing. -/
theorem Within.limits {s u : State} (h : Within s u) (law : limits s) : limits u := by
  obtain ⟨⟨table, jobs, overlays, log, debt, fill, generation⟩, counters, settings⟩ := law
  exact ⟨⟨h.table.trans table, h.jobs.trans jobs, h.overlays.trans overlays, h.log log, h.debt debt, h.fill.trans fill,
    h.generation generation⟩, h.counters counters, h.settings settings⟩

/-- What most operations leave alone of all this: everything but requests, jobs and the log. -/
structure Spares (s u : State) : Prop where
  overlays : u.copier.overlays = s.copier.overlays
  debt : u.mem.debt = s.mem.debt
  buffer : u.inflow.buffer = s.inflow.buffer
  generation : u.lib.generation = s.lib.generation
  counters : u.counters = s.counters
  settings : u.settings = s.settings
  lanes : u.lanes = s.lanes

/-- An operation is judged by what it does to requests, jobs and the log where it spares the rest. -/
theorem Spares.within {s u : State} (h : Spares s u) (table : u.req.table.length ≤ s.req.table.length)
    (jobs : u.copier.jobs.length ≤ s.copier.jobs.length)
    (log : s.notices.log.length ≤ Config.logRecords → u.notices.log.length ≤ Config.logRecords) : Within s u where
  table := table
  jobs := jobs
  overlays := by rw [h.overlays]
  log := log
  debt := by rw [h.debt]; exact id
  fill := by rw [fillLevel, h.buffer]; exact Nat.le_refl _
  generation := by rw [h.generation]; exact id
  counters := by unfold counterLaw; rw [h.counters]; exact id
  settings := by unfold settingsLaw; rw [h.settings]; exact id
  lanes _ l free := (laneAt_congr h.lanes l).trans free

theorem Tidies.within {s u : State} (t : Tidies s u) (h : Spares s u) : Within s u :=
  h.within t.tableLength t.jobsLength t.logLength

/-- Requests, jobs, log and the rest left alone. -/
theorem within_of_eq {s u : State} (table : u.req.table = s.req.table) (jobs : u.copier.jobs = s.copier.jobs)
    (log : u.notices.log = s.notices.log) (h : Spares s u) : Within s u :=
  h.within (by rw [table]) (by rw [jobs]) (by rw [log]; exact id)

/-- Records rewritten in their places. -/
theorem updateRequest_within (age : Nat) (f : Request → Request) (s : State) : Within s (updateRequest age f s) :=
  Spares.within (by constructor <;> simp) (by simp [updateRequest]) (by simp) (by simp)

/-- The lanes written, and free lanes left free. -/
theorem within_of_lanes {s u : State} (req : u.req = s.req) (copier : u.copier = s.copier) (log : u.notices.log = s.notices.log)
    (debt : u.mem.debt = s.mem.debt) (inflow : u.inflow = s.inflow) (lib : u.lib = s.lib) (settings : u.settings = s.settings)
    (counters : counterLaw s → counterLaw u) (lanes : ∀ l, laneAt s l = none → laneAt u l = none) : Within s u where
  table := by rw [req]
  jobs := by rw [copier]
  overlays := by rw [copier]
  log := by rw [log]; exact id
  debt := by rw [debt]; exact id
  fill := by rw [fillLevel, inflow]; exact Nat.le_refl _
  generation := by rw [lib]; exact id
  counters := counters
  settings := by unfold settingsLaw; rw [settings]; exact id
  lanes _ := lanes

/-! ### Counters (R168) -/

theorem bump_le {n : Nat} (le : n ≤ Config.counterMax) : bump n ≤ Config.counterMax := by
  unfold bump; split <;> omega

/-- Counters written within their limit, and nothing else. -/
theorem setCounters_within {s : State} {c : Counters} (h : counterLaw s → counterLaw { s with counters := c }) :
    Within s { s with counters := c } :=
  within_of_lanes rfl rfl rfl rfl rfl rfl rfl h fun _ free => free

/-! ### Lanes (R99, R100, R109, R116) -/

/-- A lane in use rewritten, or freed. -/
theorem setLane_within {s : State} {l : LaneId} {v : Option Lane} (used : laneAt s l = none → v = none) :
    Within s (setLane l v s) := by
  refine within_of_lanes (by simp) (by simp) (by simp) (by simp) (by simp) (by simp) (by simp) (by simp [counterLaw])
    fun m free => ?_
  rw [laneAt_setLane]
  split
  · rename_i same; subst same; exact used free
  · exact free

theorem beginWait_within (who : Requester) (s : State) : Within s (beginWait who s) :=
  within_of_eq (by simp) (by simp) (by simp) (by constructor <;> simp)

theorem clientDone_within (who : Requester) (s : State) : Within s (clientDone who s) :=
  within_of_eq (by simp) (by simp) (by simp) (by constructor <;> simp)

theorem clientAbandon_within (who : Requester) (s : State) : Within s (clientAbandon who s) :=
  within_of_eq (by simp) (by simp) (by simp) (by constructor <;> simp)

theorem raise_within (src : NoticeSource) (s : State) : Within s (raise src s) :=
  within_of_eq (by simp) (by simp) (by simp) (by constructor <;> simp)

theorem wantPass_within (s : State) : Within s (wantPass s) :=
  within_of_eq (by simp) (by simp) (by simp) (by constructor <;> simp)

theorem returnPages_within (pages : List Nat) (s : State) : Within s (returnPages pages s) :=
  within_of_eq (by simp) (by simp) (by simp) (by constructor <;> simp)

theorem beginRetire_within (l : LaneId) (kind : WalkKind) (s : State) : Within s (beginRetire l kind s) := by
  unfold beginRetire
  split
  · rename_i ln lane
    exact (setLane_within (by simp [lane])).trans (beginWait_within _ _)
  · exact .rfl

theorem releaseLane_within (o : ReqOutcome) (s : State) (l : LaneId) : Within s (releaseLane o s l) := by
  unfold releaseLane
  split
  · exact .ite (fun _ => beginRetire_within _ _ _) fun _ => .rfl
  · exact .rfl

/-- An abort counts in the aborts (R107, R168). -/
theorem abortLane_within (reason : AbortReason) (s : State) (l : LaneId) : Within s (abortLane reason s l) := by
  unfold abortLane
  split
  · refine .ite (fun _ => Within.trans (setCounters_within ?_) (beginRetire_within _ _ _)) fun _ => .rfl
    rintro ⟨c1, c2, c3, c4, c5, c6, c7, c8⟩
    exact ⟨c1, c2, c3, c4, c5, bump_le c6, c7, c8⟩
  · exact .rfl

theorem releaseArmed_within (tag : Nat) (o : ReqOutcome) (s : State) : Within s (releaseArmed tag o s) :=
  .foldl (releaseLane_within o) _ s

theorem abortActive_within (tag : Nat) (reason : AbortReason) (s : State) : Within s (abortActive tag reason s) :=
  .foldl (abortLane_within reason) _ s

/-! ### Requests withdrawn, cancelled and judged (R42, R50 to R56) -/

theorem closeTally_within (age : Nat) (s : State) : Within s (closeTally age s) := updateRequest_within _ _ _

theorem bringOutcome_within (age : Nat) (o : ReqOutcome) (s : State) : Within s (bringOutcome age o s) :=
  updateRequest_within _ _ _

theorem dropEntry_within (age : Nat) (o : ReqOutcome) (s : State) : Within s (dropEntry age o s) :=
  (dropEntry_tidies age o s).within (by constructor <;> simp)

theorem dropEntryTriggering_within (age : Nat) (o : ReqOutcome) (s : State) : Within s (dropEntryTriggering age o s) :=
  (dropEntryTriggering_tidies age o s).within (by constructor <;> simp)

theorem judgeJobs_within (s : State) : Within s (judgeJobs s) :=
  (judgeJobs_tidies s).within (by constructor <;> simp)

theorem judgeAfter_within (b s : State) : Within s (judgeAfter b s) :=
  (judgeAfter_tidies b s).within (by constructor <;> simp)

theorem judgeFinish_within (age : Nat) (s : State) : Within s (judgeFinish age s) :=
  (judgeFinish_tidies age s).within (by constructor <;> simp)

theorem judgeAll_within (s : State) : Within s (judgeAll s) :=
  (judgeAll_tidies s).within (by constructor <;> simp)

theorem withdrawRest_within (r : Request) (o : ReqOutcome) (s : State) : Within s (withdrawRest r o s) :=
  .ite (fun _ => updateRequest_within _ _ _)
    fun _ => (dropEntryTriggering_within _ _ _).trans (releaseArmed_within _ _ _)

theorem reportAbort_within (tag : Nat) (reason : AbortReason) (s : State) : Within s (reportAbort tag reason s) := by
  unfold reportAbort
  split
  · exact (closeTally_within _ _).trans (withdrawRest_within _ _ _)
  · exact .rfl

theorem cancelQueued_within (release : ReqOutcome) (r : Request) (s : State) : Within s (cancelQueued release r s) :=
  ((dropEntryTriggering_within _ _ _).trans (releaseArmed_within _ _ _)).trans (bringOutcome_within _ _ _)

theorem cleanCancel_within (force : Bool) (r : Request) (s : State) : Within s (cleanCancel force r s) :=
  (cancelQueued_within _ _ _).trans (updateRequest_within _ _ _)

theorem forcedCancel_within (r : Request) (s : State) : Within s (forcedCancel r s) :=
  (((abortActive_within _ _ _).trans (dropEntryTriggering_within _ _ _)).trans (releaseArmed_within _ _ _)).trans
    (bringOutcome_within _ _ _)

theorem takePendingWithdrawal_within (age : Nat) (s : State) : Within s (takePendingWithdrawal age s) := by
  unfold takePendingWithdrawal
  split
  · split
    · exact ((dropEntryTriggering_within _ _ _).trans (releaseArmed_within _ _ _)).trans (updateRequest_within _ _ _)
    · exact .rfl
  · exact .rfl

theorem takePendingCancel_within (age : Nat) (s : State) : Within s (takePendingCancel age s) := by
  unfold takePendingCancel
  split
  · split
    · exact .rfl
    · exact (cancelQueued_within _ _ _).trans (updateRequest_within _ _ _)
    · exact (forcedCancel_within _ _).trans (updateRequest_within _ _ _)
  · exact .rfl

theorem afterWalk_within (age : Nat) (s : State) : Within s (afterWalk age s) := by
  unfold afterWalk
  split
  · exact .ite (fun _ => (dropEntry_within _ _ _).trans (releaseArmed_within _ _ _))
      fun _ => (takePendingWithdrawal_within _ _).trans (takePendingCancel_within _ _)
  · exact .rfl

/-! ### The frame memory and the end of an event (R151 to R154) -/

/-- A grant may pay refresh debt, and runs up none (R154). -/
theorem decideGrant_debt (m : FrameMemory) : (decideGrant m).debt ≤ m.debt := by
  unfold decideGrant
  (repeat' split) <;> simp [grantBurst]

theorem passGrants_debt (who : Requester) (n : Nat) (m : FrameMemory) : (passGrants who n m).debt ≤ m.debt := by
  induction n generalizing m with
  | zero => exact Nat.le_refl _
  | succ n ih =>
    unfold passGrants
    split
    · exact Nat.le_refl _
    · exact (ih _).trans (decideGrant_debt _)

theorem reachGrant_debt (who : Requester) (m : FrameMemory) : (reachGrant who m).debt ≤ m.debt := by
  unfold reachGrant
  split
  · exact Nat.le_refl _
  · exact passGrants_debt _ _ _

/-- The arbiter's record written, with no more debt. -/
theorem setMem_within {s : State} {m : FrameMemory} (debt : s.mem.debt ≤ Config.maxDebt → m.debt ≤ Config.maxDebt) :
    Within s { s with mem := m } :=
  { Within.rfl (s := s) with debt := debt }

theorem arbitrate_within (s : State) : Within s (arbitrate s) := setMem_within (decideGrant_debt s.mem).trans

theorem lastBursts_within (who : Requester) (s : State) : Within s (lastBursts who s) := by
  unfold lastBursts
  refine .ite (fun _ => .rfl) fun _ => .ite (fun _ => setMem_within (reachGrant_debt _ _).trans) fun _ =>
    setMem_within fun le => ?_
  exact (reachGrant_debt who _).trans ((reachGrant_debt who s.mem).trans le)

theorem becomeReady_within (ready : List Requester) (s : State) : Within s (becomeReady ready s) :=
  .foldl (fun _ _ => .ite (fun _ => (beginWait_within _ _).trans (arbitrate_within _)) fun _ => .rfl) ready s

theorem tryPass_within (s : State) : Within s (tryPass s) :=
  (tryPass_tidies s).within (by constructor <;> simp)

theorem resumePass_within (age : Nat) (s : State) : Within s (resumePass age s) :=
  (resumePass_tidies age s).within (by constructor <;> simp)

theorem syncPower_within (s : State) : Within s (syncPower s) :=
  within_of_eq (by simp) (by simp) (by simp) (by constructor <;> simp)

theorem finish_within (b s : State) : Within s (finish b s) := by
  have holds : Within s (noteHolds b s) := within_of_eq (by simp) (by simp) (by simp) (by constructor <;> simp)
  have attn : ∀ t, Within t (syncAttn t) := fun t => within_of_eq rfl rfl rfl ⟨rfl, rfl, rfl, rfl, rfl, rfl, rfl⟩
  exact (((holds.trans (tryPass_within _)).trans (syncPower_within _)).trans (arbitrate_within _)).trans (attn _)

/-! ### Admission (R42, R84 to R95) -/

theorem removeEntry_within (age : Nat) (s : State) : Within s (removeEntry age s) :=
  within_of_eq (by simp) (by simp) (by simp) (by constructor <;> simp)

theorem updateEntry_within (age : Nat) (f : QueueEntry → QueueEntry) (s : State) : Within s (updateEntry age f s) :=
  within_of_eq (by simp) (by simp) (by simp) (by constructor <;> simp)

/-- An upgrade counts in the upgrades (R91, R168). -/
theorem noteUpgrade_within (age : Nat) (reason : UpgradeReason) (mode : Mode) (s : State) :
    Within s (noteUpgrade age reason mode s) := by
  refine ((setCounters_within ?_).trans (updateRequest_within _ _ _)).trans (raise_within _ _)
  rintro ⟨c1, c2, c3, c4, c5, c6, c7, c8⟩
  exact ⟨c1, c2, bump_le c3, c4, c5, c6, c7, c8⟩

/-- A refusal counts in the ghost refusals (R91, R168). -/
theorem noteRefusal_within (age : Nat) (reason : UpgradeReason) (s : State) : Within s (noteRefusal age reason s) := by
  refine ((setCounters_within ?_).trans (updateRequest_within _ _ _)).trans (raise_within _ _)
  rintro ⟨c1, c2, c3, c4, c5, c6, c7, c8⟩
  exact ⟨c1, c2, c3, bump_le c4, c5, c6, c7, c8⟩

theorem settleEntry_within (r : Request) (remainder : Bool) (s : State) : Within s (settleEntry r remainder s) :=
  .ite (fun _ => ((updateEntry_within _ _ _).trans (updateRequest_within _ _ _)).trans (wantPass_within _))
    fun _ => removeEntry_within _ _

theorem resolveEntry_within (age : Nat) (o : ReqOutcome) (s : State) : Within s (resolveEntry age o s) :=
  (removeEntry_within _ _).trans (updateRequest_within _ _ _)

/-- An admission arms a lane, and counts it, for a live request alone (R94, R95, R168). -/
theorem admitWalk_within {s : State} (live : s.req.table ≠ []) (l : LaneId) (r : Request) (e : QueueEntry) (w : AdmissionWalk)
    (mode : Mode) (drive : List Nat) (remainder : Bool) : Within s (admitWalk l r e w mode drive remainder s) := by
  refine Within.trans ?_ (settleEntry_within _ _ _)
  refine Within.trans ?_ (updateRequest_within _ _ _)
  refine ⟨by simp, by simp, by simp, by simp, by simp, by simp [fillLevel], by simp, ?_, by simp [settingsLaw],
    fun empty => absurd empty live⟩
  rintro ⟨c1, c2, c3, c4, c5, c6, c7, c8⟩
  simp only [counterLaw, addToTiles_keeps, ownPixels_keeps, setLane_keeps]
  exact ⟨c1, bump_le c2, c3, c4, c5, c6, c7, c8⟩

theorem applyResult_within {s : State} (live : s.req.table ≠ []) (r : Request) (e : QueueEntry) (w : AdmissionWalk)
    (result : WalkResult) : Within s (applyResult r e w result s) := by
  cases result with
  | stays => exact updateEntry_within _ _ _
  | staysUpgraded reason mode => exact (updateEntry_within _ _ _).trans (noteUpgrade_within _ _ _ _)
  | admits mode reason drive remainder =>
    unfold applyResult
    dsimp only
    split
    · exact updateEntry_within _ _ _
    · cases reason with
      | none => exact admitWalk_within live _ _ _ _ _ _ _
      | some why => exact (admitWalk_within live _ _ _ _ _ _ _).trans (noteUpgrade_within _ _ _ _)
  | resolves outcome reason =>
    cases reason with
    | none => exact resolveEntry_within _ _ _
    | some why => exact (resolveEntry_within _ _ _).trans (noteRefusal_within _ _ _)

theorem dropWalk_within (s : State) : Within s (dropWalk s) :=
  within_of_eq (by simp) (by simp) (by simp) (by constructor <;> simp)

theorem settleWalk_within (before : State) (age : Nat) (s : State) : Within s (settleWalk before age s) :=
  (((syncPower_within _).trans (afterWalk_within _ _)).trans (judgeFinish_within _ _)).trans (judgeAfter_within _ _)

theorem endWalk_within (w : AdmissionWalk) (s : State) : Within s (endWalk w s) := by
  unfold endWalk
  split
  · rename_i r e found _
    have live : (dropWalk s).req.table ≠ [] := by
      simpa using List.ne_nil_of_mem (mem_of_findAge found)
    exact (((dropWalk_within s).trans (applyResult_within live _ _ _ _)).trans (settleWalk_within _ _ _)).trans
      (resumePass_within _ _)
  · exact (dropWalk_within s).trans (resumePass_within _ _)

/-! ### Frames and retirement walks (R102 to R112) -/

theorem activateArmed_within (s : State) : Within s (activateArmed s) :=
  within_of_lanes rfl rfl rfl rfl rfl rfl rfl (fun law => law) fun l free => by rw [laneAt_activateArmed, free]; rfl

theorem startFrame_within (s : State) : Within s (startFrame s) := by
  have started : ∀ scan : Scan, Within s { s with scan := scan } := fun scan =>
    within_of_eq rfl rfl rfl ⟨rfl, rfl, rfl, rfl, rfl, rfl, rfl⟩
  unfold startFrame
  refine Within.trans ?_ (beginWait_within _ _)
  split
  · exact (started _).trans (activateArmed_within _)
  · exact started _

/-- A lane that starves counts in the starvations (R106, R168). -/
theorem starveLane_within (l : LaneId) (ln : Lane) (s : State) : Within s (starveLane l ln s) := by
  refine (((abortLane_within _ _ _).trans (setCounters_within ?_)).trans (raise_within _ _)).trans (reportAbort_within _ _ _)
  rintro ⟨c1, c2, c3, c4, c5, c6, c7, c8⟩
  exact ⟨c1, c2, c3, c4, bump_le c5, c6, c7, c8⟩

theorem advanceLane_within (s : State) (l : LaneId) : Within s (advanceLane s l) := by
  unfold advanceLane
  split
  · exact .rfl
  · rename_i ln lane
    have moved : ∀ ln', Within s (setLane l (some ln') s) := fun ln' => setLane_within (by simp [lane])
    exact .ite (fun _ => .rfl) fun _ => .ite (fun _ => (moved _).trans (beginRetire_within _ _ _)) fun _ =>
      .ite (fun _ => starveLane_within _ _ _) fun _ => moved _

theorem advanceScan_within (n : Nat) (s : State) : Within s (advanceScan n s) :=
  within_of_eq (by simp) (by simp) (by simp) (by constructor <;> simp)

/-- A frame's end counts in the frames scanned (R105, R168). -/
theorem endFrame_within (s : State) : Within s (endFrame s) := by
  refine Within.trans ?_ (clientDone_within _ _)
  refine within_of_lanes rfl rfl rfl rfl rfl rfl rfl ?_ fun _ free => free
  rintro ⟨c1, c2, c3, c4, c5, c6, c7, c8⟩
  exact ⟨bump_le c1, c2, c3, c4, c5, c6, c7, c8⟩

theorem completeFrame_within (f : Frame) (s : State) : Within s (completeFrame f s) := by
  have advanced : ∀ t, Within t (advanceLanes f.mark t) := fun t => by
    unfold advanceLanes
    split
    · exact .foldl advanceLane_within _ t
    · exact .rfl
  exact (((advanceScan_within _ _).trans (endFrame_within _)).trans (advanced _)).trans (judgeAfter_within _ _)

theorem advanceRetire_within (l : LaneId) (n : Nat) (s : State) : Within s (advanceRetire l n s) := by
  unfold advanceRetire
  split
  · rename_i ln lane
    split
    · refine Within.trans ?_ (setLane_within fun free => ?_)
      · exact within_of_eq rfl rfl rfl ⟨rfl, rfl, rfl, rfl, rfl, rfl, rfl⟩
      · exact absurd (lane.symm.trans free) (by simp)
    · exact .rfl
    · exact .rfl
  · exact .rfl

theorem freeTheLane_within (l : LaneId) (s : State) : Within s (freeTheLane l s) := by
  have removed : Within s (removeFromTiles l s) := within_of_eq (by simp) (by simp) (by simp) (by constructor <;> simp)
  exact (removed.trans (setLane_within fun _ => rfl)).trans (clientDone_within _ _)

theorem reportPart_within (ln : Lane) (kind : WalkKind) (s : State) : Within s (reportPart ln kind s) := by
  unfold reportPart
  split
  · exact (updateRequest_within _ _ _).trans (judgeFinish_within _ _)
  · exact .rfl

theorem endRetirement_within (l : LaneId) (ln : Lane) (kind : WalkKind) (s : State) : Within s (endRetirement l ln kind s) :=
  ((((advanceRetire_within _ _ _).trans (freeTheLane_within _ _)).trans (reportPart_within _ _ _)).trans
    (wantPass_within _)).trans (judgeJobs_within _)

/-! ### Rail faults (R75, R115, R140) -/

theorem loseLane_within (s : State) (l : LaneId) : Within s (loseLane s l) := by
  unfold loseLane
  split
  · exact .ite (fun _ => (abortLane_within _ _ _).trans (reportAbort_within _ _ _)) fun _ => .rfl
  · exact .rfl

theorem flushRequest_within (s : State) (age : Nat) : Within s (flushRequest s age) := by
  unfold flushRequest
  split
  · exact .ite (fun _ => (closeTally_within _ _).trans (withdrawRest_within _ _ _)) fun _ => .rfl
  · exact .rfl

theorem railFault_within (s : State) : Within s (railFault s) := by
  have failed : Within s (faultRails s) := within_of_eq (by simp) (by simp) (by simp) (by constructor <;> simp)
  have flushed : ∀ t, Within t (flushAll t) := fun t => .ite (fun _ => .foldl flushRequest_within _ t) fun _ => .rfl
  exact ((((failed.trans (.foldl loseLane_within allLanes _)).trans (flushed _)).trans (judgeAll_within _)).trans
    (raise_within _ _)).trans (judgeAfter_within _ _)

/-- Rails written, and nothing else. -/
theorem setRails_within (rails : Rails) (s : State) : Within s { s with rails := rails } :=
  within_of_eq rfl rfl rfl ⟨rfl, rfl, rfl, rfl, rfl, rfl, rfl⟩

theorem takeSample_within (high : Bool) (s : State) : Within s (takeSample high s) :=
  .ite (fun _ => (setRails_within _ _).trans (setRails_within _ _)) fun _ =>
    .ite (fun _ => (setRails_within _ _).trans (railFault_within _)) fun _ => setRails_within _ _

/-! ### Chunk writes (R61, R67 to R69) -/

/-- The oldest chunk leaves the buffer. -/
theorem popChunk_fill (s : State) : fillLevel (popChunk s) ≤ fillLevel s := by
  unfold fillLevel popChunk
  cases s.inflow.buffer <;> simp

theorem checkRefill_within (s : State) : Within s (checkRefill s) :=
  within_of_eq (by simp) (by simp) (by simp) (by constructor <;> simp)

theorem dropChunk_within (s : State) : Within s (dropChunk s) := by
  refine Within.trans (Within.trans ?_ (raise_within _ _)) (checkRefill_within _)
  exact { Within.rfl (s := s) with fill := popChunk_fill s }

theorem takeChunks_within (cs : List Chunk) (s : State) : Within s (takeChunks cs s) := by
  induction cs generalizing s with
  | nil => exact .rfl
  | cons c rest ih =>
    refine .ite (fun _ => (dropChunk_within s).trans (ih _)) fun _ => Within.trans ?_ (beginWait_within _ _)
    exact within_of_eq rfl rfl rfl ⟨rfl, rfl, rfl, rfl, rfl, rfl, rfl⟩

theorem takeNextChunk_within (s : State) : Within s (takeNextChunk s) :=
  .ite (fun _ => .rfl) fun _ => takeChunks_within _ _

theorem advanceChunk_within (n : Nat) (s : State) : Within s (advanceChunk n s) :=
  within_of_eq (by simp) (by simp) (by simp) (by constructor <;> simp)

theorem countRows_within (c : Chunk) (s : State) : Within s (countRows c s) := by
  unfold countRows
  split
  · exact .rfl
  · exact .ite (fun _ => .rfl) fun _ => .ite (fun _ => (updateRequest_within _ _ _).trans (wantPass_within _)) fun _ =>
      updateRequest_within _ _ _

theorem returnHeldPages_within (age : Nat) (s : State) : Within s (returnHeldPages age s) := by
  have offered : ∀ a t, Within t (offerRecords (freeRequestPages a t)) := fun a t =>
    ((freeRequestPages_tidies a t).trans (offerRecords_tidies _)).within (by constructor <;> simp)
  unfold returnHeldPages
  split
  · exact .ite (fun _ => offered _ _) fun _ => .rfl
  · exact .rfl

theorem endChunkWrite_within (c : Chunk) (s : State) : Within s (endChunkWrite c s) := by
  have ended : ∀ t : State, Within t { popChunk t with inflow := { (popChunk t).inflow with writing := none } } := fun t =>
    { Within.rfl (s := t) with fill := popChunk_fill t }
  exact ((((((advanceChunk_within _ _).trans (ended _)).trans (clientDone_within _ _)).trans (checkRefill_within _)).trans
    (countRows_within _ _)).trans (returnHeldPages_within _ _)).trans (takeNextChunk_within _)

/-! ### Snapshots (R119 to R122) -/

theorem advanceCopy_within (n : Nat) (s : State) : Within s (advanceCopy n s) := by
  refine Spares.within (by constructor <;> simp) (by simp) ?_ (by simp)
  unfold advanceCopy
  split <;> simp

theorem handSnapshot_within (j : Job) (s : State) : Within s (handSnapshot j s) := by
  have handed : ∀ f : Overlay → Overlay,
      Within s { s with copier := { s.copier with overlays := s.copier.overlays.map f } } :=
    fun f => { Within.rfl (s := s) with overlays := by simp }
  unfold handSnapshot
  split
  · exact (updateRequest_within _ _ _).trans (wantPass_within _)
  · exact .ite (fun _ => handed _) fun _ => returnPages_within _ _
  · exact .ite (fun _ => handed _) fun _ => returnPages_within _ _

theorem endSnapshot_within (j : Job) (s : State) : Within s (endSnapshot j s) := by
  have left : ∀ t : State,
      Within t { t with copier := { t.copier with jobs := t.copier.jobs.filter fun k => k.age ≠ j.age } } :=
    fun t => (filterJobs_tidies _ t).within (by constructor <;> simp)
  exact ((((advanceCopy_within _ _).trans (left _)).trans (clientDone_within _ _)).trans (handSnapshot_within _ _)).trans
    (judgeJobs_within _)

/-! ### Walks of the Pixel Store and bursts (R9, R14, R151) -/

theorem advancePixelWalk_within (n : Nat) (s : State) : Within s (advancePixelWalk n s) :=
  within_of_eq (by simp) (by simp) (by simp) (by constructor <;> simp)

theorem endPixelWalk_within (s : State) : Within s (endPixelWalk s) := by
  have ended : Within s { s with px := { s.px with walk := none } } :=
    within_of_eq rfl rfl rfl ⟨rfl, rfl, rfl, rfl, rfl, rfl, rfl⟩
  exact (ended.trans (clientDone_within _ _)).trans (judgeJobs_within _)

theorem serveBurst_within (who : Requester) (units : Nat) (s : State) : Within s (serveBurst who units s) := by
  cases who with
  | scanner => exact advanceScan_within _ _
  | retirement l => exact advanceRetire_within _ _ _
  | admission =>
    show Within s (advanceAdmission _ s)
    exact within_of_eq (by simp) (by simp) (by simp) (by constructor <;> simp)
  | initialisation => exact advancePixelWalk_within _ _
  | inflow => exact advanceChunk_within _ _
  | copier => exact advanceCopy_within _ _
  | library => exact within_of_eq rfl rfl rfl ⟨rfl, rfl, rfl, rfl, rfl, rfl, rfl⟩

theorem finishBurst_within (who : Requester) (units : Nat) (s : State) : Within s (finishBurst who units s) :=
  .ite (fun _ => (serveBurst_within _ _ _).trans (clientDone_within _ _)) fun _ => serveBurst_within _ _ _

theorem endGrant_within (s : State) : Within s (endGrant s) := setMem_within id

/-- A refresh request that is not served at once counts in a debt that stops at 8 (R154). -/
theorem requestRefresh_debt {m : FrameMemory} (le : m.debt ≤ Config.maxDebt) : (requestRefresh m).debt ≤ Config.maxDebt := by
  unfold requestRefresh
  dsimp only
  split
  · exact Nat.min_le_left _ _
  · exact le

/-! ### RESTART and CONFIGURE (R59, R77, R98, R116, R134, R144, R164 to R166, R169) -/

theorem emptyCopier_within (s : State) : Within s (emptyCopier s) := by
  have emptied : Within s { s with copier := Copier.initial } :=
    { Within.rfl (s := s) with jobs := Nat.zero_le _, overlays := Nat.zero_le _ }
  exact (emptied.trans (returnPages_within (copierPages s.copier) _)).trans (clientAbandon_within _ _)

theorem restartLanes_within (s : State) : Within s (restartLanes s) := by
  have lanes : Within s (allLanes.foldl restartLane s) :=
    .foldl (fun _ _ => (abortLane_within _ _ _).trans (releaseLane_within _ _ _)) _ s
  unfold restartLanes
  generalize allLanes.foldl restartLane s = t at lanes ⊢
  exact lanes.trans (within_of_eq rfl rfl rfl ⟨rfl, rfl, rfl, rfl, rfl, rfl, rfl⟩)

theorem restartRequests_within (s : State) : Within s (restartRequests s) :=
  Spares.within (by constructor <;> simp) (by rw [restartRequests_table, List.length_map]; exact List.length_filter_le _ _)
    (by simp) (by simp)

theorem restart_within (s : State) : Within s (restart s) := by
  have emptied : ∀ t : State, Within t { t with inflow := Inflow.initial } := fun t =>
    { Within.rfl (s := t) with fill := Nat.zero_le _ }
  have inflow : ∀ t, Within t (restartInflow t) := fun t => (emptied t).trans (clientAbandon_within _ _)
  have admission : ∀ t, Within t (restartAdmission t) := fun t =>
    within_of_eq rfl rfl rfl ⟨rfl, rfl, rfl, rfl, rfl, rfl, rfl⟩
  have rails : ∀ t, Within t (restartRails t) := fun t => within_of_eq (by simp) (by simp) (by simp) (by constructor <;> simp)
  have link : ∀ t, Within t (restartLink t) := fun t =>
    { Within.rfl (s := t) with
      log := fun _ => Nat.zero_le _
      counters := fun _ => by simp [counterLaw, restartLink, Counters.zero] }
  exact ((((((restartLanes_within _).trans (restartRequests_within _)).trans (inflow _)).trans
    (emptyCopier_within _)).trans (admission _)).trans (rails _)).trans (link _)

/-- The settings a CONFIGURE carries through its field check are within the field table (R164, R165). -/
theorem settingsLaw_of_configFieldsOk {p : List Byte} (ok : configFieldsOk p = true) {s : State}
    (settings : s.settings = configSettings p) : settingsLaw s := by
  simp only [configFieldsOk, Bool.and_eq_true, decide_eq_true_eq] at ok
  unfold settingsLaw
  rw [settings]
  simp only [Config.inflowBytes]
  omega

theorem applySettings_within {p : List Byte} (ok : configFieldsOk p = true) (s : State) :
    Within s (applySettings (configSettings p) s) :=
  { Within.rfl (s := s) with settings := fun _ => settingsLaw_of_configFieldsOk ok rfl }

theorem applyGeometry_within (g : Geometry) (s : State) : Within s (applyGeometry g s) := by
  refine .ite (fun _ => .rfl) fun _ => ?_
  refine Within.trans (Within.trans (Within.trans ?_ (emptyCopier_within _)) (clientAbandon_within _ _)) (beginWait_within _ _)
  exact within_of_eq rfl rfl rfl ⟨rfl, rfl, rfl, rfl, rfl, rfl, rfl⟩

theorem takeConfigure_within (p : List Byte) (s : State) : Within s (takeConfigure p s).1 := by
  unfold takeConfigure
  split
  · exact .rfl
  · rename_i passed
    simp only [configureCheck, Option.or_eq_none_iff, failIf_eq_none_iff, Bool.not_eq_false'] at passed
    obtain ⟨-, -, fields, -⟩ := passed
    exact (applySettings_within fields _).trans (applyGeometry_within _ _)

/-! ### Library and temperature (R26 to R34, R145 to R147) -/

/-- Library and temperature written, the generation number within its 16 bits. -/
theorem setLibrary_within {lib : Library} {s : State} (generation : s.lib.generation ≤ 65535 → lib.generation ≤ 65535) :
    Within s (setLibrary lib s) := by
  have written : Within s { s with lib := lib } := { Within.rfl (s := s) with generation := generation }
  exact written.trans (within_of_eq (by simp [setLibrary]) (by simp [setLibrary]) (by simp [setLibrary])
    (by constructor <;> simp [setLibrary]))

theorem nextGeneration_le (g : Nat) : nextGeneration g ≤ 65535 := by
  unfold nextGeneration; split <;> omega

theorem committedLibrary_generation {lib : Library} (le : lib.generation ≤ 65535) :
    (committedLibrary lib).generation ≤ 65535 := by
  rcases committedLibrary_spec lib with ⟨-, next, -⟩ | ⟨-, same, -⟩
  · rw [next]; exact nextGeneration_le _
  · rw [same]; exact le

/-- A step of a load writes of what is bounded nothing (R29 to R31). -/
theorem SameBands.within {s u : State} (h : SameBands s u) (req : u.req = s.req) (copier : u.copier = s.copier)
    (log : u.notices.log = s.notices.log) (debt : u.mem.debt = s.mem.debt) (inflow : u.inflow = s.inflow)
    (counters : u.counters = s.counters) (settings : u.settings = s.settings) (lanes : u.lanes = s.lanes) : Within s u :=
  within_of_eq (by rw [req]) (by rw [copier]) log
    ⟨by rw [copier], debt, by rw [inflow], h.generation, counters, settings, lanes⟩

theorem takeLibBegin_within (p : List Byte) (s : State) : Within s (takeLibBegin p s).1 := by
  unfold takeLibBegin
  split
  · exact .rfl
  · exact (clientAbandon_within .library s).trans (setLibrary_within (by simp [loadingLibrary]))

theorem takeLibData_within (p : List Byte) (s : State) : Within s (takeLibData p s).1 := by
  refine (takeLibData_bands p s).within ?_ ?_ ?_ ?_ ?_ ?_ ?_ ?_ <;> unfold takeLibData <;> (repeat' split) <;> simp [refused]

theorem takeLibCommit_within (p : List Byte) (s : State) : Within s (takeLibCommit p s).1 := by
  refine (takeLibCommit_bands p s).within ?_ ?_ ?_ ?_ ?_ ?_ ?_ ?_ <;> unfold takeLibCommit <;> split <;>
    simp [refused, accepted]

theorem takeLibAbandon_within (p : List Byte) (s : State) : Within s (takeLibAbandon p s).1 := by
  unfold takeLibAbandon
  split
  · exact .rfl
  · exact (clientAbandon_within .library s).trans (setLibrary_within (by simp [clearedLibrary]))

theorem endLibWrite_within (s : State) : Within s (endLibWrite s) :=
  (endLibWrite_bands s).within (by simp) (by simp) (by simp) (by simp) (by simp) (by simp) (by simp) (by simp)

theorem takeTemp_within (p : List Byte) (s : State) : Within s (takeTemp p s).1 := by
  unfold takeTemp
  split
  · exact .rfl
  · exact within_of_eq (by simp) (by simp) (by simp) (by constructor <;> simp)

theorem expireInterval_within (s : State) : Within s (expireInterval s) :=
  within_of_eq (by simp) (by simp) (by simp) (by constructor <;> simp)

/-! ### Host commands that take up nothing -/

/-- The link written, and nothing else. -/
theorem setLink_within (link : LinkPort) (s : State) : Within s { s with link := link } :=
  within_of_eq rfl rfl rfl ⟨rfl, rfl, rfl, rfl, rfl, rfl, rfl⟩

theorem atRisingEdge_within (t : Transfer) (s : State) : Within s (atRisingEdge t s) := by
  rw [atRisingEdge_eq]; exact setLink_within _ s

/-- A row that takes a command takes up nothing where its effect does not, nor the rule behind its reply. -/
theorem takeCommand_within {k : Kind} {t : Transfer} {admits : List Byte → Bool} {effect : List Byte → State → Effect}
    {after : State → State} {s u : State} (h : takeCommand k t admits effect after s = .next u)
    (taken : ∀ p v, Within v (effect p v).1) (later : ∀ v, Within v (after v)) : Within s u := by
  have edge := atRisingEdge_within t s
  rcases takeCommand_next h with rfl | ⟨seq, p, -, rfl⟩
  · exact edge
  · exact (((edge.trans (taken p _)).trans (finish_within _ _)).trans (setLink_within _ _)).trans (later _)

theorem takeKind_within {k : Kind} {t : Transfer} {effect : List Byte → State → Effect} {s u : State}
    (h : takeKind k t effect s = .next u) (taken : ∀ p v, Within v (effect p v).1) : Within s u :=
  takeCommand_within h taken fun _ => .rfl

theorem takeCounters_within (p : List Byte) (s : State) : Within s (takeCounters p s).1 := by
  unfold takeCounters; split <;> exact .rfl

theorem takeRails_within (p : List Byte) (s : State) : Within s (takeRails p s).1 := by
  unfold takeRails railsOffEffect clearFaultEffect clearFault
  (repeat' split) <;> first | exact .rfl | exact setRails_within _ _

theorem takeFreeze_within (on : Bool) (p : List Byte) (s : State) : Within s (takeFreeze on p s).1 := by
  unfold takeFreeze
  split
  · exact .rfl
  · exact within_of_eq rfl rfl rfl ⟨rfl, rfl, rfl, rfl, rfl, rfl, rfl⟩

/-- A link failure counts in the frame errors (R160, R168). -/
theorem failLink_within (r : Result) (seq : Byte) (t : Transfer) (s : State) : Within s (failLink r seq t s) := by
  refine .ite (fun _ => atRisingEdge_within t s) fun _ => ?_
  refine (atRisingEdge_within t s).trans ((((setCounters_within ?_).trans (raise_within _ _)).trans (finish_within _ _)).trans
    (setLink_within _ _))
  rintro ⟨c1, c2, c3, c4, c5, c6, c7, c8⟩
  exact ⟨c1, c2, c3, c4, c5, c6, bump_le c7, c8⟩

theorem takeCancel_within (p : List Byte) (s : State) : Within s (takeCancel p s).1 := by
  have cut : ∀ (r : Request) (c : Request → State → State), (∀ t, Within t (c r t)) → Within s (cancelNow r c s) :=
    fun r c cuts => (((closeTally_within _ _).trans (cuts _)).trans (judgeFinish_within _ _)).trans (judgeAfter_within _ _)
  unfold takeCancel cancelRequest
  (repeat' split) <;> try exact .rfl
  · exact (updateRequest_within _ _ _).trans (closeTally_within _ _)
  · exact cut _ _ (forcedCancel_within _)
  · exact cut _ _ (cleanCancel_within _ _)

/-- Notices read or set, with no record added to the log (R174, R175). -/
theorem setNotices_within {s : State} {notices : Notices} (log : notices.log = s.notices.log) :
    Within s { s with notices := notices } :=
  within_of_eq rfl rfl log ⟨rfl, rfl, rfl, rfl, rfl, rfl, rfl⟩

theorem takeReadLog_within (p : List Byte) (s : State) : Within s (takeReadLog p s).1 := by
  have offered : ∀ t, Within t (offerRecords t) := fun t => (offerRecords_tidies t).within (by constructor <;> simp)
  have read : Within s { s with notices := { s.notices with log := s.notices.log.drop (field p 0 1) } } :=
    { Within.rfl (s := s) with log := fun le => by rw [List.length_drop]; omega }
  unfold takeReadLog
  split
  · exact .rfl
  · exact read.trans (offered _)

/-- The commands that take up a record, a job, an overlay entry or room in the buffer (R46, R66, R126, R129, R131, R132). -/
def takesUp : Instr → Bool
  | .postUpdate _ | .pixels _ | .postCopy _ | .overlayPush _ | .overlayPop _ | .overlaySwap _ => true
  | _ => false

/-- Every other command takes up nothing. -/
theorem exec_within {c : Instr} {s u : State} (h : exec c s = .next u) (quiet : takesUp c = false) : Within s u := by
  have ends : ∀ {v w : State}, Within s v → Within s (finish w v) := fun within => within.trans (finish_within _ _)
  cases c with
  | postUpdate _ | pixels _ | postCopy _ | overlayPush _ | overlayPop _ | overlaySwap _ => cases quiet
  | powerOn | resetPin =>
    cases h
    exact ⟨Nat.zero_le _, Nat.zero_le _, Nat.zero_le _, fun _ => Nat.zero_le _, fun _ => Nat.zero_le _, Nat.zero_le _,
      fun _ => Nat.zero_le _, fun _ => by simp [counterLaw, State.initial, Counters.zero],
      fun _ => by simp [settingsLaw, State.initial, Settings.default, Config.inflowBytes],
      fun _ l _ => by simp [laneAt, State.initial]⟩
  | ident t => exact takeKind_within h fun p v => by unfold takeIdent; split <;> exact .rfl
  | status t =>
    refine takeCommand_within h (fun p v => by unfold takeStatus; split <;> exact .rfl) fun v => ?_
    exact within_of_eq (by simp) (by simp) (by simp) (by constructor <;> simp)
  | countersRead t => exact takeCommand_within h takeCounters_within fun v => .rfl
  | countersReadAndClear t =>
    refine takeCommand_within h takeCounters_within fun v => .ite (fun _ => setCounters_within fun _ => ?_) fun _ => .rfl
    exact ⟨Nat.zero_le _, Nat.zero_le _, Nat.zero_le _, Nat.zero_le _, Nat.zero_le _, Nat.zero_le _, Nat.zero_le _,
      Nat.zero_le _⟩
  | configure t => exact takeKind_within h takeConfigure_within
  | restart t => exact takeKind_within h fun p v => by unfold takeRestart; split; exacts [.rfl, restart_within v]
  | noticeSet t => exact takeKind_within h fun p v => by unfold takeNoticeSet; split; exacts [.rfl, setNotices_within rfl]
  | noticeTake t =>
    refine takeKind_within h fun p v => ?_
    unfold takeNoticeTake
    split
    · exact .rfl
    · exact within_of_eq (by simp) (by simp) (by simp) (by constructor <;> simp)
  | readLog t => exact takeKind_within h takeReadLog_within
  | libBegin t => exact takeKind_within h takeLibBegin_within
  | libData t => exact takeKind_within h takeLibData_within
  | libCommit t => exact takeKind_within h takeLibCommit_within
  | libAbandon t => exact takeKind_within h takeLibAbandon_within
  | temp t => exact takeKind_within h takeTemp_within
  | railsOff t => exact takeCommand_within h takeRails_within fun v => .rfl
  | railsClearFault t => exact takeCommand_within h takeRails_within fun v => .rfl
  | cancel t => exact takeKind_within h takeCancel_within
  | clearDiscard t =>
    refine takeKind_within h fun p v => ?_
    unfold takeClearDiscard
    split
    · exact .rfl
    · exact within_of_eq rfl rfl rfl ⟨rfl, rfl, rfl, rfl, rfl, rfl, rfl⟩
  | freeze t => exact takeKind_within h (takeFreeze_within true)
  | thaw t => exact takeKind_within h (takeFreeze_within false)
  | assume t =>
    refine takeKind_within h fun p v => ?_
    unfold takeAssume
    split
    · exact .rfl
    · exact within_of_eq (by simp [accepted]) (by simp [accepted]) (by simp [accepted]) (by constructor <;> simp [accepted])
  | transactionStart =>
    simp only [exec, execTransactionStart] at h
    split at h <;> cases h
    exact setLink_within _ s
  | poll t =>
    simp only [exec, execPoll] at h
    split at h <;> cases h
    exact atRisingEdge_within t s
  | linkFailure t =>
    simp only [exec, execLinkFailure] at h
    split at h <;> cases h
    exact failLink_within _ _ t s
  | initialisationWalkEnd =>
    simp only [exec, execInitialisationWalkEnd] at h
    split at h <;> cases h
    exact ends ((lastBursts_within _ s).trans (endPixelWalk_within _))
  | assumeWalkEnd =>
    simp only [exec, execAssumeWalkEnd] at h
    split at h <;> cases h
    exact ends (((lastBursts_within _ s).trans (advancePixelWalk_within _ _)).trans (endPixelWalk_within _))
  | libChunkWriteEnd =>
    simp only [exec, execLibChunkWriteEnd] at h
    split at h <;> cases h
    exact ends ((lastBursts_within _ s).trans (endLibWrite_within _))
  | commitWalkEnd =>
    simp only [exec, execCommitWalkEnd] at h
    split at h <;> cases h
    refine ends ((((lastBursts_within _ s).trans (clientDone_within _ _)).trans (setLibrary_within ?_)).trans (raise_within _ _))
    simpa using committedLibrary_generation
  | inflowChunkWriteEnd =>
    simp only [exec, execInflowChunkWriteEnd] at h
    split at h <;> cases h
    exact ends ((lastBursts_within _ s).trans (endChunkWrite_within _ _))
  | admissionWalkEnd =>
    simp only [exec, execAdmissionWalkEnd] at h
    split at h <;> cases h
    exact ends ((lastBursts_within _ s).trans (endWalk_within _ _))
  | frameStart =>
    simp only [exec, execFrameStart] at h
    (repeat' split at h) <;> cases h
    exact ends (startFrame_within s)
  | frameCompletion =>
    simp only [exec, execFrameCompletion] at h
    split at h <;> cases h
    exact ends ((lastBursts_within _ s).trans (completeFrame_within _ _))
  | retirementWalkEnd l =>
    simp only [exec, execRetirementWalkEnd] at h
    (repeat' split at h) <;> cases h
    exact ends ((lastBursts_within _ s).trans (endRetirement_within _ _ _ _))
  | copierJobEnd =>
    simp only [exec, execCopierJobEnd] at h
    split at h <;> cases h
    exact ends ((lastBursts_within _ s).trans (endSnapshot_within _ _))
  | powerGoodSample high => cases h; exact ends (takeSample_within high s)
  | riseTimeout =>
    simp only [exec, execRiseTimeout] at h
    split at h <;> cases h
    exact ends (railFault_within s)
  | idleTimerExpiry =>
    simp only [exec, execIdleTimerExpiry] at h
    split at h <;> cases h
    exact ends (setRails_within _ s)
  | fallTimeEnd =>
    simp only [exec, execFallTimeEnd] at h
    split at h <;> cases h
    exact ends (setRails_within _ s)
  | intervalTimerExpiry => cases h; exact ends (expireInterval_within s)
  | refreshRequest ready =>
    cases h
    exact ends ((becomeReady_within ready s).trans (setMem_within requestRefresh_debt))
  | refreshEnd ready =>
    simp only [exec, execRefreshEnd] at h
    split at h <;> cases h
    exact ends ((becomeReady_within ready s).trans (endGrant_within _))
  | burstEnd units ready =>
    simp only [exec, execBurstEnd] at h
    split at h <;> cases h
    refine ends ((becomeReady_within ready s).trans (Within.trans ?_ (endGrant_within _)))
    exact .ite (fun _ => finishBurst_within _ _ _) fun _ => .rfl
  | calibrationEnd =>
    simp only [exec, execCalibrationEnd] at h
    split at h <;> cases h
    exact ends (setMem_within id)
  | resetRelease =>
    simp only [exec, execResetRelease] at h
    split at h <;> cases h
    exact setLink_within _ s

/-! ### Commands that take up a record, a job, an entry or room in the buffer (R46, R66, R126, R129, R131, R132) -/

/-- What holds of a state and of every state that takes up nothing more holds behind a row whose effect keeps it. -/
theorem takeKind_sustains {P : State → Prop} (sustains : ∀ {v w : State}, Within v w → P v → P w) {k : Kind} {t : Transfer}
    {effect : List Byte → State → Effect} {s u : State} (h : takeKind k t effect s = .next u) (before : P s)
    (taken : ∀ p, P (atRisingEdge t s) → P (effect p (atRisingEdge t s)).1) : P u := by
  have edge := sustains (atRisingEdge_within t s) before
  rcases takeCommand_next h with rfl | ⟨seq, p, -, rfl⟩
  · exact edge
  · exact sustains ((finish_within _ _).trans (setLink_within _ _)) (taken p edge)

/-- What a posting, a push or a PIXELS leaves alone of what is bounded. -/
structure LeavesBounded (s u : State) : Prop where
  log : u.notices.log = s.notices.log
  debt : u.mem.debt = s.mem.debt
  lib : u.lib = s.lib
  counters : u.counters = s.counters
  settings : u.settings = s.settings

/-- The limits hold where requests, jobs, overlay entries and buffer have their room. -/
theorem limits_of_room {s u : State} (law : limits s) (rest : LeavesBounded s u)
    (table : u.req.table.length ≤ Config.requestRecords) (jobs : u.copier.jobs.length ≤ Config.copierJobs)
    (overlays : u.copier.overlays.length ≤ Config.overlayEntries) (fill : fillLevel u ≤ Config.inflowBytes) : limits u := by
  obtain ⟨⟨-, -, -, log, debt, -, generation⟩, counters, settings⟩ := law
  refine ⟨⟨table, jobs, overlays, ?_, ?_, fill, ?_⟩, ?_, ?_⟩
  · rwa [rest.log]
  · rwa [rest.debt]
  · rwa [rest.lib]
  · unfold counterLaw; rwa [rest.counters]
  · unfold settingsLaw; rwa [rest.settings]

/-- The table check leaves room for a request (R46). -/
theorem tableCheck_room {tag : Nat} {s : State} (passed : postingCheck.tableCheck tag s = none) :
    s.req.table.length + 1 ≤ Config.requestRecords := by
  simp only [postingCheck.tableCheck, Option.or_eq_none_iff, failIf_eq_none_iff, decide_eq_false_iff_not] at passed
  omega

/-- The snapshot check leaves room for a job (R126). -/
theorem snapshotCheck_room {r : Rect} {s : State} (passed : snapshotCheck r s = none) :
    s.copier.jobs.length + 1 ≤ Config.copierJobs := by
  simp only [snapshotCheck, Option.or_eq_none_iff, failIf_eq_none_iff, decide_eq_false_iff_not] at passed
  omega

/-- A library that is LOADING takes no posting, and one posting has room (R35, R46). -/
theorem postingCheck_passed {tag : Nat} {s : State} (passed : postingCheck tag s = none) :
    s.lib.state ≠ .loading ∧ s.req.table.length + 1 ≤ Config.requestRecords := by
  obtain ⟨library, table⟩ := Option.or_eq_none_iff.mp passed
  exact ⟨by simpa [failIf_eq_none_iff] using library, tableCheck_room table⟩

theorem postUpdateCheck_passed {p : List Byte} {s : State} (passed : postUpdateCheck p s = none) :
    s.lib.state ≠ .loading ∧ s.req.table.length + 1 ≤ Config.requestRecords := by
  simp only [postUpdateCheck, Option.or_eq_none_iff] at passed
  obtain ⟨-, -, -, -, posting, -⟩ := passed
  exact postingCheck_passed posting

theorem postCopyCheck_passed {p : List Byte} {s : State} (passed : postCopyCheck p s = none) :
    s.lib.state ≠ .loading ∧ s.req.table.length + 1 ≤ Config.requestRecords
      ∧ s.copier.jobs.length + 1 ≤ Config.copierJobs := by
  simp only [postCopyCheck, Option.or_eq_none_iff] at passed
  obtain ⟨-, -, -, -, -, posting, snapshot⟩ := passed
  obtain ⟨library, table⟩ := postingCheck_passed posting
  exact ⟨library, table, snapshotCheck_room snapshot⟩

theorem overlayPopCheck_passed {p : List Byte} {s : State} (passed : overlayPopCheck p s = none) :
    s.lib.state ≠ .loading ∧ s.req.table.length + 1 ≤ Config.requestRecords := by
  simp only [overlayPopCheck, Option.or_eq_none_iff] at passed
  obtain ⟨-, -, -, library, top⟩ := passed
  refine ⟨by simpa [failIf_eq_none_iff] using library, ?_⟩
  split at top
  · cases top
  · exact tableCheck_room (Option.or_eq_none_iff.mp top).2

theorem limits_takePostUpdate (p : List Byte) {s : State} (law : limits s) : limits (takePostUpdate p s).1 := by
  obtain ⟨⟨-, jobs, overlays, -, -, fill, -⟩, -⟩ := id law
  unfold takePostUpdate
  split
  · exact law
  · rename_i passed
    obtain ⟨-, room⟩ := postUpdateCheck_passed passed
    split
    · rename_i f _
      have table : (postUpdate f s).req.table.length = s.req.table.length + 1 := by
        unfold postUpdate; split <;> simp [createRequest_req]
      exact limits_of_room law (by constructor <;> simp [accepted]) (table.trans_le room) (by simpa [accepted] using jobs)
        (by simpa [accepted] using overlays) (by simpa [accepted, fillLevel] using fill)
    · exact law

theorem limits_takePostCopy (p : List Byte) {s : State} (law : limits s) : limits (takePostCopy p s).1 := by
  obtain ⟨⟨-, -, overlays, -, -, fill, -⟩, -⟩ := id law
  unfold takePostCopy
  split
  · exact law
  · rename_i passed
    obtain ⟨-, room, job⟩ := postCopyCheck_passed passed
    split
    · rename_i c _
      refine limits_of_room law (by constructor <;> simp [accepted]) ?_ ?_ (by simpa [accepted] using overlays)
        (by simpa [accepted, fillLevel] using fill)
      · simpa [accepted, postCopy, createRequest_req] using room
      · exact (judgeJobs_tidies _).jobsLength.trans (by simpa [createJob] using job)
    · exact law

/-- A discard makes no job (R130). -/
theorem discardBottom_jobs (s : State) : (discardBottom s).copier.jobs.length ≤ s.copier.jobs.length := by
  have released : ∀ o t, (releaseOverlay o t).copier.jobs.length ≤ t.copier.jobs.length := fun o t => by
    unfold releaseOverlay
    split
    · simp
    · split
      · exact Nat.le_refl _
      · simpa using (dropJobs_tidies _ t).jobsLength
  unfold discardBottom
  split
  · exact Nat.le_refl _
  · split
    · exact Nat.le_refl _
    · simpa using released _ _

theorem limits_takeOverlayPush (p : List Byte) {s : State} (law : limits s) : limits (takeOverlayPush p s).1 := by
  obtain ⟨⟨table, -, overlays, -, -, fill, -⟩, -⟩ := id law
  unfold takeOverlayPush
  split
  · exact law
  · rename_i passed
    simp only [overlayPushCheck, Option.or_eq_none_iff] at passed
    obtain ⟨-, -, -, snapshot⟩ := passed
    refine limits_of_room law (by constructor <;> simp) (by simpa using table) ?_ ?_ (by simpa [fillLevel] using fill)
    · refine (judgeJobs_tidies _).jobsLength.trans ?_
      simp only [placeOverlay_keeps]
      exact (discardBottom_jobs _).trans (by simpa [createJob] using snapshotCheck_room snapshot)
    · dsimp only
      rw [overlayPush_overlays _ overlays]
      unfold Config.overlayEntries at *
      split <;> simp <;> omega

theorem limits_takeOverlayPop (p : List Byte) {s : State} (law : limits s) : limits (takeOverlayPop p s).1 := by
  obtain ⟨⟨-, jobs, overlays, -, -, fill, -⟩, -⟩ := id law
  unfold takeOverlayPop
  split
  · exact law
  · rename_i passed
    obtain ⟨-, room⟩ := overlayPopCheck_passed passed
    split
    · refine limits_of_room law (by constructor <;> simp) ?_ (by simpa using jobs) ?_ (by simpa [fillLevel] using fill)
      · simpa [overlayPop, createRequest_req] using room
      · simp [overlayPop]; omega
    · exact law

theorem limits_takeOverlaySwap (p : List Byte) {s : State} (law : limits s) : limits (takeOverlaySwap p s).1 := by
  obtain ⟨⟨-, -, overlays, -, -, fill, -⟩, -⟩ := id law
  unfold takeOverlaySwap
  split
  · exact law
  · rename_i passed
    obtain ⟨pop, snapshot⟩ := Option.or_eq_none_iff.mp passed
    obtain ⟨-, room⟩ := overlayPopCheck_passed pop
    split
    · rename_i c o _ top
      rw [top] at snapshot
      have some : s.copier.overlays ≠ [] := by rintro empty; simp [topOverlay, empty] at top
      refine limits_of_room law (by constructor <;> simp) ?_ ?_ ?_ (by simpa [fillLevel] using fill)
      · simpa [overlaySwap_table] using room
      · exact (judgeJobs_tidies _).jobsLength.trans (by simpa [createJob] using snapshotCheck_room snapshot)
      · have depth := List.length_pos_iff.mpr some
        simp only [overlaySwap_overlays, List.length_append, List.length_dropLast, List.length_singleton]
        omega
    · exact law

/-- What a PIXELS that passes its checks may add to the buffer (R65, R67). -/
theorem pixelsCheck_room {f : PixelsFields} {p : List Byte} {s : State} (passed : pixelsCheck f p s = none)
    (fill : fillLevel s ≤ Config.inflowBytes) : fillLevel s + f.data.length ≤ Config.inflowBytes := by
  obtain ⟨link, request⟩ := Option.or_eq_none_iff.mp passed
  simp only [pixelsLinkCheck, Option.or_eq_none_iff, failIf_eq_none_iff, Bool.or_eq_false_iff, decide_eq_false_iff_not,
    not_not] at link
  obtain ⟨⟨-, length⟩, -⟩ := link
  split at request
  · cases request
  · split at request
    · cases request
    · unfold pixelsRequestCheck at request
      split at request
      · cases request
      · simp only [Option.or_eq_none_iff, failIf_eq_none_iff, decide_eq_false_iff_not] at request
        obtain ⟨-, -, -, -, -, -, room⟩ := request
        unfold freeSpace at room
        omega

/-- An accepted PIXELS puts its chunk behind the others (R66). -/
theorem limits_acceptPixels {f : PixelsFields} {r : Request} {s : State} (law : limits s)
    (room : fillLevel s + f.data.length ≤ Config.inflowBytes) : limits (acceptPixels f r s) := by
  obtain ⟨⟨table, jobs, overlays, -⟩, -⟩ := id law
  refine (takeNextChunk_within _).limits (limits_of_room law (by constructor <;> simp) ?_ (by simpa using jobs)
    (by simpa using overlays) ?_)
  · simpa [updateRequest] using table
  · simpa [fillLevel] using room

/-- A refused PIXELS counts in the inflow refusals (R65, R168). -/
theorem countRefusal_within (s : State) : Within s (countRefusal s) := by
  refine setCounters_within ?_
  rintro ⟨c1, c2, c3, c4, c5, c6, c7, c8⟩
  exact ⟨c1, c2, c3, c4, c5, c6, c7, bump_le c8⟩

theorem limits_takePixels (p : List Byte) {s : State} (law : limits s) : limits (takePixels p s).1 := by
  unfold takePixels
  dsimp only
  split
  · exact (countRefusal_within s).limits law
  · exact (countRefusal_within s).limits law
  · rename_i passed
    split
    · exact limits_acceptPixels law (pixelsCheck_room passed law.1.2.2.2.2.2.1)
    · exact law

/-- Every command keeps the limits. -/
theorem limits_exec {c : Instr} {s u : State} (law : limits s) (h : exec c s = .next u) : limits u := by
  have taken : ∀ {k : Kind} {t : Transfer} {effect : List Byte → State → Effect}, takeKind k t effect s = .next u →
      (∀ p v, limits v → limits (effect p v).1) → limits u := fun row keeps =>
    takeKind_sustains Within.limits row law fun p => keeps p _
  by_cases quiet : takesUp c = false
  · exact (exec_within h quiet).limits law
  · cases c with
    | postUpdate t => exact taken h fun p v => limits_takePostUpdate p
    | pixels t => exact taken h fun p v => limits_takePixels p
    | postCopy t => exact taken h fun p v => limits_takePostCopy p
    | overlayPush t => exact taken h fun p v => limits_takeOverlayPush p
    | overlayPop t => exact taken h fun p v => limits_takeOverlayPop p
    | overlaySwap t => exact taken h fun p v => limits_takeOverlaySwap p
    | _ => exact absurd rfl quiet

/-- Settles O54: all commands but six take up nothing; the six check their room first. -/
theorem everyStepKeepsTheLimits : Obligations.EveryStepKeepsTheLimits :=
  fun _ _ => step_keeps (law := limits) (fun _ law => law) limits_exec

/-! ### A library that loads, alone (R35) -/

/-- No request is live and no lane in use, as in a part whose library is LOADING (R35). -/
def idle (s : State) : Prop := s.req.table = [] ∧ ∀ l, laneAt s l = none

theorem Within.idle {s u : State} (h : Within s u) (before : idle s) : idle u :=
  ⟨h.table_empty before.1, fun l => h.lanes before.1 l (before.2 l)⟩

theorem idle_of_eq {s u : State} (table : u.req.table = s.req.table) (lanes : u.lanes = s.lanes) (before : idle s) : idle u :=
  ⟨table.trans before.1, fun l => (laneAt_congr lanes l).trans (before.2 l)⟩

/-- With no request live, a PIXELS adds nothing (R65). -/
theorem takePixels_idle (p : List Byte) {s : State} (before : idle s) : idle (takePixels p s).1 := by
  have none : ∀ tag, findTag s tag = none := fun tag => by simp [findTag, before.1]
  unfold takePixels
  dsimp only
  split
  · exact (countRefusal_within s).idle before
  · exact (countRefusal_within s).idle before
  · rw [none]; exact before

theorem takeOverlayPush_idle (p : List Byte) {s : State} (before : idle s) : idle (takeOverlayPush p s).1 := by
  unfold takeOverlayPush
  split
  · exact before
  · exact idle_of_eq (by simp) (by simp) before

/-- While the library is LOADING, nothing posts a request (R46, R126, R131, R132). -/
theorem takePostUpdate_loading (p : List Byte) {s : State} (loading : s.lib.state = .loading) : (takePostUpdate p s).1 = s := by
  unfold takePostUpdate
  split
  · rfl
  · rename_i passed; exact absurd loading (postUpdateCheck_passed passed).1

theorem takePostCopy_loading (p : List Byte) {s : State} (loading : s.lib.state = .loading) : (takePostCopy p s).1 = s := by
  unfold takePostCopy
  split
  · rfl
  · rename_i passed; exact absurd loading (postCopyCheck_passed passed).1

theorem takeOverlayPop_loading (p : List Byte) {s : State} (loading : s.lib.state = .loading) : (takeOverlayPop p s).1 = s := by
  unfold takeOverlayPop
  split
  · rfl
  · rename_i passed; exact absurd loading (overlayPopCheck_passed passed).1

theorem takeOverlaySwap_loading (p : List Byte) {s : State} (loading : s.lib.state = .loading) : (takeOverlaySwap p s).1 = s := by
  unfold takeOverlaySwap
  split
  · rfl
  · rename_i passed; exact absurd loading (overlayPopCheck_passed (Option.or_eq_none_iff.mp passed).1).1

/-- While the library is LOADING, no command takes up a request or a lane. -/
theorem exec_idle {c : Instr} {s u : State} (h : exec c s = .next u) (loading : s.lib.state = .loading) (before : idle s) :
    idle u := by
  have taken : ∀ {k : Kind} {t : Transfer} {effect : List Byte → State → Effect}, takeKind k t effect s = .next u →
      (∀ p v, v.lib.state = .loading → idle v → idle (effect p v).1) → idle u := fun row keeps =>
    takeKind_sustains Within.idle row before fun p => keeps p _ (by simpa using loading)
  by_cases quiet : takesUp c = false
  · exact (exec_within h quiet).idle before
  · cases c with
    | postUpdate t => exact taken h fun p v loads => (takePostUpdate_loading p loads).symm ▸ id
    | pixels t => exact taken h fun p v _ => takePixels_idle p
    | postCopy t => exact taken h fun p v loads => (takePostCopy_loading p loads).symm ▸ id
    | overlayPush t => exact taken h fun p v _ => takeOverlayPush_idle p
    | overlayPop t => exact taken h fun p v loads => (takeOverlayPop_loading p loads).symm ▸ id
    | overlaySwap t => exact taken h fun p v loads => (takeOverlaySwap_loading p loads).symm ▸ id
    | _ => exact absurd rfl quiet

/-- A load begins only in an idle part (R26, R27). -/
theorem libBeginCheck_idle {p : List Byte} {s : State} (passed : libBeginCheck p s = none) : idle s := by
  simp only [libBeginCheck, Option.or_eq_none_iff, failIf_eq_none_iff, Bool.or_eq_false_iff, Bool.not_eq_false',
    allFree_iff, List.isEmpty_iff] at passed
  obtain ⟨⟨⟨-, free⟩, empty⟩, -⟩ := passed
  exact ⟨empty, free⟩

/-- A library that is LOADING was LOADING before, or begins its load in an idle part (R26 to R33). -/
theorem exec_loading {c : Instr} {s u : State} (h : exec c s = .next u) (loading : u.lib.state = .loading) :
    s.lib.state = .loading ∨ takesUp c = false ∧ idle s := by
  by_cases bands : writesBands c = false
  · exact .inl ((exec_libraryBands h bands).1 ▸ loading)
  · cases c with
    | powerOn | resetPin =>
      rw [(exec_resets_lib h rfl).1] at loading
      cases loading
    | libBegin t =>
      rcases exec_libBegin h with ⟨lib, -⟩ | ⟨p, passed, -⟩
      · exact .inl (lib ▸ loading)
      · exact .inr ⟨rfl, libBeginCheck_idle passed⟩
    | libAbandon t =>
      rcases exec_libAbandon h with ⟨lib, -⟩ | ⟨lib, -⟩
      · exact .inl (lib ▸ loading)
      · rw [lib] at loading; cases loading
    | commitWalkEnd =>
      rw [(exec_commitWalkEnd h).1] at loading
      rcases committedLibrary_spec s.lib with ⟨state, -⟩ | ⟨state, -⟩ <;> simp [state] at loading
    | _ => exact absurd rfl bands

theorem loadingLaw_exec {c : Instr} {s u : State} (law : loadingLaw s) (h : exec c s = .next u) : loadingLaw u := by
  intro loading
  rcases exec_loading h loading with loads | ⟨quiet, free⟩
  · exact exec_idle h loads (law loads)
  · exact (exec_within h quiet).idle free

/-- Settles O58: a load begins in an idle part, and while it lasts nothing posts a request or arms a lane. -/
theorem everyStepKeepsLoadingAlone : Obligations.EveryStepKeepsLoadingAlone :=
  fun _ _ => step_keeps (law := loadingLaw) (fun _ law => law) loadingLaw_exec

end Sys2Proof.Machine
end

section
/-!
PROOF. The state after a reset: what it empties (R58, R60), and that it has every law.
-/

namespace Sys2Proof.Machine

open Sys2Proof.Safety

/-- In an initial state every page is free (R60). -/
theorem free_initial (link : LinkPort) (epoch : Nat) (pending : List Instr) :
    (State.initial link epoch pending).pool.free = List.range 3584 := by
  simp [State.initial, StagingPool.initial]

/-- Settles O6: both resets leave an initial state, which is blank. -/
theorem resetsEmptyTheRequestManager : Obligations.ResetsEmptyTheRequestManager := by
  have initial : ∀ link epoch pending, ∃ u, State.initial link epoch pending = u ∧ u.req.table = [] ∧ u.req.queue = []
      ∧ u.req.line = [] ∧ u.req.nextAge = 0 ∧ (∀ l, laneAt u l = none) ∧ u.pool.free = List.range 3584
      ∧ u.notices.log = [] := fun link epoch pending =>
    have blank := Blank.initial link epoch pending
    ⟨_, rfl, blank.table, blank.queue, blank.line, rfl, blank.lanes, free_initial .., rfl⟩
  rintro c s (rfl | rfl)
  · obtain ⟨u, next, rest⟩ := initial { slot := none, transaction := none, resetHeld := false } (s.mem.epoch + 1) s.pending
    exact ⟨u, congrArg _ next, rest⟩
  · obtain ⟨u, next, rest⟩ := initial _ (s.mem.epoch + 1) s.pending
    exact ⟨u, congrArg _ next, rest⟩

/-- At reset the pages are free, in rising order, and none is held (R60). -/
theorem pages_reset : freePagesLaw State.reset ∧ pagesLaw State.reset := by
  have free : State.reset.pool.free = List.range 3584 := free_initial ..
  have held : heldPages State.reset = [] := rfl
  refine ⟨?_, by rw [free, held, List.append_nil], ?_, ?_, ?_⟩
  · rw [freePagesLaw, free]
    exact List.pairwise_lt_range
  all_goals intro _ mem; cases mem

/-- At reset no lane asks for power. -/
theorem demand_reset : demand State.reset = false := by
  have free : ∀ l, laneAt State.reset l = none := (Blank.initial _ _ _).lanes
  simp [demand, free]

/-- At reset the rails are off and no timer of theirs runs (R118, R135). -/
theorem powerLaw_reset : powerLaw State.reset := by
  have free : ∀ l, laneAt State.reset l = none := (Blank.initial _ _ _).lanes
  have rails : State.reset.rails = Rails.initial := rfl
  have scan : State.reset.scan = Scan.initial := rfl
  refine ⟨?_, ?_, ?_, fun l ln used => by simp [free] at used⟩
  · simp [enableLaw, rails, Rails.initial]
  · simp [railTimersLaw, rails, Rails.initial]
  · simp [frameTimerLaw, rails, scan, Rails.initial, Scan.initial]

/-- At reset nothing is counted, and the settings are the defaults (R164, R168). -/
theorem limits_reset : limits State.reset := by
  refine ⟨?_, ?_, ?_⟩
  · simp [capacityLaw, State.reset, State.initial, Requests.initial, Copier.initial, Notices.initial, FrameMemory.initial,
      fillLevel, Inflow.initial, Library.initial]
  · simp [counterLaw, State.reset, State.initial, Counters.zero]
  · simp [settingsLaw, State.reset, State.initial, Settings.default, Config.inflowBytes]

/-- At reset nothing that follows an event is left to do: no pass is wanted, and the memory is in its calibration. -/
theorem settled_reset : settled State.reset := by
  refine ⟨rfl, ?_, rfl, attnLaw_iff.mpr rfl⟩
  rw [syncPower_eq, demand_reset]
  rfl

/-- At reset there is no job and no overlay entry (R134). -/
theorem jobLaw_reset : jobLaw State.reset := by
  refine ⟨.nil, Nat.zero_le _, ?_, .nil, ?_⟩ <;> intro _ mem <;> cases mem

/-- Settles O60: the state at reset is blank, which gives the laws of requests, lanes, order, rows and starts; each of the
others is read off its unit's initial state. -/
theorem lawsHoldAtReset : Obligations.LawsHoldAtReset := by
  obtain ⟨books, -, rows, start⟩ := (holds_iff .rowsAndStart State.reset).mp (Lawful.initial _ _ _ _)
  obtain ⟨-, order, -⟩ := (holds_iff .orderAlone State.reset).mp (Lawful.initial _ _ _ _)
  obtain ⟨rising, pages⟩ := pages_reset
  obtain ⟨capacities, counters, settings⟩ := limits_reset
  have pixels : pixelLaw State.reset := fun _ mem => by cases mem
  have loads : loadingLaw State.reset := fun loading => by cases loading
  exact ⟨settled_reset.2.2.2, powerLaw_reset, capacities, counters, settings, pixels, books.1, rising,
    ⟨rfl, rfl, Nat.zero_le _⟩, .nil, loads, settled_reset, books, jobLaw_reset, pages, order trivial,
    (rowsKept_iff trivial _).mp (rows trivial), start trivial⟩

end Sys2Proof.Machine
end

section
/-!
PROOF. Outcomes brought together (R55), and the order in which CANCEL is checked (R49).
-/

namespace Sys2Proof.Machine

open Sys2Proof.Safety

/-- An outcome brought in twice counts once (R55). -/
theorem bringIn_same (soFar : Option ReqOutcome) (o : ReqOutcome) : bringIn (some (bringIn soFar o)) o = bringIn soFar o := by
  cases soFar with
  | none => exact if_neg (Nat.lt_irrefl _)
  | some old =>
    by_cases better : o.rank < old.rank
    · simp [bringIn, better]
    · simp [bringIn, better]

/-- Ranks tell outcomes apart (R55). -/
theorem ReqOutcome.rank_inj {a b : ReqOutcome} (same : a.rank = b.rank) : a = b := by
  have named : ∀ o : ReqOutcome, [ReqOutcome.railLost, .starved, .aborted, .cancelled, .flushed, .ghostRefused, .unsupported,
      .done, .noChange][o.rank - 1]? = some o := fun o => by cases o <;> rfl
  exact Option.some.inj ((named a).symm.trans (same ▸ named b))

/-- The outcome so far is the one of the least rank. -/
theorem rank_bringIn (old o : ReqOutcome) : (bringIn (some old) o).rank = min old.rank o.rank := by
  simp only [bringIn]
  split <;> omega

/-- The order of bringing in does not matter: either way the least rank is kept (R55). -/
theorem bringIn_comm (soFar : Option ReqOutcome) (a b : ReqOutcome) :
    bringIn (some (bringIn soFar a)) b = bringIn (some (bringIn soFar b)) a := by
  apply ReqOutcome.rank_inj
  cases soFar with
  | none => simp only [bringIn.eq_1, rank_bringIn, Nat.min_comm]
  | some old => simp only [rank_bringIn]; omega

/-- Settles O43. -/
theorem outcomesKeepTheWorst : Obligations.OutcomesKeepTheWorst := by
  refine ⟨rfl, fun _ => rfl, fun old o worse => if_neg (Nat.not_lt.mpr worse), fun old o better => if_pos better,
    bringIn_comm, ⟨rfl, rfl⟩, fun r o outcome => ?_⟩
  simp [composeRecord, outcome]

/-- A CANCEL of three bytes with no flag but FORCE passes its first two checks (R49). -/
theorem cancelCheck_none {p : List Byte} (length : p.length = 3) (flags : field p 2 1 ≤ 1) : cancelCheck p = none := by
  simp [cancelCheck, failIf, length, Nat.not_lt.mpr flags]

/-- What CANCEL does with a request that passes the checks of R49. -/
theorem takeCancel_passed {p : List Byte} {s : State} {r : Request} (length : p.length = 3) (flags : field p 2 1 ≤ 1)
    (found : findTag s (field p 0 2) = some r) (live : r.withdrawn = false) (first : r.state ≠ .reporting) :
    takeCancel p s = cancelRequest r (decide (field p 2 1 = 1)) s := by
  simp [takeCancel, cancelCheck_none length flags, found, live, first]

/-- Settles O30: check by check, a refused CANCEL has no effect. -/
theorem cancelIsCheckedInOrder : Obligations.CancelIsCheckedInOrder := by
  intro t s seq p arrives live rest
  have still : ∀ r, takeCancel p (atRisingEdge t s) = refused (atRisingEdge t s) r →
      ∃ u, exec (.cancel t) s = .next u ∧ answers u .cancel seq r [] ∧ u = { s with link := u.link } :=
    fun r refusal => takeCommand_still live rest arrives rfl refusal
  have found : findTag (atRisingEdge t s) (field p 0 2) = findTag s (field p 0 2) := by simp [findTag]
  refine ⟨fun length => still _ ?_, fun length high => still _ ?_, fun length low unknown => still _ ?_,
    fun r length low known live' => ⟨fun reporting => still _ ?_, fun other => ?_⟩⟩
  · simp [takeCancel, cancelCheck, failIf, length]
  · simp [takeCancel, cancelCheck, failIf, length, high]
  · rcases unknown with none | ⟨r, known, gone⟩
    · simp [takeCancel, cancelCheck_none length low, found, none]
    · simp [takeCancel, cancelCheck_none length low, found, known, gone]
  · simp [takeCancel, cancelCheck_none length low, found, known, live', reporting]
  · cases state : r.state with
    | openState => exact .inl rfl
    | running => exact .inr rfl
    | reporting => exact absurd state other

end Sys2Proof.Machine
end

section
/-!
PROOF. RESTART: what it clears and what it keeps (R42, R59, R77, R98, R116, R134, R144, R169, R179).
-/

namespace Sys2Proof.Machine

open Sys2Proof.Safety

/-! ### Lanes and entries looked up -/

theorem anyLane_iff {s : State} {tag : Nat} {p : LaneState → Bool} :
    anyLane s tag p = true ↔ ∃ l ln, laneAt s l = some ln ∧ ln.tag = tag ∧ p ln.state = true := by
  simp only [anyLane, List.any_eq_true, laneOf]
  constructor
  · rintro ⟨l, -, carries⟩
    cases lane : laneAt s l with
    | none => simp [lane] at carries
    | some ln => exact ⟨l, ln, lane, by simpa [lane] using carries⟩
  · rintro ⟨l, ln, lane, rfl, holds⟩
    exact ⟨l, mem_allLanes l, by simp [lane, holds]⟩

/-- Whether a lane of a tag is in a state of some sort, where lanes change but not what is asked of them. -/
theorem anyLane_of_map {s u : State} {g : Lane → Lane} {tag : Nat} {p : LaneState → Bool}
    (lanes : ∀ l, laneAt u l = (laneAt s l).map g) (tags : ∀ ln, (g ln).tag = ln.tag)
    (states : ∀ ln, p (g ln).state = p ln.state) : anyLane u tag p = anyLane s tag p := by
  unfold anyLane
  congr 1
  funext l
  rw [laneOf, laneOf, lanes]
  cases laneAt s l <;> simp [tags, states]

theorem isAdmitting_entryOf {s : State} {age : Nat} :
    isAdmitting s age = true ↔ ∃ e, entryOf s age = some e ∧ e.admitting = true := by
  unfold isAdmitting
  cases entryOf s age <;> simp

theorem completing_iff {s : State} {tag : Nat} : completing s tag = true ↔
    ∃ l ln done, laneAt s l = some ln ∧ ln.tag = tag ∧ ln.state = .retiring .complete done := by
  unfold completing
  rw [anyLane_iff]
  refine exists_congr fun l => exists_congr fun ln => ?_
  constructor
  · rintro ⟨lane, tag, complete⟩
    split at complete
    · exact ⟨_, lane, tag, ‹_›⟩
    all_goals cases complete
  · rintro ⟨done, lane, tag, complete⟩
    exact ⟨lane, tag, by rw [complete]⟩

/-- A reply placed moves no lane. -/
theorem laneAt_placeReply (kind seq : Byte) (r : Result) (b : List Byte) (s : State) (l : LaneId) :
    laneAt (placeReply kind seq r b s) l = laneAt s l := laneAt_congr (by simp) l

/-! ### Lanes at a RESTART (R116) -/

/-- A lane at a RESTART. -/
def Lane.restarted (ln : Lane) : Lane := (ln.aborted .restarted).released .aborted

theorem Lane.restarted_eq (ln : Lane) : ln.restarted = match ln.state with
    | .armed => { ln with state := .retiring (.release .aborted) 0 }
    | .active => { ln with state := .retiring (.abort .restarted) 0 }
    | .retiring _ _ => ln := by
  unfold Lane.restarted Lane.aborted Lane.released
  cases state : ln.state <;> simp [state]

theorem Lane.restarted_tag (ln : Lane) : ln.restarted.tag = ln.tag := by
  rw [Lane.restarted_eq]
  split <;> rfl

/-- A RESTART leaves no lane that drives. -/
theorem Lane.restarted_driving (ln : Lane) : ln.restarted.state.driving = false := by
  rw [Lane.restarted_eq]
  split
  · rfl
  · rfl
  · rename_i retiring
    rw [retiring]
    rfl

theorem laneAt_restart (s : State) (l : LaneId) : laneAt (restart s) l = (laneAt s l).map Lane.restarted := by
  rw [laneAt_congr (s := restartLanes s) (by simp [restart]), laneAt_restartLanes]
  rfl

/-- The lanes ordered to retire complete no walk that they had not begun, and the requests are judged by the lanes as they
were. -/
theorem judged_restartLanes (s : State) (r : Request) :
    completing (restartLanes s) r.tag = completing s r.tag ∧ staysWithdrawn (restartLanes s) r = staysWithdrawn s r
      ∧ withdrawnRequest (restartLanes s) r = withdrawnRequest s r
      ∧ restartPages (restartLanes s) r = restartPages s r := by
  have lanes : ∀ l, laneAt (restartLanes s) l = (laneAt s l).map Lane.restarted := laneAt_restartLanes s
  have complete : completing (restartLanes s) r.tag = completing s r.tag :=
    anyLane_of_map lanes Lane.restarted_tag fun ln => by
      rw [Lane.restarted_eq]
      cases state : ln.state <;> simp [state]
  have used : anyLane (restartLanes s) r.tag (fun _ => true) = anyLane s r.tag fun _ => true :=
    anyLane_of_map lanes Lane.restarted_tag fun _ => rfl
  have entry : entryOf (restartLanes s) r.age = entryOf s r.age := by simp [entryOf]
  refine ⟨complete, ?_, ?_, ?_⟩
  · simp only [staysWithdrawn, isAdmitting, entry, used]
  · simp only [withdrawnRequest, dropWaitingPart, entry, complete]
  · simp only [restartPages, complete]

/-! ### The state a RESTART leaves -/

theorem restart_req (s : State) : (restart s).req = { s.req with
    table := (s.req.table.filter (staysWithdrawn s)).map (withdrawnRequest s)
    queue := s.req.queue.filter fun e => e.admitting
    line := [] } := by
  have stays : staysWithdrawn (restartLanes s) = staysWithdrawn s := funext fun r => (judged_restartLanes s r).2.1
  have withdrawn : withdrawnRequest (restartLanes s) = withdrawnRequest s := funext fun r => (judged_restartLanes s r).2.2.1
  have units : (restart s).req = (restartRequests (restartLanes s)).req := by simp [restart]
  rw [units, restartRequests, stays, withdrawn]
  simp

/-- The pages free behind a RESTART: those that were, those of the requests but for a COMPLETE walk's, and the copier's. -/
theorem mem_free_restart (s : State) (page : Nat) : page ∈ (restart s).pool.free ↔
    page ∈ s.pool.free ∨ (∃ r ∈ s.req.table, completing s r.tag = false ∧ page ∈ r.pages.getD [])
      ∨ page ∈ copierPages s.copier := by
  have pages : restartPages (restartLanes s) = restartPages s := funext fun r => (judged_restartLanes s r).2.2.2
  have mine : (∃ r ∈ s.req.table, page ∈ restartPages s r)
      ↔ ∃ r ∈ s.req.table, completing s r.tag = false ∧ page ∈ r.pages.getD [] := by
    refine exists_congr fun r => and_congr_right fun _ => ?_
    unfold restartPages
    cases completing s r.tag <;> simp
  have units : (restart s).pool = (emptyCopier (restartInflow (restartRequests (restartLanes s)))).pool := by simp [restart]
  rw [units, emptyCopier, (clientAbandon_keeps _ _).2.2.2.2.2.1, mem_returnPages]
  simp only [restartInflow_keeps, restartLanes_keeps, restartRequests, returnPages_keeps, mem_returnPages, pages,
    List.mem_flatMap, mine]
  rw [or_comm, or_assoc, or_left_comm]

/-- What a RESTART clears beside requests, lanes and pages. -/
theorem restart_clears (s : State) :
    (restart s).inflow = Inflow.initial ∧ (restart s).copier = Copier.initial ∧ (restart s).counters = Counters.zero
      ∧ (restart s).scan.freeze = false ∧ (restart s).notices.flags = 0 ∧ (restart s).notices.log = []
      ∧ (restart s).adm.passWanted = false ∧ (restart s).adm.holdReported = false := by
  refine ⟨?_, ?_, rfl, ?_, rfl, rfl, ?_, ?_⟩
  · simp [restart, restartInflow]
  · simp [restart, emptyCopier]
  · simp [restart, restartLanes]
  · simp [restart, restartAdmission]
  · simp [restart, restartAdmission]

theorem restart_rails (s : State) : (restart s).rails.state =
    if s.rails.state = .on ∨ s.rails.state = .rising then .falling else s.rails.state := by
  have units : (restart s).rails = (restartRails (restartAdmission (emptyCopier (restartInflow (restartRequests
      (restartLanes s)))))).rails := by simp [restart]
  rw [units, restartRails]
  simp only [restartAdmission_keeps, emptyCopier_keeps, restartInflow_keeps, restartRequests_keeps, restartLanes_keeps]
  split
  · rfl
  · simp

/-- The rails are not ON behind a RESTART (R144). -/
theorem restart_not_on (s : State) : (restart s).rails.state ≠ .on := by
  rw [restart_rails]
  split
  · exact nofun
  · rename_i off
    exact fun on => off (.inl on)

/-- A RESTART ends no hold: it begins abort walks and keeps those it had begun (R78). -/
theorem held_restart {s : State} (before : held s = true) : held (restart s) = true := by
  have walks : restartWalks s = true → restartWalks (restart s) = true := by
    simp only [restartWalks, List.any_eq_true, laneAt_restart]
    rintro ⟨l, mem, walk⟩
    refine ⟨l, mem, ?_⟩
    cases lane : laneAt s l with
    | none => simp [lane] at walk
    | some ln =>
      simp only [lane] at walk
      rw [Option.map_some, Lane.restarted_eq]
      cases state : ln.state with
      | armed | active => simp [state, LaneState.restarted] at walk
      | retiring => simpa [state] using walk
  have fault : s.rails.state = .fault → (restart s).rails.state = .fault := by
    intro fault
    rw [restart_rails, fault]
    rfl
  simp only [held, initialising, Bool.or_eq_true, decide_eq_true_eq, restart_keeps] at before ⊢
  exact before.imp (.imp (.imp_right fault) id) walks

/-- Nothing drives behind a RESTART. -/
theorem demand_restart (s : State) : demand (restart s) = false := by
  simp only [demand, List.any_eq_false, laneAt_restart]
  rintro l -
  cases laneAt s l <;> simp [Lane.restarted_driving]

/-! ### The end of the event -/

/-- Where no pass is wanted and no hold ends, the end of an event starts none. -/
theorem finish_unwanted {b s : State} (unwanted : s.adm.passWanted = false) (holds : held b = true → held s = true) :
    (finish b s).req = s.req ∧ (finish b s).pool = s.pool ∧ (finish b s).copier = s.copier
      ∧ (finish b s).notices = { s.notices with attn := s.notices.attnLevel } ∧ (finish b s).adm.passWanted = false := by
  have idle : (noteHolds b s).adm.passWanted = false ∧ (noteHolds b s).notices = s.notices := by
    unfold noteHolds
    split
    · rename_i ends
      simp only [Bool.and_eq_true, Bool.not_eq_true'] at ends
      simp [holds ends.1] at ends
    · split <;> exact ⟨unwanted, rfl⟩
  have pass : tryPass (noteHolds b s) = noteHolds b s := by
    unfold tryPass
    rw [idle.1]
    rfl
  unfold finish
  rw [pass]
  refine ⟨by simp, by simp, by simp, ?_, by simpa using idle.1⟩
  have notices : (arbitrate (syncPower (noteHolds b s))).notices = s.notices := by simp
  rw [← notices]
  rfl

/-- With no demand, rails that are not ON stay as they are (R137, R138). -/
theorem powerRails_without_demand {settings : Settings} {r : Rails} (off : r.state ≠ .on) :
    (powerRails settings false r).state = r.state := by
  simp [powerRails, off]

/-- ATTN is released where nothing is pending (R173). -/
theorem attnLevel_of_nothing {n : Notices} (flags : n.flags = 0) (log : n.log = []) : n.attnLevel = false := by
  rw [Bool.eq_false_iff, ne_eq, attnLevel_iff]
  simp [flags, log]

/-- RESTART's effect without a payload, and with one (R169). -/
theorem takeRestart_eq (p : List Byte) (s : State) :
    takeRestart p s = if p = [] then accepted (restart s) else refused s .badLength := by
  cases p <;> simp [takeRestart, failIf]

theorem mem_copierPages (c : Copier) (page : Nat) : page ∈ copierPages c ↔
    (∃ o ∈ c.overlays, page ∈ o.pages)
      ∨ ∃ j ∈ c.jobs, (j.purpose = .push ∨ j.purpose = .swap) ∧ (∀ o ∈ c.overlays, o.capturing ≠ some j.age)
          ∧ page ∈ j.pages := by
  simp only [copierPages, List.mem_append, List.mem_flatMap, List.mem_filter, and_assoc]
  refine or_congr Iff.rfl (exists_congr fun j => and_congr_right fun _ => ?_)
  cases j.purpose <;> simp

/-- A record that stays, as the statement spells it. -/
theorem withdrawnRequest_eq (s : State) (r : Request) : withdrawnRequest s r =
    { (match entryOf s r.age with
        | some e =>
          if e.admitting = true then r
          else { r with partsFinished := r.partsFinished + 1, outcome := some (bringIn r.outcome .aborted) }
        | none => r) with
      withdrawn := true, tally := none, pages := if completing s r.tag = true then r.pages else none } := by
  unfold withdrawnRequest dropWaitingPart
  cases entryOf s r.age <;> rfl

/-- Settles O13: the state a RESTART leaves, unit by unit, behind which no pass can start. -/
theorem restartClearsTheWork : Obligations.RestartClearsTheWork := by
  refine ⟨fun t s seq arrives live => ?_,
    fun s tag age => ⟨completing_iff, anyLane_true_iff, isAdmitting_entryOf⟩, mem_copierPages,
    fun t s seq p arrives live rest payload => ?_⟩
  · obtain ⟨inflow, copier, counters, freeze, flags, log, wanted, reported⟩ := restart_clears (atRisingEdge t s)
    obtain ⟨req, pool, jobs, notices, unwanted⟩ :=
      finish_unwanted (b := atRisingEdge t s) wanted fun before => held_restart before
    have row := takeKind_takes (effect := takeRestart) live arrives
    rw [show takeRestart [] (atRisingEdge t s) = accepted (restart (atRisingEdge t s)) from takeRestart_eq ..] at row
    have lanes : ∀ l, laneAt (finish (atRisingEdge t s) (restart (atRisingEdge t s))) l = (laneAt s l).map Lane.restarted :=
      fun l => by rw [laneAt_finish, laneAt_restart, laneAt_congr (s := s) (by simp)]
    have rails : (finish (atRisingEdge t s) (restart (atRisingEdge t s))).rails.state = (restart s).rails.state := by
      rw [finish_rails, demand_restart, powerRails_without_demand (restart_not_on _), restart_rails, restart_rails]
      simp
    refine ⟨_, row, answers_placeReply .., ?_⟩
    have table : (restart (atRisingEdge t s)).req.table = (s.req.table.filter (staysWithdrawn s)).map (withdrawnRequest s) := by
      rw [restart_req, atRisingEdge_eq]
      rfl
    have free : ∀ page, page ∈ (restart (atRisingEdge t s)).pool.free ↔ page ∈ (restart s).pool.free := fun page => by
      rw [mem_free_restart, mem_free_restart, atRisingEdge_eq]
      rfl
    simp only [accepted, placeReply_keeps, finish_keeps, restart_keeps, req, pool, jobs, notices, unwanted, inflow, copier,
      counters, freeze, flags, log, reported, rails, table, free, attnLevel_of_nothing flags log, true_and]
    refine ⟨by simp [restart_req], by simp [restart_req], ?_, mem_free_restart s, by simp, by simp, fun l => ?_, restart_rails s,
      by simp⟩
    · exact List.map_congr_left fun r _ => withdrawnRequest_eq s r
    · rw [laneAt_placeReply, lanes]
      exact congrArg (Option.map · (laneAt s l)) (funext Lane.restarted_eq)
  · exact refuses_of_refused live rest arrives rfl (by rw [takeRestart_eq, if_neg payload])

end Sys2Proof.Machine
end

section
/-!
PROOF. Settles O16: what READ_LOG returns, and the notice of QUEUE_ROOM.
-/

namespace Sys2Proof.Machine

open Sys2Proof.Safety

/-! ### QUEUE_ROOM is raised where a full table gets room (R57) -/

/-- QUEUE_ROOM is pending where the table was full and no longer is, and stays pending where it was. -/
structure SignalsRoom (s u : State) : Prop where
  room : 24 ≤ s.req.table.length → u.req.table.length < 24 → u.notices.flags.getLsbD 10 = true
  stays : s.notices.flags.getLsbD 10 = true → u.notices.flags.getLsbD 10 = true

/-- A table that does not get shorter gets no room. -/
theorem SignalsRoom.of_length {s u : State} (length : s.req.table.length ≤ u.req.table.length)
    (stays : s.notices.flags.getLsbD 10 = true → u.notices.flags.getLsbD 10 = true) : SignalsRoom s u :=
  ⟨fun full room => absurd room (by omega), stays⟩

/-- Table and flags as they were. -/
theorem SignalsRoom.of_same {s u : State} (table : u.req.table = s.req.table) (flags : u.notices.flags = s.notices.flags) :
    SignalsRoom s u :=
  .of_length (by rw [table]) fun on => by rw [flags, on]

theorem SignalsRoom.rfl {s : State} : SignalsRoom s s := ⟨fun full room => absurd room (by omega), id⟩

/-- A full table that gets room in either of two operations gets it with the notice. -/
theorem SignalsRoom.trans {a b c : State} (h : SignalsRoom a b) (k : SignalsRoom b c) : SignalsRoom a c where
  room full room := by
    by_cases between : 24 ≤ b.req.table.length
    · exact k.room between room
    · exact k.stays (h.room full (by omega))
  stays on := k.stays (h.stays on)

theorem SignalsRoom.foldl {α : Type} {f : State → α → State} (step : ∀ s a, SignalsRoom s (f s a)) (l : List α) (s : State) :
    SignalsRoom s (l.foldl f s) := by
  induction l generalizing s with
  | nil => exact .rfl
  | cons a l ih => exact (step s a).trans (ih _)

theorem SignalsRoom.ite {c : Prop} [Decidable c] {s a b : State} (h : c → SignalsRoom s a) (k : ¬ c → SignalsRoom s b) :
    SignalsRoom s (if c then a else b) := by
  split
  · exact h ‹_›
  · exact k ‹_›

/-! ### The operations that share the table and the flags -/

theorem raise_signals (src : NoticeSource) (s : State) : SignalsRoom s (raise src s) :=
  .of_length (by simp) ((raise_tidies src s).flags 10)

theorem updateRequest_signals (age : Nat) (f : Request → Request) (s : State) : SignalsRoom s (updateRequest age f s) :=
  .of_length (by simp [updateRequest]) id

/-- A record leaves the table, with the notice where the table was full (R57). -/
theorem leaveTable_signals (age : Nat) (s : State) : SignalsRoom s (leaveTable age s) where
  room full room := by
    rw [leaveTable_table] at room
    unfold leaveTable
    rw [if_pos ⟨full, room⟩]
    exact raise_flag .queueRoom _
  stays := (leaveTable_tidies age s).flags 10

theorem acceptRecord_signals (h : Reporting) (s : State) : SignalsRoom s (acceptRecord h s) :=
  have logged : SignalsRoom s
      { s with
        req := { s.req with line := s.req.line.filter fun e => e.age ≠ h.age }
        notices := { s.notices with log := s.notices.log ++ [h.record] } } := .of_same rfl rfl
  logged.trans (leaveTable_signals h.age _)

theorem offerFrom_signals (line : List Reporting) (s : State) : SignalsRoom s (offerFrom line s) := by
  induction line generalizing s with
  | nil => exact .rfl
  | cons h rest ih => exact .ite (fun _ => (acceptRecord_signals h s).trans (ih _)) fun _ => .rfl

theorem offerRecords_signals (s : State) : SignalsRoom s (offerRecords s) := offerFrom_signals _ s

theorem returnPages_signals (pages : List Nat) (s : State) : SignalsRoom s (returnPages pages s) := .of_same rfl rfl

theorem freeRequestPages_signals (age : Nat) (s : State) : SignalsRoom s (freeRequestPages age s) := by
  unfold freeRequestPages
  split
  · exact (returnPages_signals _ _).trans (updateRequest_signals _ _ _)
  · exact .rfl

theorem dropJobs_signals (p : Job → Bool) (s : State) : SignalsRoom s (dropJobs p s) := .of_same (by simp) (by simp)

theorem judgeAfter_signals (b s : State) : SignalsRoom s (judgeAfter b s) := .of_same (by simp) (by simp)

theorem judgeJobs_signals (s : State) : SignalsRoom s (judgeJobs s) := .of_same (by simp) (by simp)

theorem wantPass_signals (s : State) : SignalsRoom s (wantPass s) := .of_same (by simp) (by simp)

theorem setLine_signals (line : List Reporting) (s : State) :
    SignalsRoom s { s with req := { s.req with line := line } } :=
  .of_same rfl rfl

theorem enterReporting_signals (r : Request) (s : State) : SignalsRoom s (enterReporting r s) := by
  have reported : SignalsRoom s (closeTally r.age (updateRequest r.age (fun q => { q with state := .reporting }) s)) :=
    (updateRequest_signals _ _ _).trans (updateRequest_signals _ _ _)
  have dropped := reported.trans (dropJobs_signals (Job.isCopyOf r.age) _)
  unfold enterReporting
  refine SignalsRoom.trans ?_ (offerRecords_signals _)
  refine SignalsRoom.trans ?_ (setLine_signals _ _)
  exact dropped.trans (.ite (fun _ => .rfl) fun _ => freeRequestPages_signals r.age _)

theorem judgeFinish_signals (age : Nat) (s : State) : SignalsRoom s (judgeFinish age s) := by
  unfold judgeFinish
  split
  · exact .rfl
  · refine .ite (fun _ => ?_) fun _ => .ite (fun _ => enterReporting_signals _ _) fun _ => .rfl
    exact .ite (fun _ => .rfl) fun _ => (freeRequestPages_signals _ _).trans (leaveTable_signals _ _)

theorem judgeAll_signals (s : State) : SignalsRoom s (judgeAll s) := .foldl (fun t age => judgeFinish_signals age t) _ s

theorem removeEntry_signals (age : Nat) (s : State) : SignalsRoom s (removeEntry age s) := .of_same (by simp) (by simp)

theorem dropEntry_signals (age : Nat) (o : ReqOutcome) (s : State) : SignalsRoom s (dropEntry age o s) := by
  unfold dropEntry
  cases entryOf s age with
  | none => exact .rfl
  | some e => exact (removeEntry_signals _ _).trans (updateRequest_signals _ _ _)

theorem dropEntryTriggering_signals (age : Nat) (o : ReqOutcome) (s : State) :
    SignalsRoom s (dropEntryTriggering age o s) := by
  unfold dropEntryTriggering
  cases entryOf s age with
  | none => exact .rfl
  | some e => exact (dropEntry_signals _ _ _).trans (wantPass_signals _)

theorem releaseArmed_signals (tag : Nat) (o : ReqOutcome) (s : State) : SignalsRoom s (releaseArmed tag o s) :=
  .of_same (by simp) (by simp)

theorem abortActive_signals (tag : Nat) (reason : AbortReason) (s : State) : SignalsRoom s (abortActive tag reason s) :=
  .of_same (by simp) (by simp)

theorem withdrawRest_signals (r : Request) (o : ReqOutcome) (s : State) : SignalsRoom s (withdrawRest r o s) :=
  .ite (fun _ => updateRequest_signals _ _ _) fun _ =>
    (dropEntryTriggering_signals _ _ _).trans (releaseArmed_signals _ _ _)

theorem reportAbort_signals (tag : Nat) (reason : AbortReason) (s : State) : SignalsRoom s (reportAbort tag reason s) := by
  unfold reportAbort
  split
  · exact (updateRequest_signals _ _ _).trans (withdrawRest_signals _ _ _)
  · exact .rfl

theorem cancelQueued_signals (o : ReqOutcome) (r : Request) (s : State) : SignalsRoom s (cancelQueued o r s) :=
  ((dropEntryTriggering_signals _ _ _).trans (releaseArmed_signals _ _ _)).trans (updateRequest_signals _ _ _)

theorem forcedCancel_signals (r : Request) (s : State) : SignalsRoom s (forcedCancel r s) :=
  (((abortActive_signals _ _ _).trans (dropEntryTriggering_signals _ _ _)).trans (releaseArmed_signals _ _ _)).trans
    (updateRequest_signals _ _ _)

theorem cancelRequest_signals (r : Request) (force : Bool) (s : State) : SignalsRoom s (cancelRequest r force s).1 := by
  have cut : ∀ c : Request → State → State, (∀ t, SignalsRoom t (c r t)) → SignalsRoom s (cancelNow r c s) := fun c cuts =>
    (((updateRequest_signals _ _ _).trans (cuts _)).trans (judgeFinish_signals _ _)).trans (judgeAfter_signals _ _)
  unfold cancelRequest
  (repeat' split)
  · exact (updateRequest_signals _ _ _).trans (updateRequest_signals _ _ _)
  · exact .rfl
  · exact cut _ (forcedCancel_signals r)
  · exact .rfl
  · exact cut _ fun t => (cancelQueued_signals _ _ _).trans (updateRequest_signals _ _ _)

/-! ### Admission and the end of an event -/

theorem updateEntry_signals (age : Nat) (f : QueueEntry → QueueEntry) (s : State) : SignalsRoom s (updateEntry age f s) :=
  .of_same (by simp) (by simp)

theorem resolveEntry_signals (age : Nat) (o : ReqOutcome) (s : State) : SignalsRoom s (resolveEntry age o s) :=
  (removeEntry_signals _ _).trans (updateRequest_signals _ _ _)

theorem runPass_signals (ages : List Nat) (s : State) : SignalsRoom s (runPass ages s) := by
  have resolved : ∀ age t, SignalsRoom t (resolveUnsupported age t) := fun age t =>
    ((resolveEntry_signals _ _ _).trans (judgeFinish_signals _ _)).trans (judgeJobs_signals _)
  induction ages generalizing s with
  | nil => exact .of_same rfl rfl
  | cons age rest ih =>
    unfold runPass
    split
    · refine .ite (fun _ => ih _) fun _ => .ite (fun _ => ih _) fun _ => ?_
      split
      · exact .ite (fun _ => (resolved _ _).trans (ih _)) fun _ => .of_same (by simp) (by simp)
      · exact .of_same rfl rfl
    · exact ih _

theorem resumePass_signals (age : Nat) (s : State) : SignalsRoom s (resumePass age s) :=
  .ite (fun _ => .of_same rfl rfl) fun _ => runPass_signals _ _

theorem finish_signals (b s : State) : SignalsRoom s (finish b s) := by
  have held : SignalsRoom s (noteHolds b s) := .of_same (by simp) (by simp)
  have started : ∀ t : State,
      SignalsRoom t { t with adm := { t.adm with passRunning := true, passWanted := false, passCut := false } } :=
    fun t => .of_same rfl rfl
  have passed : ∀ t, SignalsRoom t (tryPass t) := fun t =>
    .ite (fun _ => (started t).trans (runPass_signals _ _)) fun _ => .rfl
  unfold finish
  exact (held.trans (passed _)).trans (.of_same (by simp) (by simp))

theorem setCounters_signals (counters : Counters) (s : State) : SignalsRoom s { s with counters := counters } :=
  .of_same rfl rfl

theorem noteUpgrade_signals (age : Nat) (reason : UpgradeReason) (mode : Mode) (s : State) :
    SignalsRoom s (noteUpgrade age reason mode s) :=
  ((setCounters_signals _ _).trans (updateRequest_signals _ _ _)).trans (raise_signals _ _)

theorem noteRefusal_signals (age : Nat) (reason : UpgradeReason) (s : State) : SignalsRoom s (noteRefusal age reason s) :=
  ((setCounters_signals _ _).trans (updateRequest_signals _ _ _)).trans (raise_signals _ _)

theorem settleEntry_signals (r : Request) (remainder : Bool) (s : State) : SignalsRoom s (settleEntry r remainder s) :=
  .ite (fun _ => ((updateEntry_signals _ _ _).trans (updateRequest_signals _ _ _)).trans (wantPass_signals _))
    fun _ => removeEntry_signals _ _

theorem admitWalk_signals (l : LaneId) (r : Request) (e : QueueEntry) (w : AdmissionWalk) (mode : Mode) (drive : List Nat)
    (remainder : Bool) (s : State) : SignalsRoom s (admitWalk l r e w mode drive remainder s) := by
  refine SignalsRoom.trans ?_ (settleEntry_signals _ _ _)
  refine SignalsRoom.trans ?_ (updateRequest_signals _ _ _)
  exact .of_same (by simp) (by simp)

theorem applyResult_signals (r : Request) (e : QueueEntry) (w : AdmissionWalk) (result : WalkResult) (s : State) :
    SignalsRoom s (applyResult r e w result s) := by
  cases result with
  | stays => exact updateEntry_signals _ _ _
  | staysUpgraded reason mode => exact (updateEntry_signals _ _ _).trans (noteUpgrade_signals _ _ _ _)
  | admits mode reason drive remainder =>
    unfold applyResult
    dsimp only
    split
    · exact updateEntry_signals _ _ _
    · cases reason with
      | none => exact admitWalk_signals _ _ _ _ _ _ _ _
      | some why => exact (admitWalk_signals _ _ _ _ _ _ _ _).trans (noteUpgrade_signals _ _ _ _)
  | resolves outcome reason =>
    cases reason with
    | none => exact resolveEntry_signals _ _ _
    | some why => exact (resolveEntry_signals _ _ _).trans (noteRefusal_signals _ _ _)

theorem takePendingWithdrawal_signals (age : Nat) (s : State) : SignalsRoom s (takePendingWithdrawal age s) := by
  unfold takePendingWithdrawal
  (repeat' split)
  · exact ((dropEntryTriggering_signals _ _ _).trans (releaseArmed_signals _ _ _)).trans (updateRequest_signals _ _ _)
  · exact .rfl
  · exact .rfl

theorem takePendingCancel_signals (age : Nat) (s : State) : SignalsRoom s (takePendingCancel age s) := by
  unfold takePendingCancel
  (repeat' split)
  · exact .rfl
  · exact (cancelQueued_signals _ _ _).trans (updateRequest_signals _ _ _)
  · exact (forcedCancel_signals _ _).trans (updateRequest_signals _ _ _)
  · exact .rfl

theorem afterWalk_signals (age : Nat) (s : State) : SignalsRoom s (afterWalk age s) := by
  unfold afterWalk
  split
  · exact .ite (fun _ => (dropEntry_signals _ _ _).trans (releaseArmed_signals _ _ _))
      fun _ => (takePendingWithdrawal_signals _ _).trans (takePendingCancel_signals _ _)
  · exact .rfl

theorem endWalk_signals (w : AdmissionWalk) (s : State) : SignalsRoom s (endWalk w s) := by
  have dropped : SignalsRoom s (dropWalk s) := .of_same (by simp) (by simp)
  have synced : ∀ t, SignalsRoom t (syncPower t) := fun t => .of_same (by simp) (by simp)
  have settled : ∀ b age t, SignalsRoom t (settleWalk b age t) := fun b age t =>
    (((synced _).trans (afterWalk_signals _ _)).trans (judgeFinish_signals _ _)).trans (judgeAfter_signals _ _)
  unfold endWalk
  split
  · exact ((dropped.trans (applyResult_signals _ _ _ _ _)).trans (settled _ _ _)).trans (resumePass_signals _ _)
  · exact dropped.trans (resumePass_signals _ _)

/-! ### Frames, retirement walks and rail faults -/

theorem abortLane_signals (reason : AbortReason) (s : State) (l : LaneId) : SignalsRoom s (abortLane reason s l) :=
  .of_same (by simp) (by simp)

theorem setLane_signals (l : LaneId) (lane : Option Lane) (s : State) : SignalsRoom s (setLane l lane s) :=
  .of_same (by simp) (by simp)

theorem starveLane_signals (l : LaneId) (ln : Lane) (s : State) : SignalsRoom s (starveLane l ln s) :=
  (((abortLane_signals _ _ _).trans (setCounters_signals _ _)).trans (raise_signals _ _)).trans (reportAbort_signals _ _ _)

theorem advanceLane_signals (s : State) (l : LaneId) : SignalsRoom s (advanceLane s l) := by
  have retired : ∀ kind t, SignalsRoom t (beginRetire l kind t) := fun kind t => .of_same (by simp) (by simp)
  unfold advanceLane
  split
  · exact .rfl
  · exact .ite (fun _ => .rfl) fun _ => .ite (fun _ => (setLane_signals _ _ _).trans (retired _ _)) fun _ =>
      .ite (fun _ => starveLane_signals _ _ _) fun _ => setLane_signals _ _ _

theorem advanceScan_signals (n : Nat) (s : State) : SignalsRoom s (advanceScan n s) := .of_same (by simp) (by simp)

theorem completeFrame_signals (f : Frame) (s : State) : SignalsRoom s (completeFrame f s) := by
  have ended : ∀ t, SignalsRoom t (endFrame t) := fun t => .of_same (by simp) (by simp)
  have advanced : ∀ t, SignalsRoom t (advanceLanes f.mark t) := fun t => by
    unfold advanceLanes
    split
    · exact .foldl advanceLane_signals _ t
    · exact .rfl
  exact (((advanceScan_signals _ _).trans (ended _)).trans (advanced _)).trans (judgeAfter_signals _ _)

theorem advanceRetire_signals (l : LaneId) (n : Nat) (s : State) : SignalsRoom s (advanceRetire l n s) :=
  .of_same (by simp) (by simp)

theorem endRetirement_signals (l : LaneId) (ln : Lane) (kind : WalkKind) (s : State) :
    SignalsRoom s (endRetirement l ln kind s) := by
  have freed : ∀ t, SignalsRoom t (freeTheLane l t) := fun t => .of_same (by simp) (by simp)
  have told : ∀ t, SignalsRoom t (reportPart ln kind t) := fun t => by
    unfold reportPart
    split
    · exact (updateRequest_signals _ _ _).trans (judgeFinish_signals _ _)
    · exact .rfl
  exact ((((advanceRetire_signals _ _ _).trans (freed _)).trans (told _)).trans (wantPass_signals _)).trans
    (judgeJobs_signals _)

theorem railFault_signals (s : State) : SignalsRoom s (railFault s) := by
  have failed : SignalsRoom s (faultRails s) := .of_same (by simp) (by simp)
  have lost : ∀ t l, SignalsRoom t (loseLane t l) := fun t l => by
    unfold loseLane
    cases laneAt t l with
    | none => exact .rfl
    | some ln => exact .ite (fun _ => (abortLane_signals _ _ _).trans (reportAbort_signals _ _ _)) fun _ => .rfl
  have withdrawn : ∀ t age, SignalsRoom t (flushRequest t age) := fun t age => by
    unfold flushRequest
    split
    · exact .ite (fun _ => (updateRequest_signals _ _ _).trans (withdrawRest_signals _ _ _)) fun _ => .rfl
    · exact .rfl
  have flushed : ∀ t, SignalsRoom t (flushAll t) := fun t => .ite (fun _ => .foldl withdrawn _ t) fun _ => .rfl
  exact ((((failed.trans (.foldl lost allLanes _)).trans (flushed _)).trans (judgeAll_signals _)).trans
    (raise_signals _ _)).trans (judgeAfter_signals _ _)

theorem setRails_signals (rails : Rails) (s : State) : SignalsRoom s { s with rails := rails } := .of_same rfl rfl

theorem takeSample_signals (high : Bool) (s : State) : SignalsRoom s (takeSample high s) :=
  .ite (fun _ => (setRails_signals _ _).trans (setRails_signals _ _)) fun _ =>
    .ite (fun _ => (setRails_signals _ _).trans (railFault_signals _)) fun _ => setRails_signals _ _

/-! ### Chunk writes, snapshots, bursts and the temperature -/

theorem setInflow_signals (inflow : Inflow) (s : State) : SignalsRoom s { s with inflow := inflow } := .of_same rfl rfl

theorem beginWait_signals (who : Requester) (s : State) : SignalsRoom s (beginWait who s) := .of_same (by simp) (by simp)

theorem clientDone_signals (who : Requester) (s : State) : SignalsRoom s (clientDone who s) := .of_same (by simp) (by simp)

theorem clientAbandon_signals (who : Requester) (s : State) : SignalsRoom s (clientAbandon who s) :=
  .of_same (by simp) (by simp)

theorem lastBursts_signals (who : Requester) (s : State) : SignalsRoom s (lastBursts who s) := .of_same (by simp) (by simp)

theorem checkRefill_signals (s : State) : SignalsRoom s (checkRefill s) :=
  .ite (fun _ => (setInflow_signals _ _).trans (raise_signals _ _)) fun _ => .rfl

theorem dropChunk_signals (s : State) : SignalsRoom s (dropChunk s) := by
  have dropped : SignalsRoom s { popChunk s with inflow := { (popChunk s).inflow with discard := true } } := .of_same rfl rfl
  exact (dropped.trans (raise_signals _ _)).trans (checkRefill_signals _)

theorem takeNextChunk_signals (s : State) : SignalsRoom s (takeNextChunk s) := by
  have taken : ∀ (cs : List Chunk) (t : State), SignalsRoom t (takeChunks cs t) := by
    intro cs
    induction cs with
    | nil => exact fun _ => .rfl
    | cons c rest ih =>
      exact fun t => .ite (fun _ => (dropChunk_signals t).trans (ih _)) fun _ =>
        (setInflow_signals _ _).trans (beginWait_signals _ _)
  exact .ite (fun _ => .rfl) fun _ => taken _ _

theorem advanceChunk_signals (n : Nat) (s : State) : SignalsRoom s (advanceChunk n s) := .of_same (by simp) (by simp)

theorem endChunkWrite_signals (c : Chunk) (s : State) : SignalsRoom s (endChunkWrite c s) := by
  have ended : ∀ t : State, SignalsRoom t { popChunk t with inflow := { (popChunk t).inflow with writing := none } } :=
    fun t => .of_same rfl rfl
  have counted : ∀ t, SignalsRoom t (countRows c t) := fun t => by
    unfold countRows
    split
    · exact .rfl
    · exact .ite (fun _ => .rfl) fun _ => .ite (fun _ => (updateRequest_signals _ _ _).trans (wantPass_signals _)) fun _ =>
        updateRequest_signals _ _ _
  have returned : ∀ t, SignalsRoom t (returnHeldPages c.age t) := fun t => by
    unfold returnHeldPages
    split
    · exact .ite (fun _ => (freeRequestPages_signals _ _).trans (offerRecords_signals _)) fun _ => .rfl
    · exact .rfl
  exact ((((((advanceChunk_signals _ _).trans (ended _)).trans (clientDone_signals _ _)).trans (checkRefill_signals _)).trans
    (counted _)).trans (returned _)).trans (takeNextChunk_signals _)

theorem advanceCopy_signals (n : Nat) (s : State) : SignalsRoom s (advanceCopy n s) := .of_same (by simp) (by simp)

theorem endSnapshot_signals (j : Job) (s : State) : SignalsRoom s (endSnapshot j s) := by
  have set : ∀ (copier : Copier) (t : State), SignalsRoom t { t with copier := copier } := fun _ _ => .of_same rfl rfl
  have handed : ∀ t, SignalsRoom t (handSnapshot j t) := fun t => by
    unfold handSnapshot
    cases j.purpose with
    | copy age => exact (updateRequest_signals _ _ _).trans (wantPass_signals _)
    | push | swap => exact .ite (fun _ => set _ _) fun _ => returnPages_signals _ _
  exact ((((advanceCopy_signals _ _).trans (set _ _)).trans (clientDone_signals _ _)).trans (handed _)).trans
    (judgeJobs_signals _)

theorem finishBurst_signals (who : Requester) (units : Nat) (s : State) : SignalsRoom s (finishBurst who units s) := by
  have served : ∀ t, SignalsRoom t (serveBurst who units t) := fun t => by
    cases who with
    | scanner => exact advanceScan_signals _ _
    | retirement l => exact advanceRetire_signals _ _ _
    | admission => exact .of_same (by simp [serveBurst]) (by simp [serveBurst])
    | initialisation => exact .of_same (by simp [serveBurst]) (by simp [serveBurst])
    | inflow => exact advanceChunk_signals _ _
    | copier => exact advanceCopy_signals _ _
    | library => exact .of_same rfl rfl
  exact .ite (fun _ => (served _).trans (clientDone_signals _ _)) fun _ => served _

theorem endPixelWalk_signals (s : State) : SignalsRoom s (endPixelWalk s) := .of_same (by simp) (by simp)

theorem startFrame_signals (s : State) : SignalsRoom s (startFrame s) := .of_same (by simp) (by simp)

theorem becomeReady_signals (ready : List Requester) (s : State) : SignalsRoom s (becomeReady ready s) :=
  .of_same (by simp) (by simp)

theorem reportHold_signals (s : State) : SignalsRoom s (reportHold s) := by
  have set : ∀ adm : Admission, SignalsRoom s { s with adm := adm } := fun _ => .of_same rfl rfl
  exact .ite (fun _ => (set _).trans (raise_signals _ _)) fun _ => .rfl

theorem recomputeTemp_signals (s : State) : SignalsRoom s (recomputeTemp s) := by
  have set : ∀ temp : Temperature, SignalsRoom s { s with temp := temp } := fun _ => .of_same rfl rfl
  have cleared : ∀ (adm : Admission) (t : State), SignalsRoom t { t with adm := adm } := fun _ _ => .of_same rfl rfl
  exact (set _).trans (.ite (fun _ => .rfl) fun _ => .ite (fun _ => cleared _ _) fun _ =>
    .ite (fun _ => reportHold_signals _) fun _ => .rfl)

theorem setLibrary_signals (lib : Library) (s : State) : SignalsRoom s (setLibrary lib s) := by
  have set : SignalsRoom s { s with lib := lib } := .of_same rfl rfl
  exact set.trans (recomputeTemp_signals _)

theorem takeReading_signals (v : Int) (s : State) : SignalsRoom s (takeReading v s) := by
  have set : ∀ temp : Temperature, SignalsRoom s { s with temp := temp } := fun _ => .of_same rfl rfl
  exact ((set _).trans (recomputeTemp_signals _)).trans (.ite (fun _ => wantPass_signals _) fun _ => .rfl)

theorem expireInterval_signals (s : State) : SignalsRoom s (expireInterval s) := by
  have set : ∀ temp : Temperature, SignalsRoom s { s with temp := temp } := fun _ => .of_same rfl rfl
  exact .ite (fun _ => set _) fun _ => .ite (fun _ => ((set _).trans (recomputeTemp_signals _)).trans (raise_signals _ _))
    fun _ => (set _).trans (recomputeTemp_signals _)

/-! ### Host commands -/

/-- A posting leaves the table longer. -/
theorem createRequest_signals (mk : Nat → Request) (s : State) : SignalsRoom s (createRequest mk s) := by
  refine SignalsRoom.trans ?_ (reportHold_signals _)
  exact .of_length (by simp [wantPass]) id

theorem createJob_signals (mk : Nat → Job) (s : State) : SignalsRoom s (createJob mk s) := .of_same rfl rfl

theorem atRisingEdge_signals (t : Transfer) (s : State) : SignalsRoom s (atRisingEdge t s) :=
  .of_same (by simp) (by simp)

theorem setLink_signals (link : LinkPort) (s : State) : SignalsRoom s { s with link := link } := .of_same rfl rfl

/-- A row that takes a command signals room where its effect does, and the rule behind its reply. -/
theorem takeCommand_signals {k : Kind} {t : Transfer} {admits : List Byte → Bool} {effect : List Byte → State → Effect}
    {after : State → State} {s u : State} (h : takeCommand k t admits effect after s = .next u)
    (taken : ∀ p v, SignalsRoom v (effect p v).1) (later : ∀ v, SignalsRoom v (after v)) : SignalsRoom s u := by
  have edge := atRisingEdge_signals t s
  rcases takeCommand_next h with rfl | ⟨seq, p, -, rfl⟩
  · exact edge
  · exact (((edge.trans (taken p _)).trans (finish_signals _ _)).trans (setLink_signals _ _)).trans (later _)

theorem takeKind_signals {k : Kind} {t : Transfer} {effect : List Byte → State → Effect} {s u : State}
    (h : takeKind k t effect s = .next u) (taken : ∀ p v, SignalsRoom v (effect p v).1) : SignalsRoom s u :=
  takeCommand_signals h taken fun _ => .rfl

theorem takeReadLog_signals (p : List Byte) (s : State) : SignalsRoom s (takeReadLog p s).1 := by
  have read : ∀ log, SignalsRoom s { s with notices := { s.notices with log := log } } := fun _ => .of_same rfl rfl
  unfold takeReadLog
  split
  · exact .rfl
  · exact (read _).trans (offerRecords_signals _)

theorem takeCancel_signals (p : List Byte) (s : State) : SignalsRoom s (takeCancel p s).1 := by
  unfold takeCancel
  (repeat' split)
  · exact .rfl
  · exact .rfl
  · exact .rfl
  · exact .rfl
  · exact cancelRequest_signals _ _ _

theorem takeConfigure_signals (p : List Byte) (s : State) : SignalsRoom s (takeConfigure p s).1 := by
  have set : ∀ c, SignalsRoom s (applySettings c s) := fun _ => .of_same rfl rfl
  have shaped : ∀ g t, SignalsRoom t (applyGeometry g t) := fun _ _ => .of_same (by simp) (by simp)
  unfold takeConfigure
  split
  · exact .rfl
  · exact (set _).trans (shaped _ _)

theorem takeRails_signals (p : List Byte) (s : State) : SignalsRoom s (takeRails p s).1 := by
  unfold takeRails railsOffEffect clearFaultEffect clearFault
  (repeat' split) <;> exact .of_same rfl rfl

theorem endLibWrite_signals (s : State) : SignalsRoom s (endLibWrite s) := .of_same (by simp) (by simp)

theorem takeLibBegin_signals (p : List Byte) (s : State) : SignalsRoom s (takeLibBegin p s).1 := by
  unfold takeLibBegin
  split
  · exact .rfl
  · exact (clientAbandon_signals .library s).trans (setLibrary_signals _ _)

theorem takeLibAbandon_signals (p : List Byte) (s : State) : SignalsRoom s (takeLibAbandon p s).1 := by
  unfold takeLibAbandon
  split
  · exact .rfl
  · exact (clientAbandon_signals .library s).trans (setLibrary_signals _ _)

theorem takePixels_signals (p : List Byte) (s : State) : SignalsRoom s (takePixels p s).1 := by
  have refusal : SignalsRoom s (countRefusal s) := .of_same rfl rfl
  have accept : ∀ f r, SignalsRoom s (acceptPixels f r s) := fun f r => by
    have latched : ∀ t, SignalsRoom t (armLatch t) := fun t => .of_same (by simp) (by simp)
    exact (((setInflow_signals _ _).trans (updateRequest_signals _ _ _)).trans (latched _)).trans (takeNextChunk_signals _)
  unfold takePixels
  dsimp only
  (repeat' split)
  · exact refusal
  · exact refusal
  · exact accept _ _
  · exact .rfl

theorem takePages_signals (r : Rect) (s : State) : SignalsRoom s (takePages r s) := .of_same rfl rfl

theorem takePostUpdate_signals (p : List Byte) (s : State) : SignalsRoom s (takePostUpdate p s).1 := by
  unfold takePostUpdate
  (repeat' split)
  · exact .rfl
  · exact SignalsRoom.trans (.ite (fun _ => takePages_signals _ _) fun _ => .rfl) (createRequest_signals _ _)
  · exact .rfl

theorem takePostCopy_signals (p : List Byte) (s : State) : SignalsRoom s (takePostCopy p s).1 := by
  unfold takePostCopy
  (repeat' split)
  · exact .rfl
  · exact (((takePages_signals _ _).trans (createJob_signals _ _)).trans (createRequest_signals _ _)).trans
      (judgeJobs_signals _)
  · exact .rfl

/-- The oldest entry of a full stack leaves it with OVERLAY_LOST (R130). -/
theorem discardBottom_signals (s : State) : SignalsRoom s (discardBottom s) := by
  have set : ∀ copier : Copier, SignalsRoom s { s with copier := copier } := fun _ => .of_same rfl rfl
  have released : ∀ o t, SignalsRoom t (releaseOverlay o t) := fun o t => .of_same (by simp) (by simp)
  unfold discardBottom
  (repeat' split)
  · exact .rfl
  · exact .rfl
  · exact ((set _).trans (released _ _)).trans (raise_signals _ _)

theorem takeOverlayPush_signals (p : List Byte) (s : State) : SignalsRoom s (takeOverlayPush p s).1 := by
  have placed : ∀ o t, SignalsRoom t (placeOverlay o t) := fun _ _ => .of_same rfl rfl
  unfold takeOverlayPush
  split
  · exact .rfl
  · exact ((((takePages_signals _ _).trans (createJob_signals _ _)).trans (discardBottom_signals _)).trans (placed _ _)).trans
      (judgeJobs_signals _)

theorem takeOverlayPop_signals (p : List Byte) (s : State) : SignalsRoom s (takeOverlayPop p s).1 := by
  have set : ∀ copier : Copier, SignalsRoom s { s with copier := copier } := fun _ => .of_same rfl rfl
  unfold takeOverlayPop
  (repeat' split)
  · exact .rfl
  · exact (set _).trans (createRequest_signals _ _)
  · exact .rfl

theorem takeOverlaySwap_signals (p : List Byte) (s : State) : SignalsRoom s (takeOverlaySwap p s).1 := by
  have set : ∀ (copier : Copier) (t : State), SignalsRoom t { t with copier := copier } := fun _ _ => .of_same rfl rfl
  unfold takeOverlaySwap
  (repeat' split)
  · exact .rfl
  · exact ((((takePages_signals _ _).trans (createJob_signals _ _)).trans (createRequest_signals _ _)).trans (set _ _)).trans
      (judgeJobs_signals _)
  · exact .rfl

theorem failLink_signals (r : Result) (seq : Byte) (t : Transfer) (s : State) : SignalsRoom s (failLink r seq t s) := by
  refine .ite (fun _ => atRisingEdge_signals t s) fun _ => ?_
  exact (atRisingEdge_signals t s).trans ((((setCounters_signals _ _).trans (raise_signals _ _)).trans (finish_signals _ _)).trans
    (setLink_signals _ _))

/-- Every command but NOTICE_TAKE, RESTART and the resets. -/
theorem exec_signals {c : Instr} {s u : State} (h : exec c s = .next u) (quiet : resets c = false)
    (take : ∀ t, c ≠ .noticeTake t) (restart : ∀ t, c ≠ .restart t) : SignalsRoom s u := by
  have ends : ∀ {v w : State}, SignalsRoom s v → SignalsRoom s (finish w v) := fun signals =>
    signals.trans (finish_signals _ _)
  have same : ∀ {v w : State}, w.req = v.req → w.notices = v.notices → SignalsRoom v w := fun req notices =>
    .of_same (by rw [req]) (by rw [notices])
  cases c with
  | powerOn | resetPin => cases quiet
  | restart t => exact absurd rfl (restart t)
  | noticeTake t => exact absurd rfl (take t)
  | ident t => exact takeKind_signals h fun p v => by unfold takeIdent; split <;> exact .rfl
  | status t =>
    exact takeCommand_signals h (fun p v => by unfold takeStatus; split <;> exact .rfl) fun v => same (by simp) (by simp)
  | countersRead t => exact takeCommand_signals h (fun p v => by unfold takeCounters; split <;> exact .rfl) fun v => .rfl
  | countersReadAndClear t =>
    exact takeCommand_signals h (fun p v => by unfold takeCounters; split <;> exact .rfl) fun v =>
      .ite (fun _ => setCounters_signals _ _) fun _ => .rfl
  | configure t => exact takeKind_signals h takeConfigure_signals
  | noticeSet t => exact takeKind_signals h fun p v => by unfold takeNoticeSet; split <;> exact .of_same rfl rfl
  | readLog t => exact takeKind_signals h takeReadLog_signals
  | libBegin t => exact takeKind_signals h takeLibBegin_signals
  | libData t =>
    exact takeKind_signals h fun p v => by unfold takeLibData; (repeat' split) <;> exact same (by simp [refused]) (by simp [refused])
  | libCommit t =>
    exact takeKind_signals h fun p v => by
      unfold takeLibCommit; split <;> exact same (by simp [refused, accepted]) (by simp [refused, accepted])
  | libAbandon t => exact takeKind_signals h takeLibAbandon_signals
  | temp t => exact takeKind_signals h fun p v => by unfold takeTemp; split; exacts [.rfl, takeReading_signals _ _]
  | railsOff t => exact takeCommand_signals h takeRails_signals fun v => .rfl
  | railsClearFault t => exact takeCommand_signals h takeRails_signals fun v => .rfl
  | postUpdate t => exact takeKind_signals h takePostUpdate_signals
  | pixels t => exact takeKind_signals h takePixels_signals
  | cancel t => exact takeKind_signals h takeCancel_signals
  | clearDiscard t => exact takeKind_signals h fun p v => by unfold takeClearDiscard; split <;> exact .of_same rfl rfl
  | postCopy t => exact takeKind_signals h takePostCopy_signals
  | overlayPush t => exact takeKind_signals h takeOverlayPush_signals
  | overlayPop t => exact takeKind_signals h takeOverlayPop_signals
  | overlaySwap t => exact takeKind_signals h takeOverlaySwap_signals
  | freeze t => exact takeKind_signals h fun p v => by unfold takeFreeze; split <;> exact .of_same rfl rfl
  | thaw t => exact takeKind_signals h fun p v => by unfold takeFreeze; split <;> exact .of_same rfl rfl
  | assume t =>
    exact takeKind_signals h fun p v => by unfold takeAssume; split; exacts [.rfl, same (by simp [accepted]) (by simp [accepted])]
  | transactionStart =>
    simp only [exec, execTransactionStart] at h
    split at h <;> cases h
    exact setLink_signals _ s
  | poll t =>
    simp only [exec, execPoll] at h
    split at h <;> cases h
    exact atRisingEdge_signals t s
  | linkFailure t =>
    simp only [exec, execLinkFailure] at h
    split at h <;> cases h
    exact failLink_signals _ _ t s
  | initialisationWalkEnd =>
    simp only [exec, execInitialisationWalkEnd] at h
    split at h <;> cases h
    exact ends ((lastBursts_signals _ s).trans (endPixelWalk_signals _))
  | assumeWalkEnd =>
    simp only [exec, execAssumeWalkEnd] at h
    split at h <;> cases h
    exact ends (((lastBursts_signals .initialisation s).trans (same (by simp) (by simp))).trans (endPixelWalk_signals _))
  | libChunkWriteEnd =>
    simp only [exec, execLibChunkWriteEnd] at h
    split at h <;> cases h
    exact ends ((lastBursts_signals _ s).trans (endLibWrite_signals _))
  | commitWalkEnd =>
    simp only [exec, execCommitWalkEnd] at h
    split at h <;> cases h
    exact ends ((((lastBursts_signals _ s).trans (clientDone_signals _ _)).trans (setLibrary_signals _ _)).trans
      (raise_signals _ _))
  | inflowChunkWriteEnd =>
    simp only [exec, execInflowChunkWriteEnd] at h
    split at h <;> cases h
    exact ends ((lastBursts_signals _ s).trans (endChunkWrite_signals _ _))
  | admissionWalkEnd =>
    simp only [exec, execAdmissionWalkEnd] at h
    split at h <;> cases h
    exact ends ((lastBursts_signals _ s).trans (endWalk_signals _ _))
  | frameStart =>
    simp only [exec, execFrameStart] at h
    (repeat' split at h) <;> cases h
    exact ends (startFrame_signals s)
  | frameCompletion =>
    simp only [exec, execFrameCompletion] at h
    split at h <;> cases h
    exact ends ((lastBursts_signals _ s).trans (completeFrame_signals _ _))
  | retirementWalkEnd l =>
    cases lane : laneAt s l with
    | none => simp only [exec, execRetirementWalkEnd, lane] at h; cases h
    | some ln =>
      cases state : ln.state with
      | armed | active => simp only [exec, execRetirementWalkEnd, lane, state] at h; cases h
      | retiring kind done =>
        simp only [exec, execRetirementWalkEnd, lane, state] at h
        cases h
        exact ends ((lastBursts_signals _ s).trans (endRetirement_signals _ _ _ _))
  | copierJobEnd =>
    simp only [exec, execCopierJobEnd] at h
    split at h <;> cases h
    exact ends ((lastBursts_signals _ s).trans (endSnapshot_signals _ _))
  | powerGoodSample high => cases h; exact ends (takeSample_signals high s)
  | riseTimeout =>
    simp only [exec, execRiseTimeout] at h
    split at h <;> cases h
    exact ends (railFault_signals s)
  | idleTimerExpiry =>
    simp only [exec, execIdleTimerExpiry] at h
    split at h <;> cases h
    exact ends (setRails_signals _ s)
  | fallTimeEnd =>
    simp only [exec, execFallTimeEnd] at h
    split at h <;> cases h
    exact ends (setRails_signals _ s)
  | intervalTimerExpiry => cases h; exact ends (expireInterval_signals s)
  | refreshRequest ready =>
    cases h
    exact ends ((becomeReady_signals ready s).trans (same rfl rfl))
  | refreshEnd ready =>
    simp only [exec, execRefreshEnd] at h
    split at h <;> cases h
    exact ends ((becomeReady_signals ready s).trans (same rfl rfl))
  | burstEnd units ready =>
    simp only [exec, execBurstEnd] at h
    split at h <;> cases h
    have granted : ∀ t, SignalsRoom t (endGrant t) := fun t => .of_same rfl rfl
    refine ends ((becomeReady_signals ready s).trans (SignalsRoom.trans ?_ (granted _)))
    exact .ite (fun _ => finishBurst_signals _ _ _) fun _ => .rfl
  | calibrationEnd =>
    simp only [exec, execCalibrationEnd] at h
    split at h <;> cases h
    exact ends (same rfl rfl)
  | resetRelease =>
    simp only [exec, execResetRelease] at h
    split at h <;> cases h
    exact setLink_signals _ s

/-- NOTICE_TAKE may clear the notice, and then ends as every event does. -/
theorem noticeTake_room {t : Transfer} {s u : State} (h : exec (.noticeTake t) s = .next u)
    (full : 24 ≤ s.req.table.length) (room : u.req.table.length < 24) : u.notices.flags.getLsbD 10 = true := by
  have taken : ∀ p v, (takeNoticeTake p v).1.req = v.req := fun p v => by
    unfold takeNoticeTake
    split <;> simp [refused]
  rcases takeCommand_next h with rfl | ⟨seq, p, -, rfl⟩
  · exact (atRisingEdge_signals t s).room full room
  · refine ((finish_signals _ _).trans (setLink_signals _ _)).room ?_ room
    simpa [taken] using full

/-- A full table that gets room other than by a RESTART or a reset raises QUEUE_ROOM (R57). -/
theorem exec_room {c : Instr} {s u : State} (h : exec c s = .next u) (quiet : resets c = false)
    (restart : ∀ t, c ≠ .restart t) (full : 24 ≤ s.req.table.length) (room : u.req.table.length < 24) :
    u.notices.flags.getLsbD 10 = true := by
  by_cases take : ∃ t, c = .noticeTake t
  · obtain ⟨t, rfl⟩ := take
    exact noticeTake_room h full room
  · exact (exec_signals h quiet (fun t same => take ⟨t, same⟩) restart).room full room

/-! ### The thirteen bytes of a record, and the places that may offer (R62, R176) -/

/-- A completion record byte by byte, the codes of outcome and mode as any function that lists them so. -/
theorem completionRecord_bytes (c : CompletionRecord) (outcome : ReqOutcome → Byte) (selector : Mode → Byte)
    (outcomes : [ReqOutcome.done, .noChange, .cancelled, .aborted, .starved, .railLost, .ghostRefused, .unsupported,
      .flushed].map outcome = [0, 1, 2, 3, 4, 5, 6, 7, 8])
    (selectors : [Mode.blank, .clear, .settle, .quick, .stroke].map selector = [1, 2, 3, 4, 5]) :
    c.bytes = leBytes 2 c.tag
      ++ [outcome c.outcome, selector c.requestedMode, selector c.modeUsed,
          match c.upgradeReason with | none => 0 | some .residue => 1 | some .balance => 2 | some .indeterminate => 3,
          match c.band with | none => 0xFF | some band => BitVec.ofNat 8 band,
          BitVec.ofNat 8 c.partsUsed]
      ++ leBytes 4 c.pixelsDriven ++ [BitVec.ofNat 8 c.largestFrames] := by
  simp only [List.map_cons, List.map_nil, List.cons.injEq, and_true] at outcomes selectors
  obtain ⟨o0, o1, o2, o3, o4, o5, o6, o7, o8⟩ := outcomes
  obtain ⟨m1, m2, m3, m4, m5⟩ := selectors
  have code : outcome c.outcome = BitVec.ofNat 8 c.outcome.code := by
    cases c.outcome <;> simp only [o0, o1, o2, o3, o4, o5, o6, o7, o8, ReqOutcome.code] <;> rfl
  have named : ∀ m, selector m = BitVec.ofNat 8 m.selector := fun m => by
    cases m <;> simp only [m1, m2, m3, m4, m5, Mode.selector] <;> rfl
  have reason : (match c.upgradeReason with
      | none => 0 | some .residue => 1 | some .balance => 2 | some .indeterminate => 3 : Byte) =
        BitVec.ofNat 8 (upgradeCode c.upgradeReason) := by
    cases c.upgradeReason with
    | none => rfl
    | some why => cases why <;> rfl
  have band : (match c.band with | none => 0xFF | some band => BitVec.ofNat 8 band : Byte) =
      BitVec.ofNat 8 (bandCode c.band) := by
    cases c.band <;> rfl
  rw [code, named, named, reason, band]
  simp [CompletionRecord.bytes, leBytes]

theorem completionRecord_length (c : CompletionRecord) : c.bytes.length = 13 := by
  simp [CompletionRecord.bytes]

theorem readyToOffer_iff (s : State) (h : Reporting) :
    readyToOffer s h = true ↔ ∀ r, findAge s h.age = some r → r.pages = none := by
  unfold readyToOffer
  cases findAge s h.age <;> simp

/-! ### READ_LOG (R57, R177) -/

/-- The flags where records leave the table: QUEUE_ROOM is raised where a full table gets room, and no other (R57). -/
theorem leaveTable_flags (age : Nat) (s : State) : (leaveTable age s).notices.flags =
    if 24 ≤ s.req.table.length ∧ (leaveTable age s).req.table.length < 24 then
      s.notices.flags ||| NoticeSource.queueRoom.mask
    else s.notices.flags := by
  rw [leaveTable_table]
  unfold leaveTable
  by_cases room : 24 ≤ s.req.table.length ∧ (s.req.table.filter fun r => r.age ≠ age).length < 24
  · rw [if_pos room, if_pos room]
    rfl
  · rw [if_neg room, if_neg room]

theorem offerFrom_flags (line : List Reporting) (s : State) : (offerFrom line s).notices.flags =
    if 24 ≤ s.req.table.length ∧ (offerFrom line s).req.table.length < 24 then
      s.notices.flags ||| NoticeSource.queueRoom.mask
    else s.notices.flags := by
  induction line generalizing s with
  | nil => exact (if_neg fun room => absurd room.1 (Nat.not_le.mpr room.2)).symm
  | cons h rest ih =>
    unfold offerFrom
    split
    · rename_i goes
      have shorter := (acceptRecord_tidies h s goes.1).tableLength
      have shortest := (offerFrom_tidies rest (acceptRecord h s)).tableLength
      have first : (acceptRecord h s).notices.flags =
          if 24 ≤ s.req.table.length ∧ (acceptRecord h s).req.table.length < 24 then
            s.notices.flags ||| NoticeSource.queueRoom.mask
          else s.notices.flags := leaveTable_flags h.age _
      rw [ih, first]
      by_cases full : 24 ≤ s.req.table.length
      · by_cases room : (acceptRecord h s).req.table.length < 24
        · rw [if_neg (by omega), if_pos ⟨full, room⟩, if_pos ⟨full, by omega⟩]
        · rw [if_neg (c := _ ∧ (acceptRecord h s).req.table.length < 24) (by omega)]
          exact if_congr (by omega) rfl rfl
      · rw [if_neg (by omega), if_neg (by omega), if_neg (by omega)]
    · exact (if_neg fun room => absurd room.1 (Nat.not_le.mpr room.2)).symm

/-- The state with the oldest records read. -/
def logRead (n : Nat) (s : State) : State := { s with notices := { s.notices with log := s.notices.log.drop n } }

theorem readLogCheck_none {p : List Byte} (length : p.length = 1) (low : 1 ≤ field p 0 1) (high : field p 0 1 ≤ 32) :
    readLogCheck p = none := by
  simp [readLogCheck, failIf, length]
  omega

/-- READ_LOG with its checks passed (R177). -/
theorem takeReadLog_passed {p : List Byte} {s : State} (passed : readLogCheck p = none) :
    takeReadLog p s = (offerRecords (logRead (field p 0 1) s), .ok,
      fun _ => leBytes 1 (s.notices.log.take (field p 0 1)).length
        ++ (s.notices.log.take (field p 0 1)).flatMap CompletionRecord.bytes) := by
  simp only [takeReadLog, passed, logRead]

theorem takeReadLog_refused {p : List Byte} {s : State} {r : Result} (refusal : readLogCheck p = some r) :
    takeReadLog p s = refused s r := by
  simp only [takeReadLog, refusal]

/-- An accepted READ_LOG at rest: the records read leave the log, the line offers, and the event ends. -/
theorem readLog_accepted {t : Transfer} {s : State} {seq : Byte} {p : List Byte} (live : linkTakes s) (rest : settled s)
    (arrives : arrivalOf t = .command .readLog seq p) (passed : readLogCheck p = none) :
    ∃ u, exec (.readLog t) s = .next u
      ∧ answers u .readLog seq .ok (leBytes 1 (s.notices.log.take (field p 0 1)).length
          ++ (s.notices.log.take (field p 0 1)).flatMap CompletionRecord.bytes)
      ∧ u.req = (offerRecords (logRead (field p 0 1) (atRisingEdge t s))).req
      ∧ u.notices.log = (offerRecords (logRead (field p 0 1) (atRisingEdge t s))).notices.log
      ∧ u.notices.flags = (offerRecords (logRead (field p 0 1) (atRisingEdge t s))).notices.flags := by
  have ended : finish (atRisingEdge t s) (offerRecords (logRead (field p 0 1) (atRisingEdge t s))) =
      syncAttn (offerRecords (logRead (field p 0 1) (atRisingEdge t s))) := by
    refine finish_of_settled (settled_atRisingEdge t rest) ?_ ?_ ?_ ?_ ?_ ?_ ?_ ?_ ?_ <;> simp [logRead]
  have row := takeKind_takes (effect := takeReadLog) live arrives
  rw [takeReadLog_passed passed, ended] at row
  refine ⟨_, row, ?_, rfl, rfl, rfl⟩
  have reply := answers_placeReply .readLog seq .ok
    (leBytes 1 ((atRisingEdge t s).notices.log.take (field p 0 1)).length
      ++ ((atRisingEdge t s).notices.log.take (field p 0 1)).flatMap CompletionRecord.bytes)
    (syncAttn (offerRecords (logRead (field p 0 1) (atRisingEdge t s))))
  simpa only [atRisingEdge_keeps] using reply

/-- A refused READ_LOG at rest changes nothing but the link. -/
theorem readLog_refused {t : Transfer} {s : State} {seq : Byte} {p : List Byte} {r : Result} (live : linkTakes s)
    (rest : settled s) (arrives : arrivalOf t = .command .readLog seq p) (refusal : readLogCheck p = some r) :
    ∃ u, exec (.readLog t) s = .next u ∧ answers u .readLog seq r [] ∧ u = { s with link := u.link } :=
  takeCommand_still (admits := anyPayload) (b := noBody) live rest arrives rfl (takeReadLog_refused refusal)

/-- Settles O16: the line's offers by their prefix, QUEUE_ROOM by an operation that every step is composed of. -/
theorem readLogReturnsTheOldestRecords : Obligations.ReadLogReturnsTheOldestRecords := by
  refine ⟨fun c outcome selector outcomes selectors => ⟨completionRecord_bytes c _ _ outcomes selectors,
      completionRecord_length c⟩, readyToOffer_iff, fun c s u h quiet restart full room => exec_room h quiet restart full room, ?_⟩
  intro t s seq p arrives live rest distinct
  refine ⟨fun length => readLog_refused live rest arrives (by simp [readLogCheck, failIf, length]),
    fun length bad => readLog_refused live rest arrives (by simp [readLogCheck, failIf, length, bad]),
    fun length low high => ?_⟩
  obtain ⟨u, next, reply, req, log, flags⟩ := readLog_accepted live rest arrives (readLogCheck_none length low high)
  have readReq : (logRead (field p 0 1) (atRisingEdge t s)).req = s.req := by simp [logRead]
  have readLog : (logRead (field p 0 1) (atRisingEdge t s)).notices.log = s.notices.log.drop (field p 0 1) := by simp [logRead]
  have readFlags : (logRead (field p 0 1) (atRisingEdge t s)).notices.flags = s.notices.flags := by simp [logRead]
  have readReady : ∀ h, readyToOffer (logRead (field p 0 1) (atRisingEdge t s)) h = readyToOffer s h := fun h =>
    readyToOffer_congr (findAge_congr (by rw [readReq]) _)
  obtain ⟨k, bound, offered, left, accepted, stops⟩ :=
    offerFrom_prefix s.req.line (logRead (field p 0 1) (atRisingEdge t s)) distinct (by rw [readReq])
  have offers : offerRecords (logRead (field p 0 1) (atRisingEdge t s)) =
      offerFrom s.req.line (logRead (field p 0 1) (atRisingEdge t s)) := by rw [offerRecords, readReq]
  have raised := offerFrom_flags s.req.line (logRead (field p 0 1) (atRisingEdge t s))
  rw [← offers, ← req, ← flags, readReq, readFlags] at raised
  rw [← offers, ← log, readLog] at offered
  rw [← offers, ← req, readReq] at left
  simp only [readLog, readReady] at accepted stops
  refine ⟨u, k, next, ?_, offered, left, fun room => raised.trans (if_pos room), fun none => raised.trans (if_neg (by omega)),
    accepted, bound, stops⟩
  simpa [leBytes] using reply

end Sys2Proof.Machine
end

section
/-!
PROOF. Settles O29: what CANCEL ends, what it leaves, and what it defers (R50 to R52).
-/

namespace Sys2Proof.Machine

open Sys2Proof.Safety

/-! ### An entry dropped (R42, R43) -/

/-- No entry is found of an age that none carries. -/
theorem entryOf_eq_none_iff {s : State} {age : Nat} : entryOf s age = none ↔ ∀ e ∈ s.req.queue, e.age ≠ age := by
  simp [entryOf, List.find?_eq_none]

/-- The entries are read off the queue. -/
theorem entryOf_congr {s u : State} (queue : u.req.queue = s.req.queue) (age : Nat) : entryOf u age = entryOf s age := by
  simp only [entryOf, queue]

/-- Where an entry is dropped, none of its age is left, and every other stays. -/
theorem dropEntryTriggering_queue (age : Nat) (o : ReqOutcome) (s : State) :
    (dropEntryTriggering age o s).req.queue = s.req.queue.filter fun e => e.age ≠ age := by
  unfold dropEntryTriggering dropEntry
  cases entry : entryOf s age with
  | none => exact (List.filter_eq_self.mpr (by simpa using entryOf_eq_none_iff.mp entry)).symm
  | some e => rfl

/-- The record of a dropped entry counts the part, with its outcome. -/
theorem findAge_dropEntryTriggering (age : Nat) (o : ReqOutcome) (s : State) (a : Nat) :
    findAge (dropEntryTriggering age o s) a = (findAge s a).map fun r =>
      if r.age = age then (if entryOf s age = none then r else r.withPartFinished o) else r := by
  unfold dropEntryTriggering dropEntry
  cases entry : entryOf s age with
  | none => cases findAge s a <;> simp
  | some e =>
    have counted : findAge (finishPart age o (removeEntry age s)) a =
        (findAge s a).map fun r => if r.age = age then r.withPartFinished o else r :=
      (findAge_updateRequest (f := Request.withPartFinished o) (fun _ => rfl) (removeEntry age s) a).trans
        (by rw [findAge_congr (s := s) (by simp)])
    have wanted : findAge (wantPass (finishPart age o (removeEntry age s))) a =
        findAge (finishPart age o (removeEntry age s)) a := findAge_congr (by simp) a
    simpa using wanted.trans counted

/-- An entry dropped gives the trigger of a pass (R80). -/
theorem dropEntryTriggering_wants {age : Nat} {s : State} (o : ReqOutcome) (entry : entryOf s age ≠ none) :
    (dropEntryTriggering age o s).adm.passWanted = true := by
  unfold dropEntryTriggering
  cases found : entryOf s age with
  | none => exact absurd found entry
  | some e => rfl

/-- A record with its tally closed (R64). -/
def Request.closed (r : Request) : Request := { r with tally := r.tally.map fun t => { t with closed := true } }

/-- A tally closed is closed in the record of its age. -/
theorem findAge_closeTally (age : Nat) (s : State) (a : Nat) : findAge (closeTally age s) a =
    (findAge s a).map fun r => if r.age = age then r.closed else r :=
  findAge_updateRequest (f := Request.closed) (fun _ => rfl) s a

/-! ### Holds where lanes turn to retire (R78) -/

/-- Lanes that turn to retire for another reason than a RESTART leave the restart condition. -/
theorem restartWalks_of_map {s u : State} {g : Lane → Lane} (lanes : ∀ l, laneAt u l = (laneAt s l).map g)
    (states : ∀ ln, (g ln).state.restarted = ln.state.restarted) : restartWalks u = restartWalks s := by
  unfold restartWalks
  congr 1
  funext l
  rw [lanes]
  cases laneAt s l with
  | none => rfl
  | some ln => exact states ln

theorem Lane.released_restarted (o : ReqOutcome) (ln : Lane) : (ln.released o).state.restarted = ln.state.restarted := by
  unfold Lane.released
  split
  · rename_i armed; rw [armed]; rfl
  · rfl

theorem Lane.aborted_restarted {reason : AbortReason} (other : reason ≠ .restarted) (ln : Lane) :
    (ln.aborted reason).state.restarted = ln.state.restarted := by
  unfold Lane.aborted
  split
  · rename_i active
    rw [active]
    cases reason with
    | restarted => exact absurd rfl other
    | cancelled | starved | railLost => rfl
  · rfl

/-! ### The lanes a cancel reaches (R107, R109, R114) -/

/-- A lane at a clean cancel of the request of a tag. -/
def Lane.cleared (tag : Nat) (o : ReqOutcome) (ln : Lane) : Lane := if ln.tag = tag then ln.released o else ln

/-- A lane at a forced cancel of the request of a tag. -/
def Lane.forced (tag : Nat) (ln : Lane) : Lane :=
  if ln.tag = tag then (ln.aborted .cancelled).released .aborted else ln

theorem Lane.cleared_eq (tag : Nat) (o : ReqOutcome) (ln : Lane) : ln.cleared tag o =
    if ln.tag = tag ∧ ln.state = .armed then { ln with state := .retiring (.release o) 0 } else ln := by
  unfold Lane.cleared Lane.released
  by_cases own : ln.tag = tag <;> simp [own]

theorem Lane.forced_eq (tag : Nat) (ln : Lane) : ln.forced tag =
    if ln.tag ≠ tag then ln
    else match ln.state with
      | .active => { ln with state := .retiring (.abort .cancelled) 0 }
      | .armed => { ln with state := .retiring (.release .aborted) 0 }
      | .retiring _ _ => ln := by
  unfold Lane.forced Lane.released Lane.aborted
  by_cases own : ln.tag = tag
  · cases state : ln.state <;> simp [own, state]
  · simp [own]

theorem Lane.cleared_restarted (tag : Nat) (o : ReqOutcome) (ln : Lane) :
    (ln.cleared tag o).state.restarted = ln.state.restarted := by
  unfold Lane.cleared
  split
  · exact ln.released_restarted o
  · rfl

theorem Lane.forced_restarted (tag : Nat) (ln : Lane) : (ln.forced tag).state.restarted = ln.state.restarted := by
  unfold Lane.forced
  split
  · exact (Lane.released_restarted _ _).trans (ln.aborted_restarted (by decide))
  · rfl

theorem Lane.aborted_tag (reason : AbortReason) (ln : Lane) : (ln.aborted reason).tag = ln.tag := by
  unfold Lane.aborted; split <;> rfl

/-- The aborts count the ACTIVE lanes of a list of distinct ones. -/
theorem foldl_abortLane_counters (reason : AbortReason) (ls : List LaneId) (distinct : ls.Nodup) (s : State)
    (active : ∀ l ∈ ls, ∃ ln, laneAt s l = some ln ∧ ln.state = .active) :
    (ls.foldl (abortLane reason) s).counters =
      { s.counters with aborts := bump^[ls.length] s.counters.aborts } := by
  induction ls generalizing s with
  | nil => rfl
  | cons l ls ih =>
    obtain ⟨fresh, distinct⟩ := List.nodup_cons.mp distinct
    obtain ⟨ln, lane, here⟩ := active l List.mem_cons_self
    have first : (abortLane reason s l).counters = { s.counters with aborts := bump s.counters.aborts } := by
      simp [abortLane, lane, here]
    rw [List.foldl_cons, ih distinct, first, List.length_cons, Function.iterate_succ_apply]
    intro m mem
    obtain ⟨n, used, drives⟩ := active m (List.mem_cons_of_mem _ mem)
    refine ⟨n, ?_, drives⟩
    rw [laneAt_abortLane, if_neg (by rintro rfl; exact fresh mem), used]

/-- Every ACTIVE lane of a tag aborted counts in the aborts (R107, R168). -/
theorem abortActive_counters (tag : Nat) (reason : AbortReason) (s : State) : (abortActive tag reason s).counters =
    { s.counters with
      aborts := bump^[(allLanes.filter (laneOf s tag fun st => decide (st = .active))).length] s.counters.aborts } := by
  refine foldl_abortLane_counters reason _ (allLanes_nodup.filter _) s fun l mem => ?_
  have carries := (List.mem_filter.mp mem).2
  unfold laneOf at carries
  cases lane : laneAt s l with
  | none => simp [lane] at carries
  | some ln => exact ⟨ln, rfl, by simpa [lane] using (by simpa [lane] using carries : ln.tag = tag ∧ ln.state = .active).2⟩

/-! ### The cut of a request (R50, R51) -/

/-- What a cancel that is not pending leaves of requests, lanes and counters before the request is judged: the entry gone,
the record as given, lanes turned one by one. -/
structure Cut (r z : Request) (g : Lane → Lane) (s w : State) : Prop where
  queue : w.req.queue = s.req.queue.filter fun e => e.age ≠ r.age
  record : findAge s r.age = some r → findAge w r.age = some z
  line : w.req.line = s.req.line
  notices : w.notices = s.notices
  lanes : ∀ l, laneAt w l = (laneAt s l).map g
  held : held w = held s
  running : w.adm.passRunning = s.adm.passRunning
  wanted : entryOf s r.age ≠ none → w.adm.passWanted = true

/-- A record cut with an outcome: its tally closed, the part of its entry finished, the outcome brought in. -/
def Request.cutWith (entry : Option QueueEntry) (o : ReqOutcome) (r : Request) : Request :=
  { r with
    partsFinished := if entry = none then r.partsFinished else r.partsFinished + 1
    outcome := some (bringIn r.outcome o)
    tally := r.tally.map fun y => { y with closed := true } }

/-- Entry dropped, ARMED lanes released, outcome brought in, of a request with its tally closed. -/
theorem findAge_cutWith {r : Request} {s : State} {o release : ReqOutcome} (closed : findAge s r.age = some r.closed) :
    findAge (bringOutcome r.age o (releaseArmed r.tag release (dropEntryTriggering r.age o s))) r.age =
      some (r.cutWith (entryOf s r.age) o) := by
  have same : findAge (releaseArmed r.tag release (dropEntryTriggering r.age o s)) r.age =
      findAge (dropEntryTriggering r.age o s) r.age := findAge_congr (by simp) _
  unfold bringOutcome
  rw [findAge_updateRequest (by intro; rfl), same, findAge_dropEntryTriggering, closed]
  by_cases entry : entryOf s r.age = none
  · simp [entry, Request.closed, Request.cutWith]
  · simp [entry, Request.closed, Request.cutWith, Request.withPartFinished, bringIn_same]

theorem cleanCancel_cut (force : Bool) (r : Request) (s : State) :
    Cut r { r.cutWith (entryOf s r.age) .cancelled with cancelled := true }
      (Lane.cleared r.tag (if force then .aborted else .cancelled)) s (cleanCancel force r (closeTally r.age s)) := by
  have lanes : ∀ l, laneAt (cleanCancel force r (closeTally r.age s)) l =
      (laneAt s l).map (Lane.cleared r.tag (if force then .aborted else .cancelled)) := fun l =>
    (laneAt_releaseArmed r.tag _ (dropEntryTriggering r.age .cancelled (closeTally r.age s)) l).trans
      (by rw [laneAt_congr (s := s) (by simp)]; rfl)
  have entries : entryOf (closeTally r.age s) r.age = entryOf s r.age := entryOf_congr (by simp) _
  refine ⟨?_, fun found => ?_, by simp, by simp, lanes, ?_, by simp, fun entry => ?_⟩
  · simp [cleanCancel, cancelQueued, bringOutcome, dropEntryTriggering_queue]
  · have closed : findAge (closeTally r.age s) r.age = some r.closed := by simp [findAge_closeTally, found]
    unfold cleanCancel cancelQueued
    rw [findAge_updateRequest (by intro; rfl), findAge_cutWith closed, entries]
    simp [Request.cutWith]
  · simp only [held, initialising, restartWalks_of_map lanes (Lane.cleared_restarted _ _), cleanCancel_keeps, closeTally_keeps]
  · have wants := dropEntryTriggering_wants (s := closeTally r.age s) .cancelled (by rwa [entries])
    simpa [cleanCancel, cancelQueued, bringOutcome] using wants

theorem forcedCancel_cut (r : Request) (s : State) :
    Cut r (r.cutWith (entryOf s r.age) .aborted) (Lane.forced r.tag) s (forcedCancel r (closeTally r.age s)) := by
  have lanes : ∀ l, laneAt (forcedCancel r (closeTally r.age s)) l = (laneAt s l).map (Lane.forced r.tag) := fun l => by
    refine (laneAt_releaseArmed r.tag .aborted
      (dropEntryTriggering r.age .aborted (abortActive r.tag .cancelled (closeTally r.age s))) l).trans ?_
    rw [laneAt_congr (s := abortActive r.tag .cancelled (closeTally r.age s)) (by simp), laneAt_abortActive,
      laneAt_congr (s := s) (by simp), Option.map_map]
    congr 1
    funext ln
    by_cases own : ln.tag = r.tag <;> simp [Lane.forced, own, Lane.aborted_tag]
  have entries : entryOf (abortActive r.tag .cancelled (closeTally r.age s)) r.age = entryOf s r.age :=
    entryOf_congr (by simp) _
  refine ⟨?_, fun found => ?_, by simp, by simp, lanes, ?_, by simp, fun entry => ?_⟩
  · simp [forcedCancel, bringOutcome, dropEntryTriggering_queue]
  · have closed : findAge (abortActive r.tag .cancelled (closeTally r.age s)) r.age = some r.closed := by
      rw [findAge_congr (s := closeTally r.age s) (by simp)]
      simp [findAge_closeTally, found]
    unfold forcedCancel
    rw [findAge_cutWith closed, entries]
  · simp only [held, initialising, restartWalks_of_map lanes (Lane.forced_restarted _), forcedCancel_keeps, closeTally_keeps]
  · have wants := dropEntryTriggering_wants (s := abortActive r.tag .cancelled (closeTally r.age s)) .aborted
      (by rwa [entries])
    simpa [forcedCancel, bringOutcome] using wants

theorem forcedCancel_counters (r : Request) (s : State) : (forcedCancel r (closeTally r.age s)).counters =
    { s.counters with
      aborts := bump^[(allLanes.filter (laneOf s r.tag fun st => decide (st = .active))).length] s.counters.aborts } := by
  have lanes : (laneOf (closeTally r.age s) r.tag fun st => decide (st = .active)) =
      laneOf s r.tag fun st => decide (st = .active) := by
    funext l
    rw [laneOf, laneOf, laneAt_congr (s := s) (by simp)]
  have counted := abortActive_counters r.tag .cancelled (closeTally r.age s)
  rw [lanes] at counted
  simpa [forcedCancel, bringOutcome] using counted

/-! ### The request judged (R56, R57) -/

/-- What a cancel that is not pending leaves. -/
theorem cancelNow_cut {cut : Request → State → State} {r z : Request} {g : Lane → Lane} {s : State}
    (same : Cut r z g s (cut r (closeTally r.age s))) :
    (cancelNow r cut s).req.queue = s.req.queue.filter (fun e => e.age ≠ r.age)
      ∧ (∀ l, laneAt (cancelNow r cut s) l = (laneAt s l).map g)
      ∧ (cancelNow r cut s).counters = (cut r (closeTally r.age s)).counters
      ∧ held (cancelNow r cut s) = held s ∧ (cancelNow r cut s).adm.passRunning = s.adm.passRunning
      ∧ (entryOf s r.age ≠ none → (cancelNow r cut s).adm.passWanted = true) := by
  have lanes : ∀ l, laneAt (cancelNow r cut s) l = laneAt (cut r (closeTally r.age s)) l := laneAt_congr (by simp [cancelNow])
  refine ⟨?_, fun l => (lanes l).trans (same.lanes l), by simp [cancelNow], ?_, ?_, fun entry => ?_⟩
  · simpa [cancelNow] using same.queue
  · exact (held_congr (by simp [cancelNow]) (by simp [cancelNow]) (by simp [cancelNow]) (by simp [cancelNow])
      (by simp [cancelNow])).trans same.held
  · simpa [cancelNow] using same.running
  · simpa [cancelNow] using same.wanted entry

/-- A request with parts to finish keeps the record of its cut. -/
theorem cancelNow_stays {cut : Request → State → State} {r z : Request} {g : Lane → Lane} {s : State}
    (same : Cut r z g s (cut r (closeTally r.age s))) (found : findAge s r.age = some r) (live : z.withdrawn = false)
    (parts : z.partsFinished < z.partsUsed) : findAge (cancelNow r cut s) r.age = some z := by
  have told := same.record found
  have stays := judgeFinish_stays told live (.inl (Nat.ne_of_lt parts))
  unfold cancelNow
  rw [stays, findAge_congr (s := cut r (closeTally r.age s)) (by simp), told]

/-- A request with no part left has its record at the end of the line, from which the log takes what it has room for. -/
theorem cancelNow_reports {cut : Request → State → State} {r z : Request} {g : Lane → Lane} {s : State}
    (same : Cut r z g s (cut r (closeTally r.age s))) (found : findAge s r.age = some r) (age : z.age = r.age)
    (live : z.withdrawn = false) (parts : z.partsFinished = z.partsUsed) (cancel : z.cancelPending = .none)
    (withdrawal : z.withdrawalPending = none) (first : z.state ≠ .reporting)
    (distinct : (r.age :: s.req.line.map fun h => h.age).Nodup) :
    (cancelNow r cut s).notices.log ++ ((cancelNow r cut s).req.line.map fun h => h.record) =
        s.notices.log ++ (s.req.line.map fun h => h.record) ++ [composeRecord z]
      ∧ (findAge (cancelNow r cut s) r.age = none
          ∨ ∃ y, findAge (cancelNow r cut s) r.age = some y ∧ y.state = .reporting) := by
  have told := same.record found
  have enters := judgeFinish_enters told live parts cancel withdrawal first
  have told' : findAge (cut r (closeTally r.age s)) z.age = some z := by rw [age, told]
  have line : (linedUp z (cut r (closeTally r.age s))).req.line =
      s.req.line ++ [{ age := r.age, record := composeRecord z }] := by
    rw [linedUp_req told', same.line, age]
  have apart : ((linedUp z (cut r (closeTally r.age s))).req.line.map fun h => h.age).Nodup := by
    rw [line, List.map_append]
    exact (List.perm_append_comm.nodup_iff).mpr distinct
  obtain ⟨n, offers⟩ := offerRecords_offersFirst _ apart
  have log : (cancelNow r cut s).notices.log = (offerRecords (linedUp z (cut r (closeTally r.age s)))).notices.log := by
    simp [cancelNow, enters, enterReporting_eq]
  have req : (cancelNow r cut s).req = (offerRecords (linedUp z (cut r (closeTally r.age s)))).req := by
    simp [cancelNow, enters, enterReporting_eq]
  have table : ∀ a, findAge (cancelNow r cut s) a = findAge (offerRecords (linedUp z (cut r (closeTally r.age s)))) a :=
    findAge_congr (by rw [req])
  constructor
  · rw [log, req, offers.log, offers.line, linedUp_log, same.notices, line, List.append_assoc, ← List.map_append,
      List.take_append_drop]
    simp
  · rw [table]
    by_cases left : ∃ h ∈ (linedUp z (cut r (closeTally r.age s))).req.line.take n, h.age = r.age
    · obtain ⟨h, mem, own⟩ := left
      exact .inl (own ▸ offers.gone h mem)
    · rw [offers.stays r.age fun h mem own => left ⟨h, mem, own⟩, findAge_linedUp told', if_pos age.symm]
      exact .inr ⟨_, rfl, rfl⟩

/-! ### CANCEL taken (R49 to R52) -/

/-- The end of a transaction leaves the holds, which `finish` looks back at. -/
theorem finish_atRisingEdge (t : Transfer) (s v : State) : finish (atRisingEdge t s) v = finish s v := by
  simp only [finish, noteHolds, held_atRisingEdge]

/-- An accepted CANCEL answers OK, and the event ends. -/
theorem cancel_accepted {t : Transfer} {s v : State} {seq : Byte} {p : List Byte} (live : linkTakes s)
    (arrives : arrivalOf t = .command .cancel seq p) (taken : takeCancel p (atRisingEdge t s) = accepted v) :
    ∃ u, exec (.cancel t) s = .next u ∧ answers u .cancel seq .ok [] ∧ u = { finish s v with link := u.link } := by
  have row := takeKind_takes (effect := takeCancel) live arrives
  rw [taken] at row
  simp only [accepted, finish_atRisingEdge] at row
  exact ⟨_, row, answers_placeReply _ _ _ _ _, rfl⟩

/-- The end of the event changes nothing of requests and log while admission is held or a pass runs. -/
theorem finish_of_same_holds {s v : State} (same : held v = held s) (running : v.adm.passRunning = s.adm.passRunning)
    (barred : held s = true ∨ s.adm.passRunning = true) :
    (finish s v).req = v.req ∧ (finish s v).notices.log = v.notices.log := by
  have noPass : (v.adm.passWanted && !held v && !v.adm.passRunning) = false := by
    rw [same, running]
    rcases barred with h | h <;> simp [h]
  rw [finish_without_pass noPass same]
  simp

/-- States that agree but for the link. -/
theorem fields_of_link {s u : State} {link : LinkPort} (same : u = { s with link := link }) :
    u.req = s.req ∧ u.lanes = s.lanes ∧ u.counters = s.counters ∧ u.notices = s.notices := by
  subst same
  exact ⟨rfl, rfl, rfl, rfl⟩

/-- What a CANCEL that is not pending leaves, in a state from which the event comes to its end. -/
theorem cancel_cuts {t : Transfer} {s : State} {seq : Byte} {p : List Byte} {cut : Request → State → State} {r z : Request}
    {g : Lane → Lane} (live : linkTakes s) (arrives : arrivalOf t = .command .cancel seq p)
    (taken : takeCancel p (atRisingEdge t s) = accepted (cancelNow r cut (atRisingEdge t s)))
    (same : Cut r z g (atRisingEdge t s) (cut r (closeTally r.age (atRisingEdge t s)))) :
    ∃ u, exec (.cancel t) s = .next u ∧ answers u .cancel seq .ok []
      ∧ (∀ e ∈ u.req.queue, e.age ≠ r.age) ∧ (∀ l, laneAt u l = (laneAt s l).map g)
      ∧ u.counters = (cut r (closeTally r.age (atRisingEdge t s))).counters
      ∧ u = { finish s (cancelNow r cut (atRisingEdge t s)) with link := u.link }
      ∧ (held s = true ∨ s.adm.passRunning = true → u.req = (cancelNow r cut (atRisingEdge t s)).req
          ∧ u.notices.log = (cancelNow r cut (atRisingEdge t s)).notices.log)
      ∧ (cancelNow r cut (atRisingEdge t s)).req.queue = s.req.queue.filter (fun e => e.age ≠ r.age)
      ∧ (entryOf s r.age ≠ none → (cancelNow r cut (atRisingEdge t s)).adm.passWanted = true) := by
  obtain ⟨u, next, reply, ended⟩ := cancel_accepted live arrives taken
  obtain ⟨queue, lanes, counters, holds, running, wanted⟩ := cancelNow_cut same
  obtain ⟨req, ends, counted, notices⟩ := fields_of_link ended
  have gone : ∀ e ∈ u.req.queue, e.age ≠ r.age := by
    intro e mem
    rw [req] at mem
    obtain ⟨d, before, age, -⟩ := (finish_tidies _ _).queue e mem
    rw [queue] at before
    simpa [age] using (List.mem_filter.mp before).2
  have turned : ∀ l, laneAt u l = (laneAt s l).map g := by
    intro l
    rw [laneAt_congr ends, laneAt_finish, lanes, laneAt_congr (s := s) (by simp)]
  have counted : u.counters = (cut r (closeTally r.age (atRisingEdge t s))).counters := by
    rw [counted, ← counters]
    simp only [finish_keeps]
  have barred : held s = true ∨ s.adm.passRunning = true → u.req = (cancelNow r cut (atRisingEdge t s)).req
      ∧ u.notices.log = (cancelNow r cut (atRisingEdge t s)).notices.log := by
    intro barred
    obtain ⟨requests, log⟩ := finish_of_same_holds (holds.trans (held_atRisingEdge t s)) (by simpa using running) barred
    exact ⟨req.trans requests, by rw [notices, log]⟩
  have left : (cancelNow r cut (atRisingEdge t s)).req.queue = s.req.queue.filter fun e => e.age ≠ r.age := by
    rw [queue]
    simp
  rw [entryOf_congr (s := s) (by simp)] at wanted
  exact ⟨u, next, reply, gone, turned, counted, ended, barred, left, wanted⟩

/-- What CANCEL does with a request it does not refuse at once (R50 to R52). -/
theorem cancelRequest_clean {r : Request} {force : Bool} {s : State} (waits : isAdmitting s r.age = false)
    (fresh : anyLane s r.tag LaneState.begun = false) :
    cancelRequest r force s = accepted (cancelNow r (cleanCancel force) s) := by
  simp [cancelRequest, waits, fresh]

theorem cancelRequest_drives {r : Request} {force : Bool} {s : State} (waits : isAdmitting s r.age = false)
    (drives : anyLane s r.tag LaneState.begun = true) :
    cancelRequest r force s = if force then accepted (cancelNow r forcedCancel s) else refused s .tooLate := by
  simp [cancelRequest, waits, drives]

theorem cancelRequest_admitting {r : Request} {force : Bool} {s : State} (walks : isAdmitting s r.age = true) :
    cancelRequest r force s =
      if r.cancelPending ≠ .none ∨ force = true ∨ anyLane s r.tag LaneState.begun = false then
        accepted (pendCancel r force s)
      else refused s .tooLate := by
  simp [cancelRequest, walks]

/-- A pending CANCEL in the record of its request, with the tally closed (R52, R64). -/
theorem pendCancel_eq (r : Request) (force : Bool) (s : State) : pendCancel r force s =
    { s with req := { s.req with table := s.req.table.map fun q =>
      if q.age = r.age then
        { q with
          cancelPending := if force = true then .forced else if q.cancelPending = .none then .plain else q.cancelPending
          tally := q.tally.map fun y => { y with closed := true } }
      else q } } := by
  simp only [pendCancel, closeTally, updateRequest, List.map_map]
  congr 3
  funext q
  by_cases own : q.age = r.age <;> simp [own]

/-- Some lane of a tag has begun: it is not ARMED. -/
theorem anyLane_begun_iff (s : State) (tag : Nat) : anyLane s tag LaneState.begun = true ↔
    ∃ l ln, laneAt s l = some ln ∧ ln.tag = tag ∧ ln.state ≠ .armed := by
  have begun : ∀ st : LaneState, st.begun = true ↔ st ≠ .armed := fun st => by cases st <;> simp [LaneState.begun]
  simp only [anyLane_iff, begun]

/-- A refused CANCEL at rest changes nothing but the link. -/
theorem cancel_refused {t : Transfer} {s : State} {seq : Byte} {p : List Byte} {res : Result} (live : linkTakes s)
    (rest : settled s) (arrives : arrivalOf t = .command .cancel seq p)
    (refusal : takeCancel p (atRisingEdge t s) = refused (atRisingEdge t s) res) :
    ∃ u, exec (.cancel t) s = .next u ∧ answers u .cancel seq res [] ∧ u = { s with link := u.link } :=
  takeCommand_still (admits := anyPayload) (b := noBody) live rest arrives rfl refusal

/-- An accepted CANCEL that is pending, at rest. -/
theorem cancel_pends {t : Transfer} {s : State} {seq : Byte} {p : List Byte} {r : Request} {force : Bool}
    (live : linkTakes s) (rest : settled s) (arrives : arrivalOf t = .command .cancel seq p)
    (taken : takeCancel p (atRisingEdge t s) = accepted (pendCancel r force (atRisingEdge t s))) :
    ∃ u, exec (.cancel t) s = .next u ∧ answers u .cancel seq .ok []
      ∧ u = { s with
          link := u.link
          req := { s.req with table := s.req.table.map fun q =>
            if q.age = r.age then
              { q with
                cancelPending := if force = true then .forced else if q.cancelPending = .none then .plain else q.cancelPending
                tally := q.tally.map fun y => { y with closed := true } }
            else q } } := by
  obtain ⟨u, next, reply, ended⟩ := cancel_accepted live arrives taken
  have still : finish s (pendCancel r force (atRisingEdge t s)) = pendCancel r force (atRisingEdge t s) := by
    rw [finish_of_settled rest (by simp) (by simp) (by simp) (by simp) (by simp) (by simp) (by simp) (by simp) (by simp)]
    exact syncAttn_of_attnLaw (by simpa [attnLaw] using rest.2.2.2)
  rw [still, pendCancel_eq, atRisingEdge_eq] at ended
  exact ⟨u, next, reply, ended⟩

/-- Settles O29: CANCEL by the state of the entry and of the lanes, each of its two cuts by the rules of its steps. -/
theorem cancelEndsWhatHasNotDriven : Obligations.CancelEndsWhatHasNotDriven := by
  refine ⟨fun t s seq p r arrives live length flags found remains first => ?_, anyLane_begun_iff⟩
  have passed : takeCancel p (atRisingEdge t s) = cancelRequest r (decide (field p 2 1 = 1)) (atRisingEdge t s) :=
    takeCancel_passed length flags (by simpa [findTag] using found) remains first
  have entries : entryOf (atRisingEdge t s) r.age = entryOf s r.age := entryOf_congr (by simp) _
  have admitting : isAdmitting (atRisingEdge t s) r.age = isAdmitting s r.age := isAdmitting_congr (by simp) _
  have begun : anyLane (atRisingEdge t s) r.tag LaneState.begun = anyLane s r.tag LaneState.begun :=
    anyLane_of_map (g := id) (fun l => by rw [laneAt_congr (s := s) (by simp)]; simp) (fun _ => rfl) fun _ => rfl
  have same : (laneOf (atRisingEdge t s) r.tag fun st => decide (st = .active)) =
      laneOf s r.tag fun st => decide (st = .active) := by
    funext l
    rw [laneOf, laneOf, laneAt_congr (s := s) (by simp)]
  have records : findAge (atRisingEdge t s) r.age = findAge s r.age := findAge_congr (by simp) _
  refine ⟨fun waits fresh => ?_, fun waits drives plain rest => ?_, fun waits drives forced => ?_,
    fun walks rest drives plain none => ?_, fun walks rest pends => ?_⟩
  · rw [cancelRequest_clean (admitting.trans waits) (begun.trans fresh)] at passed
    have cut := cleanCancel_cut (decide (field p 2 1 = 1)) r (atRisingEdge t s)
    rw [entries] at cut
    obtain ⟨u, next, reply, gone, lanes, counters, ended, barred, queue, wanted⟩ := cancel_cuts live arrives passed cut
    refine ⟨u, next, reply, gone, fun l => ?_, counters.trans (by simp), ?_⟩
    · rw [lanes]
      refine congrArg (Option.map · _) (funext fun ln => ?_)
      simp only [Lane.cleared_eq, decide_eq_true_eq]
    · rintro own z rfl
      rw [← records] at own
      refine ⟨_, ended, barred, queue, wanted, cancelNow_stays cut own remains, fun parts cancel withdrawal distinct => ?_⟩
      have reports := cancelNow_reports cut own rfl remains parts cancel withdrawal first (by simpa using distinct)
      simp only [atRisingEdge_keeps] at reports
      exact reports
  · rw [cancelRequest_drives (admitting.trans waits) (begun.trans drives)] at passed
    exact cancel_refused live rest arrives (by simpa [plain] using passed)
  · rw [cancelRequest_drives (admitting.trans waits) (begun.trans drives)] at passed
    have cut := forcedCancel_cut r (atRisingEdge t s)
    rw [entries] at cut
    obtain ⟨u, next, reply, gone, lanes, counters, ended, barred, queue, wanted⟩ :=
      cancel_cuts live arrives (by simpa [forced] using passed) cut
    refine ⟨u, next, reply, gone, fun l => ?_, ?_, ?_⟩
    · rw [lanes]
      exact congrArg (Option.map · _) (funext (Lane.forced_eq r.tag))
    · rw [counters, forcedCancel_counters, same]
      simp only [atRisingEdge_keeps]
    · rintro own z rfl
      rw [← records] at own
      exact ⟨_, ended, barred, queue, wanted, cancelNow_stays cut own remains⟩
  · rw [cancelRequest_admitting (admitting.trans walks), if_neg (by simp [plain, none, begun, drives])] at passed
    exact cancel_refused live rest arrives passed
  · rw [cancelRequest_admitting (admitting.trans walks), if_pos (by simpa [begun] using pends)] at passed
    simpa using cancel_pends live rest arrives passed

end Sys2Proof.Machine
end

section
/-!
PROOF. Commands at rest that set one flag, and what STATUS shows (chapters 04, 06 and 07).
-/

namespace Sys2Proof.Machine

open Sys2Proof.Safety

/-! ### Effects that the end of an event does not look at -/

/-- A command at rest whose effect leaves alone what the end of an event looks at: that end does nothing. -/
theorem finish_untouched {s t : State} (rest : settled s) (notices : t.notices = s.notices) (adm : t.adm = s.adm)
    (lib : t.lib = s.lib) (temp : t.temp = s.temp) (rails : t.rails = s.rails) (px : t.px = s.px)
    (lanes : t.lanes = s.lanes) (mem : t.mem = s.mem) (settings : t.settings = s.settings)
    (timer : t.scan.timer = s.scan.timer) : finish s t = t := by
  rw [finish_of_settled rest adm lib temp rails px lanes mem settings timer]
  have attn : attnLaw t := by
    rw [attnLaw, notices]
    exact rest.2.2.2
  exact syncAttn_of_attnLaw attn

/-- A command taken at rest whose effect the end of the event leaves as it is: the reply is placed on that effect. -/
theorem takeKind_untouched {k : Kind} {t : Transfer} {effect : List Byte → State → Effect} {s v : State} {seq : Byte}
    {p : List Byte} {r : Result} {body : State → List Byte} (live : linkTakes s)
    (arrives : arrivalOf t = .command k seq p) (taken : effect p (atRisingEdge t s) = (v, r, body))
    (ends : finish (atRisingEdge t s) v = v) :
    ∃ u, takeKind k t effect s = .next u ∧ answers u k seq r (body v) ∧ u = { v with link := u.link } := by
  rw [takeKind_takes live arrives, taken]
  simp only [ends]
  exact ⟨_, rfl, answers_placeReply _ _ _ _ _, rfl⟩

/-! ### FREEZE, THAW and CLEAR_DISCARD (R73, R108) -/

/-- FREEZE and THAW set the freeze state and nothing else; with a payload they are refused (R108). -/
theorem takeFreeze_sets {k : Kind} {t : Transfer} (on : Bool) {s : State} {seq : Byte} {p : List Byte}
    (live : linkTakes s) (rest : settled s) (arrives : arrivalOf t = .command k seq p) :
    ∃ u, takeKind k t (takeFreeze on) s = .next u
      ∧ (p = [] → answers u k seq .ok [] ∧ u = { s with link := u.link, scan := { s.scan with freeze := on } })
      ∧ (p ≠ [] → answers u k seq .badLength [] ∧ u = { s with link := u.link }) := by
  cases p with
  | nil =>
    obtain ⟨u, next, reply, same⟩ := takeKind_untouched (effect := takeFreeze on) live arrives rfl
      (finish_untouched (settled_atRisingEdge t rest) rfl rfl rfl rfl rfl rfl rfl rfl rfl rfl)
    rw [atRisingEdge_eq] at same
    exact ⟨u, next, fun _ => ⟨reply, same⟩, fun some => absurd rfl some⟩
  | cons b rest' =>
    obtain ⟨u, next, reply, same⟩ := takeKind_untouched (effect := takeFreeze on) live arrives rfl
      (finish_self (settled_atRisingEdge t rest))
    rw [atRisingEdge_eq] at same
    exact ⟨u, next, fun none => (List.cons_ne_nil _ _ none).elim, fun _ => ⟨reply, same⟩⟩

/-- CLEAR_DISCARD answers the discard flag and clears it; with a payload it is refused (R73). -/
theorem takeClearDiscard_clears {k : Kind} {t : Transfer} {s : State} {seq : Byte} {p : List Byte}
    (live : linkTakes s) (rest : settled s) (arrives : arrivalOf t = .command k seq p) :
    ∃ u, takeKind k t takeClearDiscard s = .next u
      ∧ (p = [] → answers u k seq .ok [BitVec.ofNat 8 (bit s.inflow.discard)]
          ∧ u = { s with link := u.link, inflow := { s.inflow with discard := false } })
      ∧ (p ≠ [] → answers u k seq .badLength [] ∧ u = { s with link := u.link }) := by
  cases p with
  | nil =>
    obtain ⟨u, next, reply, same⟩ := takeKind_untouched (effect := takeClearDiscard) live arrives rfl
      (finish_untouched (settled_atRisingEdge t rest) rfl rfl rfl rfl rfl rfl rfl rfl rfl rfl)
    rw [atRisingEdge_eq] at same reply
    exact ⟨u, next, fun _ => ⟨reply, same⟩, fun some => absurd rfl some⟩
  | cons b rest' =>
    obtain ⟨u, next, reply, same⟩ := takeKind_untouched (effect := takeClearDiscard) live arrives rfl
      (finish_self (settled_atRisingEdge t rest))
    rw [atRisingEdge_eq] at same
    exact ⟨u, next, fun none => (List.cons_ne_nil _ _ none).elim, fun _ => ⟨reply, same⟩⟩

/-- Settles O31: each of the three commands is one block, taken at rest, whose effect the end of the event leaves as it is. -/
theorem freezeThawAndClearDiscardSetTheirFlags : Obligations.FreezeThawAndClearDiscardSetTheirFlags := by
  intro t s seq p live rest
  exact ⟨takeFreeze_sets true live rest, takeFreeze_sets false live rest, takeClearDiscard_clears live rest⟩

/-! ### STATUS (R74, R167) -/

/-- The part of the STATUS payload behind the lanes, byte by byte (R167). -/
def statusTail (s : State) : List Byte :=
  leBytes 1 s.req.queue.length ++ leBytes 1 s.req.table.length ++ leBytes 4 (fillLevel s)
    ++ leBytes 1 (bit s.inflow.discard) ++ leBytes 1 s.lib.state.code ++ leBytes 1 s.lib.reason.code
    ++ leBytes 2 s.lib.generation ++ leBytes 1 s.temp.state.code ++ readingStatus s.temp.reading
    ++ leBytes 1 (bandCode s.temp.band) ++ leBytes 1 s.temp.staleness ++ leBytes 1 s.rails.state.code
    ++ leBytes 1 (bit s.scan.freeze) ++ leBytes 1 s.copier.overlays.length
    ++ ((List.range 4).flatMap fun i => leBytes 1 (overlayStatus s i))
    ++ leBytes 1 s.copier.jobs.length ++ leBytes 1 (bit (initialising s))

theorem statusPayload_eq (s : State) :
    statusPayload s = (allLanes.flatMap fun l => laneStatus (laneAt s l)) ++ statusTail s := by
  simp only [statusPayload, statusTail, List.append_assoc]

theorem laneStatus_length (lane : Option Lane) : (laneStatus lane).length = 6 := by
  cases lane <;> simp [laneStatus]

theorem readingStatus_length (reading : Option Int) : (readingStatus reading).length = 2 := by
  cases reading <;> simp [readingStatus, leSigned]

/-- Blocks of one length behind one another: the block of an element stands at its place times that length. -/
theorem take_drop_flatMap {α β : Type} {f : α → List β} {n : Nat} (len : ∀ a, (f a).length = n) (l : List α) {i : Nat}
    (h : i < l.length) : ((l.flatMap f).drop (n * i)).take n = f l[i] := by
  induction l generalizing i with
  | nil => cases h
  | cons a l ih =>
    cases i with
    | zero => simp [← len a]
    | succ i =>
      have shift : n * (i + 1) = (f a).length + n * i := by rw [len a]; ring
      rw [List.flatMap_cons, shift, List.drop_append, List.drop_eq_nil_of_le (by omega)]
      simpa using ih (by simpa using h)

theorem lanesStatus_length (s : State) : (allLanes.flatMap fun l => laneStatus (laneAt s l)).length = 96 := by
  simp [List.length_flatMap, laneStatus_length, allLanes]

theorem statusTail_length (s : State) : (statusTail s).length = 25 := by
  simp [statusTail, readingStatus_length]

theorem statusPayload_length (s : State) : (statusPayload s).length = 121 := by
  rw [statusPayload_eq, List.length_append, lanesStatus_length, statusTail_length]

/-- The six bytes of a lane stand at six times its number. -/
theorem statusPayload_lane (s : State) (l : LaneId) :
    ((statusPayload s).drop (6 * l.val)).take 6 = laneStatus (laneAt s l) := by
  have len := lanesStatus_length s
  have block := take_drop_flatMap (fun l => laneStatus_length (laneAt s l)) allLanes (i := l.val) (by simp [allLanes])
  rw [statusPayload_eq, List.drop_append_of_le_length (by omega), List.take_append_of_le_length (by simp [len]; omega), block]
  simp [allLanes]

/-- Behind the lanes, the payload is its tail. -/
theorem statusPayload_getElem? (s : State) {i : Nat} (h : 96 ≤ i) : (statusPayload s)[i]? = (statusTail s)[i - 96]? := by
  rw [statusPayload_eq, List.getElem?_append_right (by rw [lanesStatus_length]; exact h), lanesStatus_length]

/-- The one-byte fields of STATUS, each with its offset (R167). -/
def statusFields (s : State) : List (Nat × Nat) :=
  [(96, s.req.queue.length), (97, s.req.table.length), (102, bit s.inflow.discard), (103, s.lib.state.code),
    (104, s.lib.reason.code), (107, s.temp.state.code), (110, bandCode s.temp.band), (111, s.temp.staleness),
    (112, s.rails.state.code), (113, bit s.scan.freeze), (114, s.copier.overlays.length), (119, s.copier.jobs.length),
    (120, if s.px.walk = none then 0 else 1)]

theorem bit_initialising (s : State) : bit (initialising s) = if s.px.walk = none then 0 else 1 := by
  cases walk : s.px.walk <;> simp [bit, initialising, walk]

theorem statusPayload_fields (s : State) :
    ∀ e ∈ statusFields s, (statusPayload s)[e.1]? = some (BitVec.ofNat 8 e.2) := by
  obtain ⟨low, high, reading⟩ := List.length_eq_two.mp (readingStatus_length s.temp.reading)
  simp [statusFields, statusPayload_getElem?, statusTail, reading, leBytes, List.range_succ, bit_initialising]

/-- The four overlay bytes, bottom first (R167). -/
theorem statusPayload_overlay (s : State) (i : Fin 4) :
    (statusPayload s)[115 + i.val]? = some (BitVec.ofNat 8 (overlayStatus s i.val)) := by
  obtain ⟨low, high, reading⟩ := List.length_eq_two.mp (readingStatus_length s.temp.reading)
  fin_cases i <;>
    simp [statusPayload_getElem?, statusTail, reading, leBytes, List.range_succ]

/-- The fields of more than one byte: fill level, generation and reading (R167). -/
theorem statusPayload_words (s : State) :
    ((statusPayload s).drop 98).take 4 = leBytes 4 (fillLevel s)
      ∧ ((statusPayload s).drop 105).take 2 = leBytes 2 s.lib.generation
      ∧ ((statusPayload s).drop 108).take 2 = readingStatus s.temp.reading := by
  obtain ⟨low, high, reading⟩ := List.length_eq_two.mp (readingStatus_length s.temp.reading)
  have behind (i : Nat) : (statusPayload s).drop (96 + i) = (statusTail s).drop i := by
    rw [statusPayload_eq, ← lanesStatus_length s, List.drop_length_add_append]
  rw [behind 2, behind 9, behind 12]
  simp [statusTail, reading, leBytes]

/-- A STATUS with its reply in the slot: auto-clear clears the flag and nothing else (R74). -/
theorem autoClear_of_ok {s : State} {reply : Reply} (slot : s.link.slot = some reply) (ok : reply.result = .ok) :
    autoClear s = { s with inflow := { s.inflow with discard := s.inflow.discard && !s.settings.autoClear } } := by
  unfold autoClear
  cases auto : s.settings.autoClear <;> simp [slot, ok]

theorem autoClear_of_refused {s : State} {reply : Reply} (slot : s.link.slot = some reply) (no : reply.result ≠ .ok) :
    autoClear s = s := by
  unfold autoClear
  simp [slot, no]

/-- The effect of STATUS: it answers the payload, and refuses a payload of its own (R167). -/
theorem takeStatus_nil (s : State) : takeStatus [] s = (s, .ok, statusPayload) := rfl

theorem takeStatus_cons (b : Byte) (p : List Byte) (s : State) : takeStatus (b :: p) s = refused s .badLength := rfl

/-- The payload shows nothing of the link. -/
theorem statusPayload_atRisingEdge (t : Transfer) (s : State) : statusPayload (atRisingEdge t s) = statusPayload s := by
  rw [atRisingEdge_eq]
  rfl

/-- An accepted STATUS: the payload of the state it finds, and the flag cleared behind it with auto-clear (R74, R167). -/
theorem status_answers {t : Transfer} {s : State} {seq : Byte} (arrives : arrivalOf t = .command .status seq [])
    (live : linkTakes s) (rest : settled s) :
    ∃ u reply, exec (.status t) s = .next u ∧ u.link.slot = some reply ∧ reply.kind = Kind.status.code ∧ reply.seq = seq
      ∧ reply.result = .ok ∧ reply.payload = statusPayload s ∧ reply.trailer.discard = s.inflow.discard
      ∧ u = { s with
          link := u.link
          inflow := { s.inflow with discard := s.inflow.discard && !s.settings.autoClear } } := by
  have row := takeCommand_takes (effect := takeStatus) (after := autoClear) live arrives (admits := anyPayload) rfl
  rw [takeStatus_nil] at row
  simp only [finish_self (settled_atRisingEdge t rest), statusPayload_atRisingEdge] at row
  rw [autoClear_of_ok rfl rfl, atRisingEdge_eq] at row
  exact ⟨_, _, row, rfl, rfl, rfl, rfl, rfl, rfl, rfl⟩

/-- A refused STATUS changes nothing but the link (R74, R161). -/
theorem status_refuses {t : Transfer} {s : State} {seq : Byte} {p : List Byte}
    (arrives : arrivalOf t = .command .status seq p) (live : linkTakes s) (rest : settled s) (some : p ≠ []) :
    ∃ u, exec (.status t) s = .next u ∧ answers u .status seq .badLength [] ∧ u = { s with link := u.link } := by
  have row := takeCommand_takes (effect := takeStatus) (after := autoClear) live arrives (admits := anyPayload) rfl
  obtain ⟨b, tail, rfl⟩ := List.exists_cons_of_ne_nil some
  rw [takeStatus_cons] at row
  simp only [refused, finish_self (settled_atRisingEdge t rest)] at row
  rw [autoClear_of_refused rfl (by simp), atRisingEdge_eq] at row
  exact ⟨_, row, answers_placeReply _ _ _ _ _, rfl⟩

/-- Settles O10: the payload is its lanes and its tail, each field at its offset; composing it changes nothing, and auto-clear
comes after. -/
theorem statusShowsThePart : Obligations.StatusShowsThePart := by
  intro t s seq p arrives live rest
  refine ⟨?_, status_refuses arrives live rest⟩
  rintro rfl
  obtain ⟨u, reply, next, slot, kind, echo, ok, payload, flag, same⟩ := status_answers arrives live rest
  obtain ⟨fill, generation, reading⟩ := statusPayload_words s
  refine ⟨u, reply, next, slot, kind, echo, ok, ?_, ?_, ?_, ?_, ?_, ?_, ?_, flag, same⟩ <;> rw [payload]
  · exact statusPayload_length s
  · intro l
    rw [statusPayload_lane s l]
    cases laneAt s l with
    | none => rfl
    | some ln => rfl
  · exact fun offset value shown => statusPayload_fields s (offset, value) shown
  · intro i
    rw [statusPayload_overlay s i, overlayStatus]
    cases overlay : s.copier.overlays[i.val]? with
    | none => rfl
    | some o => cases capturing : o.capturing <;> simp [capturing]
  · exact fill
  · exact generation
  · rw [reading]
    cases s.temp.reading <;> rfl

end Sys2Proof.Machine
end

section
/-!
PROOF. What commands leave of the staging bytes, the Inflow Unit and the overlay stack (chapters 04 and 05).
-/

namespace Sys2Proof.Machine

open Sys2Proof.Safety

/-! ### Commands that leave staging bytes, inflow and overlays -/

/-- What the staging bytes are read off: the bytes written, and the epoch of the bytes not written (R61). -/
abbrev State.staging (s : State) : List Host.Cell × Nat := (s.pool.bytes, s.mem.epoch)

/-- The staging bytes, the Inflow Unit and the overlay stack: what a command that is none of theirs leaves alone. -/
abbrev State.images (s : State) : (List Host.Cell × Nat) × Inflow × List Overlay := (s.staging, s.inflow, s.copier.overlays)

/-- A command row leaves whatever of these three its effect and the rule after its reply leave. -/
theorem takeCommand_images {α : Type} (look : (List Host.Cell × Nat) × Inflow × List Overlay → α) {k : Kind} {t : Transfer}
    {admits : List Byte → Bool} {effect : List Byte → State → Effect} {after : State → State} {s u : State}
    (h : takeCommand k t admits effect after s = .next u)
    (taken : ∀ p v, look (effect p v).1.images = look v.images)
    (later : ∀ v, look (after v).images = look v.images) : look u.images = look s.images :=
  takeCommand_frame (fun v => look v.images) h (by simp [State.images, State.staging])
    (fun p v => by simpa [State.images, State.staging] using taken p v) (by simp [State.images, State.staging]) later

theorem takeKind_images {α : Type} (look : (List Host.Cell × Nat) × Inflow × List Overlay → α) {k : Kind} {t : Transfer}
    {effect : List Byte → State → Effect} {s u : State} (h : takeKind k t effect s = .next u)
    (taken : ∀ p v, look (effect p v).1.images = look v.images) : look u.images = look s.images :=
  takeCommand_images look h taken fun _ => rfl

theorem takeRails_images (p : List Byte) (s : State) : (takeRails p s).1.images = s.images := by
  unfold takeRails railsOffEffect clearFaultEffect; (repeat' split) <;> simp

theorem takeCancel_images (p : List Byte) (s : State) : (takeCancel p s).1.images = s.images := by
  unfold takeCancel cancelRequest; (repeat' split) <;> simp [refused, accepted]

/-- A command that is none of the three units' own leaves all three. -/
theorem exec_images {c : Instr} {s u : State} (h : exec c s = .next u) (staging : writesStaging c = false)
    (inflow : writesInflow c = false) (overlays : writesOverlays c = false) : u.images = s.images := by
  cases c with
  | powerOn | resetPin | inflowChunkWriteEnd | copierJobEnd | burstEnd _ _ => cases staging
  | status _ | configure _ | restart _ | pixels _ | clearDiscard _ => cases inflow
  | overlayPush _ | overlayPop _ | overlaySwap _ => cases overlays
  | ident t => exact takeKind_images id h fun p v => by unfold takeIdent; split <;> rfl
  | countersRead t => exact takeCommand_images id h (fun p v => by unfold takeCounters; split <;> rfl) fun _ => rfl
  | countersReadAndClear t =>
    exact takeCommand_images id h (fun p v => by unfold takeCounters; split <;> rfl) fun v => by simp
  | noticeSet t => exact takeKind_images id h fun p v => by unfold takeNoticeSet; split <;> rfl
  | noticeTake t => exact takeKind_images id h fun p v => by unfold takeNoticeTake; split <;> simp [refused]
  | readLog t => exact takeKind_images id h fun p v => by unfold takeReadLog; split <;> simp [refused]
  | libBegin t => exact takeKind_images id h fun p v => by unfold takeLibBegin; split <;> simp [refused]
  | libData t => exact takeKind_images id h fun p v => by unfold takeLibData; (repeat' split) <;> simp [refused]
  | libCommit t => exact takeKind_images id h fun p v => by unfold takeLibCommit; split <;> simp [refused, accepted]
  | libAbandon t => exact takeKind_images id h fun p v => by unfold takeLibAbandon; split <;> simp [refused, accepted]
  | temp t => exact takeKind_images id h fun p v => by unfold takeTemp; split <;> simp [refused]
  | railsOff t => exact takeCommand_images id h takeRails_images fun _ => rfl
  | railsClearFault t => exact takeCommand_images id h takeRails_images fun _ => rfl
  | postUpdate t =>
    exact takeKind_images id h fun p v => by unfold takePostUpdate; (repeat' split) <;> simp [refused, accepted]
  | cancel t => exact takeKind_images id h takeCancel_images
  | postCopy t => exact takeKind_images id h fun p v => by unfold takePostCopy; (repeat' split) <;> simp [refused, accepted]
  | freeze t => exact takeKind_images id h fun p v => by unfold takeFreeze; split <;> rfl
  | thaw t => exact takeKind_images id h fun p v => by unfold takeFreeze; split <;> rfl
  | assume t => exact takeKind_images id h fun p v => by unfold takeAssume; split <;> simp [refused, accepted]
  | transactionStart => simp only [exec, execTransactionStart] at h; split at h <;> cases h; simp
  | poll t => simp only [exec, execPoll] at h; split at h <;> cases h; simp
  | linkFailure t =>
    simp only [exec, execLinkFailure, failLink] at h
    split at h <;> cases h
    split <;> simp
  | initialisationWalkEnd => simp only [exec, execInitialisationWalkEnd] at h; split at h <;> cases h; simp
  | assumeWalkEnd => simp only [exec, execAssumeWalkEnd] at h; split at h <;> cases h; simp
  | libChunkWriteEnd => simp only [exec, execLibChunkWriteEnd] at h; split at h <;> cases h; simp
  | commitWalkEnd => simp only [exec, execCommitWalkEnd] at h; split at h <;> cases h; simp
  | admissionWalkEnd => simp only [exec, execAdmissionWalkEnd] at h; split at h <;> cases h; simp
  | frameStart => simp only [exec, execFrameStart] at h; (repeat' split at h) <;> cases h; simp
  | frameCompletion => simp only [exec, execFrameCompletion] at h; split at h <;> cases h; simp
  | retirementWalkEnd l => simp only [exec, execRetirementWalkEnd] at h; (repeat' split at h) <;> cases h; simp
  | powerGoodSample high => cases h; simp
  | riseTimeout => simp only [exec, execRiseTimeout] at h; split at h <;> cases h; simp
  | idleTimerExpiry => simp only [exec, execIdleTimerExpiry] at h; split at h <;> cases h; simp
  | fallTimeEnd => simp only [exec, execFallTimeEnd] at h; split at h <;> cases h; simp
  | intervalTimerExpiry => cases h; simp
  | refreshRequest ready => cases h; simp
  | refreshEnd ready => simp only [exec, execRefreshEnd] at h; split at h <;> cases h; simp
  | calibrationEnd => simp only [exec, execCalibrationEnd] at h; split at h <;> cases h; simp
  | resetRelease => simp only [exec, execResetRelease] at h; split at h <;> cases h; simp

/-! ### Commands that write one or two of the three -/

theorem takePixels_staging (p : List Byte) (s : State) : (takePixels p s).1.staging = s.staging := by
  unfold takePixels; dsimp only; (repeat' split) <;> simp [refused]

theorem takePixels_overlays (p : List Byte) (s : State) : (takePixels p s).1.copier.overlays = s.copier.overlays := by
  unfold takePixels; dsimp only; (repeat' split) <;> simp [refused]

theorem takeOverlayPush_staging (p : List Byte) (s : State) :
    (takeOverlayPush p s).1.staging = s.staging ∧ (takeOverlayPush p s).1.inflow = s.inflow := by
  unfold takeOverlayPush; split <;> simp [refused]

theorem takeOverlayPop_staging (p : List Byte) (s : State) :
    (takeOverlayPop p s).1.staging = s.staging ∧ (takeOverlayPop p s).1.inflow = s.inflow := by
  unfold takeOverlayPop; (repeat' split) <;> simp [refused]

theorem takeOverlaySwap_staging (p : List Byte) (s : State) :
    (takeOverlaySwap p s).1.staging = s.staging ∧ (takeOverlaySwap p s).1.inflow = s.inflow := by
  unfold takeOverlaySwap; (repeat' split) <;> simp [refused]

theorem takeConfigure_staging (p : List Byte) (s : State) : (takeConfigure p s).1.staging = s.staging := by
  unfold takeConfigure; split <;> simp [refused, accepted]

theorem takeRestart_staging (p : List Byte) (s : State) : (takeRestart p s).1.staging = s.staging := by
  unfold takeRestart; split <;> simp [refused, accepted]

/-- The commands outside the staging memory's own: `exec_images`, or one of the inflow and overlay commands. -/
theorem exec_staging {c : Instr} {s u : State} (h : exec c s = .next u) (quiet : writesStaging c = false) :
    u.staging = s.staging := by
  by_cases other : writesInflow c = false ∧ writesOverlays c = false
  · exact congrArg (·.1) (exec_images h quiet other.1 other.2)
  cases c with
  | powerOn | resetPin | inflowChunkWriteEnd | copierJobEnd | burstEnd _ _ => cases quiet
  | status t => exact takeCommand_images (·.1) h (fun p v => by unfold takeStatus; split <;> rfl) fun v => by simp
  | configure t => exact takeKind_images (·.1) h takeConfigure_staging
  | restart t => exact takeKind_images (·.1) h takeRestart_staging
  | pixels t => exact takeKind_images (·.1) h takePixels_staging
  | clearDiscard t => exact takeKind_images (·.1) h fun p v => by unfold takeClearDiscard; split <;> rfl
  | overlayPush t => exact takeKind_images (·.1) h fun p v => (takeOverlayPush_staging p v).1
  | overlayPop t => exact takeKind_images (·.1) h fun p v => (takeOverlayPop_staging p v).1
  | overlaySwap t => exact takeKind_images (·.1) h fun p v => (takeOverlaySwap_staging p v).1
  | _ => exact absurd ⟨rfl, rfl⟩ other

/-- The commands outside the Inflow Unit's own: `exec_images`, an overlay command, or the end of a job. -/
theorem exec_inflow {c : Instr} {s u : State} (h : exec c s = .next u) (quiet : writesInflow c = false) :
    u.inflow = s.inflow := by
  by_cases other : writesStaging c = false ∧ writesOverlays c = false
  · exact congrArg (·.2.1) (exec_images h other.1 quiet other.2)
  cases c with
  | powerOn | resetPin | configure _ | restart _ | inflowChunkWriteEnd | burstEnd _ _ => cases quiet
  | copierJobEnd => simp only [exec, execCopierJobEnd] at h; split at h <;> cases h; simp
  | overlayPush t => exact takeKind_images (·.2.1) h fun p v => (takeOverlayPush_staging p v).2
  | overlayPop t => exact takeKind_images (·.2.1) h fun p v => (takeOverlayPop_staging p v).2
  | overlaySwap t => exact takeKind_images (·.2.1) h fun p v => (takeOverlaySwap_staging p v).2
  | _ => exact absurd ⟨rfl, rfl⟩ other

/-- The commands outside the overlay stack's own: `exec_images`, an inflow command, or a burst. -/
theorem exec_overlays {c : Instr} {s u : State} (h : exec c s = .next u) (quiet : writesOverlays c = false) :
    u.copier.overlays = s.copier.overlays := by
  by_cases other : writesStaging c = false ∧ writesInflow c = false
  · exact congrArg (·.2.2) (exec_images h other.1 other.2 quiet)
  cases c with
  | powerOn | resetPin | configure _ | restart _ | copierJobEnd => cases quiet
  | status t => exact takeCommand_images (·.2.2) h (fun p v => by unfold takeStatus; split <;> rfl) fun v => by simp
  | pixels t => exact takeKind_images (·.2.2) h takePixels_overlays
  | clearDiscard t => exact takeKind_images (·.2.2) h fun p v => by unfold takeClearDiscard; split <;> rfl
  | inflowChunkWriteEnd => simp only [exec, execInflowChunkWriteEnd] at h; split at h <;> cases h; simp
  | burstEnd units ready =>
    simp only [exec, execBurstEnd] at h
    split at h <;> cases h
    split <;> simp
  | _ => exact absurd ⟨rfl, rfl⟩ other

/-- Settles O46: a staging byte is read off the bytes written and the epoch. -/
theorem stagingFrame : Obligations.StagingFrame := by
  intro c s u h quiet
  have same := exec_staging h quiet
  exact stagingByte_congr (congrArg (·.1) same) (congrArg (·.2) same)

/-- Settles O49: the two units change at their own commands, which `exec_inflow` and `exec_overlays` split off. -/
theorem inflowAndOverlayFrame : Obligations.InflowAndOverlayFrame :=
  fun _ _ _ h => ⟨exec_inflow h, exec_overlays h⟩

end Sys2Proof.Machine
end

section
/-!
PROOF. Every command keeps the staging memory and the pixel table in canonical form (chapters 01 and 04, logs 8 and 9).
-/

namespace Sys2Proof.Machine

open Sys2Proof.Safety

/-! ### The pixel table -/

section
variable {s : State} (wf : pixelsWf s.px.pixels = true)
include wf

theorem pixelsWf_advanceRetire (l : LaneId) (n : Nat) : pixelsWf (advanceRetire l n s).px.pixels = true := by
  unfold advanceRetire
  split
  · split
    · simpa using mapPixels_wf _ wf
    · exact wf
    · exact wf
  · exact wf

theorem pixelsWf_advancePixelWalk (n : Nat) : pixelsWf (advancePixelWalk n s).px.pixels = true := by
  unfold advancePixelWalk
  split
  · exact wf
  · exact wf
  · exact pixelsWf_assumePixels _ _ _ _ wf

theorem pixelsWf_serveBurst (who : Requester) (units : Nat) : pixelsWf (serveBurst who units s).px.pixels = true := by
  cases who with
  | retirement l => exact pixelsWf_advanceRetire wf l _
  | initialisation => exact pixelsWf_advancePixelWalk wf _
  | scanner | admission | inflow | copier => simpa [serveBurst] using wf
  | library => exact wf

theorem pixelsWf_applyResult (r : Request) (e : QueueEntry) (w : AdmissionWalk) (result : WalkResult) :
    pixelsWf (applyResult r e w result s).px.pixels = true := by
  have admitted : ∀ l mode drive remainder, pixelsWf (admitWalk l r e w mode drive remainder s).px.pixels = true := by
    intro l mode drive remainder
    have owned := pixelsWf_ownPixels l r.rect drive
      (s := setLane l (some (armedLane s.lib r e w mode drive.length)) s) (by simpa using wf)
    simpa [admitWalk] using owned
  cases result with
  | stays => exact wf
  | staysUpgraded reason mode => exact wf
  | admits mode reason drive remainder =>
    simp only [applyResult]
    split
    · exact wf
    · cases reason with
      | none => exact admitted _ _ _ _
      | some why => simpa using admitted _ mode drive remainder
  | resolves outcome reason => cases reason <;> exact wf

theorem pixelsWf_endWalk (w : AdmissionWalk) : pixelsWf (endWalk w s).px.pixels = true := by
  unfold endWalk
  split
  · simpa [endAdmission, settleWalk] using pixelsWf_applyResult (s := dropWalk s) (by simpa using wf) _ _ _ _
  · simpa using wf

theorem pixelsWf_takeConfigure (p : List Byte) : pixelsWf (takeConfigure p s).1.px.pixels = true := by
  unfold takeConfigure applyGeometry
  split
  · exact wf
  · simp only [accepted]
    split
    · simpa using wf
    · simp [newTable, pixelsWf, storeWf]

/-- Every command keeps the pixel table in canonical form: those that write records by the lemmas above, the rest by
`exec_px`. -/
theorem pixelsWf_exec {c : Instr} {u : State} (h : exec c s = .next u) : pixelsWf u.px.pixels = true := by
  by_cases quiet : writesPixels c = false
  · rw [exec_px h quiet]
    exact wf
  · cases c with
    | powerOn | resetPin => cases h; rfl
    | configure t =>
      rcases takeCommand_next h with rfl | ⟨seq, p, -, rfl⟩
      · simpa using wf
      · simpa using pixelsWf_takeConfigure (s := atRisingEdge t s) (by simpa using wf) p
    | admissionWalkEnd =>
      simp only [exec, execAdmissionWalkEnd] at h
      split at h <;> cases h
      simpa using pixelsWf_endWalk (s := lastBursts .admission s) (by simpa using wf) _
    | assumeWalkEnd =>
      simp only [exec, execAssumeWalkEnd] at h
      split at h <;> cases h
      simpa [endPixelWalk] using pixelsWf_advancePixelWalk (s := lastBursts .initialisation s) (by simpa using wf) _
    | retirementWalkEnd l =>
      simp only [exec, execRetirementWalkEnd] at h
      (repeat' split at h) <;> cases h
      simpa [endRetirement, freeTheLane] using
        pixelsWf_advanceRetire (s := lastBursts (.retirement l) s) (by simpa using wf) l _
    | burstEnd units ready =>
      simp only [exec, execBurstEnd] at h
      split at h <;> cases h
      have waited : pixelsWf (becomeReady ready s).px.pixels = true := by simpa using wf
      simp only [finish_keeps, endGrant_keeps]
      split
      · rw [(finishBurst_moves _ _ _).1]; exact pixelsWf_serveBurst waited _ units
      · exact waited
    | _ => exact absurd rfl quiet

end

/-! ### The staging memory -/

section
variable {s : State} (wf : Memory.wf s.pool.bytes = true)
include wf

theorem memoryWf_serveBurst (who : Requester) (units : Nat) : Memory.wf (serveBurst who units s).pool.bytes = true := by
  cases who with
  | inflow => exact advanceChunk_wf _ wf
  | copier => exact advanceCopy_wf _ wf
  | scanner | retirement _ | admission | initialisation => simpa [serveBurst] using wf
  | library => exact wf

/-- What of the end of a chunk write touches staging bytes is the rest of the write (R69). -/
theorem memoryWf_endChunkWrite (c : Chunk) : Memory.wf (endChunkWrite c s).pool.bytes = true := by
  simpa [endChunkWrite, popChunk] using advanceChunk_wf c.data.length wf

/-- What of the end of a snapshot touches staging bytes is the rest of the copying (R122). -/
theorem memoryWf_endSnapshot (j : Job) : Memory.wf (endSnapshot j s).pool.bytes = true := by
  simpa [endSnapshot] using advanceCopy_wf j.rect.area wf

/-- Every command keeps the staging memory in canonical form: those that write bytes by the lemmas above, the rest by
`exec_staging`. -/
theorem memoryWf_exec {c : Instr} {u : State} (h : exec c s = .next u) : Memory.wf u.pool.bytes = true := by
  by_cases quiet : writesStaging c = false
  · have same : u.pool.bytes = s.pool.bytes := congrArg (·.1) (exec_staging h quiet)
    rw [same]
    exact wf
  · cases c with
    | powerOn | resetPin => cases h; rfl
    | inflowChunkWriteEnd =>
      simp only [exec, execInflowChunkWriteEnd] at h
      split at h <;> cases h
      simpa using memoryWf_endChunkWrite (s := lastBursts .inflow s) (by simpa using wf) _
    | copierJobEnd =>
      simp only [exec, execCopierJobEnd] at h
      split at h <;> cases h
      simpa using memoryWf_endSnapshot (s := lastBursts .copier s) (by simpa using wf) _
    | burstEnd units ready =>
      simp only [exec, execBurstEnd] at h
      split at h <;> cases h
      have waited : Memory.wf (becomeReady ready s).pool.bytes = true := by simpa using wf
      simp only [finish_keeps, endGrant_keeps]
      split
      · rw [(finishBurst_moves _ _ _).2.2.2.1]; exact memoryWf_serveBurst waited _ units
      · exact waited
    | _ => exact absurd rfl quiet

end

/-- Every command keeps both canonical forms. -/
theorem storeLaw_exec {c : Instr} {s u : State} (law : storeLaw s) (h : exec c s = .next u) : storeLaw u :=
  ⟨memoryWf_exec law.1 h, pixelsWf_exec law.2 h⟩

end Sys2Proof.Machine
end

section
/-!
PROOF. Jobs, pages and the free page list in the form in which every operation keeps them: `Stocked` (chapters 04 and 07).
-/

namespace Sys2Proof.Machine

open Sys2Proof.Safety

/-! ### What jobs and page lists are told by -/

/-- What of a request its copy job and its pages are told by (R60, R119). -/
structure Claim where
  age : Nat
  source : Source
  withdrawn : Bool
  reporting : Bool
  pages : Option (List Nat)
  rect : Rect
  mode : Mode

def Request.claim (r : Request) : Claim :=
  { age := r.age, source := r.source, withdrawn := r.withdrawn, reporting := decide (r.state = .reporting)
    pages := r.pages, rect := r.rect, mode := r.requestedMode }

theorem Request.claim_eq_iff {q r : Request} : q.claim = r.claim ↔ q.age = r.age ∧ q.source = r.source
    ∧ q.withdrawn = r.withdrawn ∧ (q.state = .reporting ↔ r.state = .reporting) ∧ q.pages = r.pages ∧ q.rect = r.rect
    ∧ q.requestedMode = r.requestedMode := by
  simp [claim]

/-- All that the laws of jobs and pages are read off: what leaves it as it is keeps them. -/
def State.stock (s : State) : Option Geometry × List Nat × Copier × Nat × List Reporting × List Claim :=
  (s.px.geometry, s.pool.free, s.copier, s.req.nextAge, s.req.line, s.req.table.map Request.claim)

theorem State.stock_eq_iff {s u : State} : u.stock = s.stock ↔ u.px.geometry = s.px.geometry ∧ u.pool.free = s.pool.free
    ∧ u.copier = s.copier ∧ u.req.nextAge = s.req.nextAge ∧ u.req.line = s.req.line
    ∧ u.req.table.map Request.claim = s.req.table.map Request.claim := by
  simp [stock]

/-! ### The law of jobs, with a job spared -/

/-- A request that a COPY job fills (R119, R124). -/
def Request.filledBy (j : Job) (r : Request) : Prop :=
  r.source = .copy ∧ r.withdrawn = false ∧ r.state ≠ .reporting ∧ r.pages = some j.pages
    ∧ r.rect.width = j.rect.width ∧ r.rect.height = j.rect.height ∧ (j.rounding = true ↔ r.requestedMode = .quick)

/-- What a job fills is there: its request, or its overlay entry unless it is RUNNING (R122, R124, R130). -/
def Job.placed (s : State) (j : Job) : Prop :=
  match j.purpose with
  | .copy age => ∃ r ∈ s.req.table, r.age = age ∧ r.filledBy j
  | .push | .swap => j.rounding = false ∧ (j.running = true ∨ ∃ o ∈ s.copier.overlays, o.capturing = some j.age)

/-- A job's position is one of its rectangle, with the left half of a byte kept at every other one (R121). -/
def Job.goesOn (j : Job) : Prop :=
  ∀ done half, j.state = .running done half → done ≤ j.rect.area ∧ (half.isSome = true ↔ done % 2 = 1)

/-- A snapshot for an overlay entry that is not on the stack yet: what a push and a swap do between their job and their entry
(R129, R133). -/
structure Spared (s : State) (j : Job) : Prop where
  there : j ∈ s.copier.jobs
  overlay : ∀ age, j.purpose ≠ .copy age
  exact : j.rounding = false
  free : ∀ o ∈ s.copier.overlays, o.capturing ≠ some j.age

/-- The law of jobs, where one job may be spared the entry it fills. -/
structure JobsFit (spared : Option Job) (s : State) : Prop where
  ages : s.copier.jobs.Pairwise fun a b => a.age < b.age
  alone : (s.copier.jobs.filter Job.running).length ≤ 1
  each : ∀ j ∈ s.copier.jobs, j.age < s.req.nextAge ∧ rectCheck s.px.geometry j.rect = none ∧ j.goesOn
  placed : ∀ j ∈ s.copier.jobs, spared = some j ∨ j.placed s
  distinct : s.copier.overlays.Pairwise fun a b => a.capturing = none ∨ a.capturing ≠ b.capturing
  captured : ∀ o ∈ s.copier.overlays, ∀ age, o.capturing = some age →
    ∃ j ∈ s.copier.jobs, j.age = age ∧ (∀ r, j.purpose ≠ .copy r) ∧ j.rect = o.rect ∧ j.pages = o.pages
  spares : ∀ j, spared = some j → Spared s j

/-- With no job spared, it is the law. -/
theorem jobLaw_iff (s : State) : jobLaw s ↔ JobsFit none s := by
  constructor
  · rintro ⟨ages, alone, each, distinct, captured⟩
    exact ⟨ages, alone, fun j mem => ⟨(each j mem).1, (each j mem).2.1, (each j mem).2.2.1⟩,
      fun j mem => .inr (each j mem).2.2.2, distinct, captured, fun j no => by cases no⟩
  · intro h
    exact ⟨h.ages, h.alone, fun j mem => ⟨(h.each j mem).1, (h.each j mem).2.1, (h.each j mem).2.2,
      (h.placed j mem).resolve_left (by simp)⟩, h.distinct, h.captured⟩

/-! ### The law, as operations keep it -/

/-- Which of the laws are asked for: pages are told by the jobs they are held for. -/
structure Stocks where
  rising : Prop
  jobs : Prop
  pages : Prop
  withPages : pages → jobs

/-- What the laws of jobs and pages rest on in the table: requests in the order of their creation, and a line of requests in
REPORTING (R37, R57). -/
structure TableFits (s : State) : Prop where
  ages : s.req.table.Pairwise fun a b => a.age < b.age
  bound : ∀ r ∈ s.req.table, r.age < s.req.nextAge
  line : ∀ p ∈ s.req.line, ∀ r ∈ s.req.table, r.age = p.age → r.state = .reporting
  lineBound : ∀ p ∈ s.req.line, p.age < s.req.nextAge

/-- Those of the laws that are asked for, as operations keep them. -/
structure Stocked (k : Stocks) (spared : Option Job) (s : State) : Prop where
  rising : k.rising → freePagesLaw s
  table : k.jobs → TableFits s
  jobs : k.jobs → JobsFit spared s
  pages : k.pages → pagesLaw s

/-- Requests and line answer to each other where the laws of ownership hold. -/
theorem tableFits_of_ownershipLaw {s : State} (own : ownershipLaw s) : TableFits s := by
  obtain ⟨-, requests, -, -, -, line, -⟩ := own
  refine ⟨requests.1, fun r live => (requests.2.2 r live).1, fun p there r live same => ?_, fun p there => ?_⟩
  · obtain ⟨q, live', own, reporting⟩ := line.2 p there
    rwa [request_eq_of_age requests live live' (same.trans own.symm)]
  · obtain ⟨q, live', own, -⟩ := line.2 p there
    exact own ▸ (requests.2.2 q live').1

/-! ### What leaves the stock alone -/

section
variable {k : Stocks} {spared : Option Job} {s u : State}

/-- A claim listed is that of a request listed. -/
theorem exists_claim (claims : u.req.table.map Request.claim = s.req.table.map Request.claim) {r : Request}
    (live : r ∈ s.req.table) : ∃ q ∈ u.req.table, q.claim = r.claim := by
  have there := List.mem_map_of_mem (f := Request.claim) live
  rw [← claims] at there
  exact List.mem_map.mp there

theorem Request.filledBy_of_claim {j : Job} {q r : Request} (same : q.claim = r.claim) (fills : r.filledBy j) :
    q.filledBy j := by
  obtain ⟨-, source, withdrawn, state, pages, rect, mode⟩ := claim_eq_iff.mp same
  unfold filledBy
  rw [source, withdrawn, ne_eq, state, pages, rect, mode]
  exact fills

/-- Jobs may leave, and so may what they fill where they leave with it. -/
theorem JobsFit.fewer (h : JobsFit spared s) (geometry : u.px.geometry = s.px.geometry)
    (nextAge : s.req.nextAge ≤ u.req.nextAge) {p : Job → Bool} (jobs : u.copier.jobs = s.copier.jobs.filter p)
    (distinct : u.copier.overlays.Pairwise fun a b => a.capturing = none ∨ a.capturing ≠ b.capturing)
    (was : ∀ o ∈ u.copier.overlays, ∀ age, o.capturing = some age →
      ∃ d ∈ s.copier.overlays, d.capturing = some age ∧ d.rect = o.rect ∧ d.pages = o.pages)
    (stays : ∀ o ∈ u.copier.overlays, ∀ j ∈ s.copier.jobs, o.capturing = some j.age → (∀ r, j.purpose ≠ .copy r) → p j = true)
    (entry : ∀ j ∈ s.copier.jobs, p j = true → ∀ o ∈ s.copier.overlays, o.capturing = some j.age →
      j.running = true ∨ ∃ d ∈ u.copier.overlays, d.capturing = some j.age)
    (filled : ∀ r ∈ s.req.table, ∀ j ∈ s.copier.jobs, p j = true → j.purpose = .copy r.age → r.filledBy j →
      ∃ q ∈ u.req.table, q.claim = r.claim)
    (spare : ∀ j, spared = some j → p j = true) : JobsFit spared u := by
  have mem : ∀ {j : Job}, j ∈ u.copier.jobs ↔ j ∈ s.copier.jobs ∧ p j = true := by
    intro j
    rw [jobs, List.mem_filter]
  refine ⟨by rw [jobs]; exact h.ages.filter _, ?_, fun j there => ?_, fun j there => ?_, distinct, fun o there age own => ?_,
    fun j same => ?_⟩
  · rw [jobs]
    exact (List.filter_sublist.filter _).length_le.trans h.alone
  · obtain ⟨age, rect, on⟩ := h.each j (mem.mp there).1
    exact ⟨Nat.lt_of_lt_of_le age nextAge, by rw [geometry]; exact rect, on⟩
  · obtain ⟨there, kept⟩ := mem.mp there
    refine (h.placed j there).imp_right fun place => ?_
    unfold Job.placed at place ⊢
    cases purpose : j.purpose with
    | copy age =>
      rw [purpose] at place
      obtain ⟨r, live, own, fills⟩ := place
      obtain ⟨q, live', same⟩ := filled r live j there kept (by rw [purpose, own]) fills
      exact ⟨q, live', (Request.claim_eq_iff.mp same).1.trans own, Request.filledBy_of_claim same fills⟩
    | push | swap =>
      rw [purpose] at place
      obtain ⟨exact', run | ⟨o, there', own⟩⟩ := place
      · exact ⟨exact', .inl run⟩
      · exact ⟨exact', entry j there kept o there' own⟩
  · obtain ⟨d, there', captures, rect, pages⟩ := was o there age own
    obtain ⟨j, listed, same, overlay, rect', pages'⟩ := h.captured d there' age captures
    exact ⟨j, mem.mpr ⟨listed, stays o there j listed (by rw [own, same]) overlay⟩, same, overlay, rect'.trans rect,
      pages'.trans pages⟩
  · obtain ⟨there, overlay, exact', free⟩ := h.spares j same
    refine ⟨mem.mpr ⟨there, spare j same⟩, overlay, exact', fun o there' own => ?_⟩
    obtain ⟨d, listed, captures, -⟩ := was o there' j.age own
    exact free d listed captures

/-- Requests may change as long as those that jobs fill keep their claims. -/
theorem JobsFit.tabled (h : JobsFit spared s) (geometry : u.px.geometry = s.px.geometry) (copier : u.copier = s.copier)
    (nextAge : s.req.nextAge ≤ u.req.nextAge)
    (filled : ∀ r ∈ s.req.table, ∀ j ∈ s.copier.jobs, j.purpose = .copy r.age → r.filledBy j →
      ∃ q ∈ u.req.table, q.claim = r.claim) : JobsFit spared u := by
  refine h.fewer geometry nextAge (p := fun _ => true) (by rw [copier, List.filter_true]) (by rw [copier]; exact h.distinct)
    (fun o there age own => ⟨o, by rwa [copier] at there, own, rfl, rfl⟩) (fun _ _ _ _ _ _ => rfl) ?_
    (fun r live j there _ => filled r live j there) fun _ _ => rfl
  rw [copier]
  exact fun j there _ o there' own => .inr ⟨o, there', own⟩

theorem flatMap_pages_eq (t : List Request) :
    (t.flatMap fun r => r.pages.getD []) = (t.map Request.claim).flatMap fun c => c.pages.getD [] := by
  rw [List.flatMap_map]
  rfl

theorem heldPages_congr (claims : u.req.table.map Request.claim = s.req.table.map Request.claim) (copier : u.copier = s.copier) :
    heldPages u = heldPages s := by
  rw [heldPages, heldPages, flatMap_pages_eq, flatMap_pages_eq, claims, copier]

theorem TableFits.same (h : TableFits s) (nextAge : s.req.nextAge ≤ u.req.nextAge) (line : u.req.line = s.req.line)
    (claims : u.req.table.map Request.claim = s.req.table.map Request.claim) : TableFits u := by
  have was : ∀ q ∈ u.req.table, ∃ r ∈ s.req.table, r.claim = q.claim := fun q live => exists_claim claims.symm live
  refine ⟨?_, fun q live => ?_, fun p there q live same => ?_, fun p there => ?_⟩
  · have ages : u.req.table.map (fun r => r.age) = s.req.table.map fun r => r.age := by
      have ages := congrArg (List.map Claim.age) claims
      rw [List.map_map, List.map_map] at ages
      exact ages
    have before := h.ages
    rw [← List.pairwise_map (f := fun r : Request => r.age) (R := fun a b => a < b)] at before ⊢
    rw [ages]
    exact before
  · obtain ⟨r, live', same⟩ := was q live
    rw [← (Request.claim_eq_iff.mp same).1]
    exact Nat.lt_of_lt_of_le (h.bound r live') nextAge
  · rw [line] at there
    obtain ⟨r, live', claim⟩ := was q live
    obtain ⟨age, -, -, state, -⟩ := Request.claim_eq_iff.mp claim
    exact state.mp (h.line p there r live' (age.trans same))
  · rw [line] at there
    exact Nat.lt_of_lt_of_le (h.lineBound p there) nextAge

/-- What leaves the stock alone keeps the laws. -/
theorem Stocked.same (h : Stocked k spared s) (same : u.stock = s.stock) : Stocked k spared u := by
  obtain ⟨geometry, free, copier, nextAge, line, claims⟩ := State.stock_eq_iff.mp same
  refine ⟨fun asked => by rw [freePagesLaw, free]; exact h.rising asked,
    fun asked => (h.table asked).same (by rw [nextAge]) line claims,
    fun asked => (h.jobs asked).tabled geometry copier (by rw [nextAge]) fun r live _ _ _ _ => exists_claim claims live,
    fun asked => ?_⟩
  obtain ⟨whole, requests, rest⟩ := h.pages asked
  refine ⟨by rw [free, heldPages_congr claims copier]; exact whole, fun q live pages held => ?_, by rw [copier]; exact rest⟩
  obtain ⟨r, live', claim⟩ := exists_claim claims.symm live
  obtain ⟨-, -, -, -, same, rect, -⟩ := Request.claim_eq_iff.mp claim
  rw [← rect]
  exact requests r live' pages (same.trans held)

end

end Sys2Proof.Machine
end

section
/-!
PROOF. The operations on requests that tell them things, and leave their claims (chapters 03 to 06).
-/

namespace Sys2Proof.Machine

open Sys2Proof.Safety

/-- A record told of something that is not of its claim. -/
theorem updateRequest_claims {age : Nat} {f : Request → Request} {s : State} {claims : List Claim}
    (told : ∀ r, (f r).claim = r.claim) (before : s.req.table.map Request.claim = claims) :
    (updateRequest age f s).req.table.map Request.claim = claims := by
  rw [← before]
  simp only [updateRequest, List.map_map]
  refine List.map_congr_left fun r _ => ?_
  simp only [Function.comp_apply]
  split
  · exact told r
  · rfl

section
variable (s : State)

@[simp] theorem closeTally_claims (age : Nat) :
    (closeTally age s).req.table.map Request.claim = s.req.table.map Request.claim :=
  updateRequest_claims (fun _ => rfl) rfl

@[simp] theorem bringOutcome_claims (age : Nat) (o : ReqOutcome) :
    (bringOutcome age o s).req.table.map Request.claim = s.req.table.map Request.claim :=
  updateRequest_claims (fun _ => rfl) rfl

@[simp] theorem finishPart_claims (age : Nat) (o : ReqOutcome) :
    (finishPart age o s).req.table.map Request.claim = s.req.table.map Request.claim :=
  updateRequest_claims (fun _ => rfl) rfl

@[simp] theorem resolveEntry_claims (age : Nat) (o : ReqOutcome) :
    (resolveEntry age o s).req.table.map Request.claim = s.req.table.map Request.claim := finishPart_claims _ age o

@[simp] theorem dropEntry_claims (age : Nat) (o : ReqOutcome) :
    (dropEntry age o s).req.table.map Request.claim = s.req.table.map Request.claim := by
  unfold dropEntry
  split
  · exact finishPart_claims _ age o
  · rfl

@[simp] theorem dropEntryTriggering_claims (age : Nat) (o : ReqOutcome) :
    (dropEntryTriggering age o s).req.table.map Request.claim = s.req.table.map Request.claim := by
  unfold dropEntryTriggering
  split
  · exact dropEntry_claims s age o
  · rfl

@[simp] theorem withdrawRest_claims (r : Request) (o : ReqOutcome) :
    (withdrawRest r o s).req.table.map Request.claim = s.req.table.map Request.claim := by
  unfold withdrawRest
  split
  · exact updateRequest_claims (fun _ => rfl) rfl
  · simp

@[simp] theorem reportAbort_claims (tag : Nat) (reason : AbortReason) :
    (reportAbort tag reason s).req.table.map Request.claim = s.req.table.map Request.claim := by
  unfold reportAbort
  split
  · simp
  · rfl

@[simp] theorem cancelQueued_claims (o : ReqOutcome) (r : Request) :
    (cancelQueued o r s).req.table.map Request.claim = s.req.table.map Request.claim := by simp [cancelQueued]

@[simp] theorem cleanCancel_claims (force : Bool) (r : Request) :
    (cleanCancel force r s).req.table.map Request.claim = s.req.table.map Request.claim :=
  updateRequest_claims (fun _ => rfl) (cancelQueued_claims s _ r)

@[simp] theorem forcedCancel_claims (r : Request) :
    (forcedCancel r s).req.table.map Request.claim = s.req.table.map Request.claim := by simp [forcedCancel]

@[simp] theorem takePendingWithdrawal_claims (age : Nat) :
    (takePendingWithdrawal age s).req.table.map Request.claim = s.req.table.map Request.claim := by
  unfold takePendingWithdrawal
  split
  · split
    · exact updateRequest_claims (fun _ => rfl) (by simp)
    · rfl
  · rfl

@[simp] theorem takePendingCancel_claims (age : Nat) :
    (takePendingCancel age s).req.table.map Request.claim = s.req.table.map Request.claim := by
  unfold takePendingCancel
  split
  · split
    · rfl
    · exact updateRequest_claims (fun _ => rfl) (cancelQueued_claims s _ _)
    · exact updateRequest_claims (fun _ => rfl) (forcedCancel_claims s _)
  · rfl

@[simp] theorem afterWalk_claims (age : Nat) :
    (afterWalk age s).req.table.map Request.claim = s.req.table.map Request.claim := by
  unfold afterWalk
  split
  · split <;> simp
  · rfl

@[simp] theorem pendCancel_claims (r : Request) (force : Bool) :
    (pendCancel r force s).req.table.map Request.claim = s.req.table.map Request.claim := by
  rw [pendCancel, closeTally_claims]
  exact updateRequest_claims (fun _ => rfl) rfl

@[simp] theorem noteUpgrade_claims (age : Nat) (reason : UpgradeReason) (mode : Mode) :
    (noteUpgrade age reason mode s).req.table.map Request.claim = s.req.table.map Request.claim := by
  rw [noteUpgrade, (raise_keeps _ _).2.2.2.1]
  exact updateRequest_claims (fun _ => rfl) rfl

@[simp] theorem noteRefusal_claims (age : Nat) (reason : UpgradeReason) :
    (noteRefusal age reason s).req.table.map Request.claim = s.req.table.map Request.claim := by
  rw [noteRefusal, (raise_keeps _ _).2.2.2.1]
  exact updateRequest_claims (fun _ => rfl) rfl

@[simp] theorem settleEntry_claims (r : Request) (remainder : Bool) :
    (settleEntry r remainder s).req.table.map Request.claim = s.req.table.map Request.claim := by
  unfold settleEntry
  split
  · exact updateRequest_claims (fun _ => rfl) rfl
  · rfl

/-- An admission makes an OPEN request RUNNING, and no request REPORTING or not (R39). -/
@[simp] theorem admitWalk_claims (l : LaneId) (r : Request) (e : QueueEntry) (w : AdmissionWalk) (mode : Mode)
    (drive : List Nat) (remainder : Bool) :
    (admitWalk l r e w mode drive remainder s).req.table.map Request.claim = s.req.table.map Request.claim := by
  rw [admitWalk, settleEntry_claims]
  refine updateRequest_claims (fun q => ?_) (by simp)
  rw [Request.claim_eq_iff]
  refine ⟨rfl, rfl, rfl, ?_, rfl, rfl, rfl⟩
  dsimp only
  split
  · rename_i here
    simp [here.1]
  · rfl

@[simp] theorem applyResult_claims (r : Request) (e : QueueEntry) (w : AdmissionWalk) (result : WalkResult) :
    (applyResult r e w result s).req.table.map Request.claim = s.req.table.map Request.claim := by
  cases result with
  | stays => rfl
  | staysUpgraded reason mode => exact noteUpgrade_claims _ _ _ _
  | admits mode reason drive remainder =>
    simp only [applyResult]
    split
    · rfl
    · cases reason with
      | none => exact admitWalk_claims s _ r e w mode drive remainder
      | some why => simp
  | resolves outcome reason =>
    cases reason with
    | none => exact resolveEntry_claims s r.age outcome
    | some why => simp [applyResult]

@[simp] theorem countRows_claims (c : Chunk) :
    (countRows c s).req.table.map Request.claim = s.req.table.map Request.claim := by
  unfold countRows
  split
  · rfl
  · split
    · rfl
    · dsimp only
      split <;> exact updateRequest_claims (fun _ => rfl) rfl

end

/-- What a request is told of the end of a lane's walk is not of its claim (R43, R44). -/
theorem Request.behindWalk_claim (ln : Lane) (kind : WalkKind) (r : Request) : (r.behindWalk ln kind).claim = r.claim := by
  cases kind <;> rfl

end Sys2Proof.Machine
end

section
/-!
PROOF. Jobs and requests that leave: the records accepted, the request that enters REPORTING, the withdrawn one that leaves
(chapters 03 and 07).
-/

namespace Sys2Proof.Machine

open Sys2Proof.Safety

/-! ### Pages counted -/

/-- One element of a list rising in a key, and the others. -/
theorem perm_cons_filter {α : Type} {key : α → Nat} {l : List α} (rising : l.Pairwise fun a b => key a < key b) {a : α}
    (mem : a ∈ l) : l.Perm (a :: l.filter fun b => key b ≠ key a) := by
  induction l with
  | nil => cases mem
  | cons b l ih =>
    obtain ⟨above, tail⟩ := List.pairwise_cons.mp rising
    rcases List.mem_cons.mp mem with rfl | later
    · have others : (l.filter fun b => key b ≠ key a) = l :=
        List.filter_eq_self.mpr fun c there => by simpa using Nat.ne_of_gt (above c there)
      rw [List.filter_cons_of_neg (by simp), others]
    · rw [List.filter_cons_of_pos (by simpa using Nat.ne_of_lt (above a later))]
      exact ((ih tail later).cons b).trans (.swap a b _)

/-- A page that is not free, put back. -/
theorem insertPage_perm {m : List Nat} {p : Nat} (fresh : p ∉ m) : (insertPage m p).Perm (p :: m) := by
  induction m with
  | nil => exact .refl _
  | cons q m ih =>
    rw [List.mem_cons, not_or] at fresh
    unfold insertPage
    rw [if_neg fresh.1]
    split
    · exact .refl _
    · exact ((ih fresh.2).cons q).trans (.swap p q m)

/-- Pages of which none is free and none is given twice, put back. -/
theorem foldl_insertPage_perm {pages free : List Nat} (distinct : (pages ++ free).Nodup) :
    (pages.foldl insertPage free).Perm (pages ++ free) := by
  induction pages generalizing free with
  | nil => exact .refl _
  | cons p pages ih =>
    rw [List.cons_append, List.nodup_cons, List.mem_append, not_or] at distinct
    obtain ⟨⟨other, fresh⟩, rest⟩ := distinct
    have put := insertPage_perm fresh
    have moved : (pages ++ insertPage free p).Perm (p :: (pages ++ free)) :=
      (put.append_left pages).trans List.perm_middle
    have distinct' : (pages ++ insertPage free p).Nodup :=
      moved.nodup_iff.mpr (List.nodup_cons.mpr ⟨by simp [other, fresh], rest⟩)
    exact (ih distinct').trans moved

/-- Pages that return: what was held is held still, but for them. -/
theorem perm_returned {pages free held held' whole : List Nat} (distinct : whole.Nodup) (law : (free ++ held).Perm whole)
    (moved : held.Perm (pages ++ held')) : (pages.foldl insertPage free ++ held').Perm whole := by
  have all : (pages ++ free ++ held').Perm whole := by
    refine List.Perm.trans ?_ law
    rw [List.perm_iff_count] at moved ⊢
    intro a
    have := moved a
    simp only [List.count_append] at this ⊢
    omega
  have apart : (pages ++ free).Nodup := (List.nodup_append.mp (all.nodup_iff.mpr distinct)).1
  exact ((foldl_insertPage_perm apart).append_right held').trans all

/-- Pages that are taken: they are held beside what was held. -/
theorem perm_taken {free held held' whole : List Nat} (n : Nat) (law : (free ++ held).Perm whole)
    (moved : held'.Perm (free.take n ++ held)) : (free.drop n ++ held').Perm whole := by
  refine List.Perm.trans ?_ law
  rw [List.perm_iff_count] at moved ⊢
  intro a
  have split : free.count a = (free.take n).count a + (free.drop n).count a := by
    rw [← List.count_append, List.take_append_drop]
  have := moved a
  simp only [List.count_append] at this ⊢
  omega

/-- The pages of a table's requests. -/
def tablePages (t : List Request) : List Nat := t.flatMap fun r => r.pages.getD []

/-- A snapshot whose overlay entry a push has discarded: a PUSH or SWAP job that no entry captures (R130). -/
def Job.discardedFrom (overlays : List Overlay) (j : Job) : Bool :=
  match j.purpose with
  | .copy _ => false
  | .push | .swap => !overlays.any fun o => decide (o.capturing = some j.age)

theorem Job.discardedFrom_iff {overlays : List Overlay} {j : Job} : j.discardedFrom overlays = true ↔
    (∀ age, j.purpose ≠ .copy age) ∧ ∀ o ∈ overlays, o.capturing ≠ some j.age := by
  unfold discardedFrom
  cases j.purpose <;> simp

theorem copierPages_eq (c : Copier) : copierPages c = (c.overlays.flatMap fun o => o.pages)
    ++ (c.jobs.filter (Job.discardedFrom c.overlays)).flatMap fun j => j.pages := rfl

theorem heldPages_eq (s : State) : heldPages s = tablePages s.req.table ++ copierPages s.copier := rfl

section
variable {k : Stocks} {spared : Option Job} {s u : State}

/-! ### Pages that return -/

/-- Every page list has the pages its rectangle needs (R61, R128). -/
structure ListsFit (s : State) : Prop where
  requests : ∀ r ∈ s.req.table, ∀ pages, r.pages = some pages → pages.length = pagesNeeded r.rect
  overlays : ∀ o ∈ s.copier.overlays, o.pages.length = pagesNeeded o.rect
  jobs : ∀ j ∈ s.copier.jobs, j.pages.length = pagesNeeded j.rect

theorem pagesLaw_iff (s : State) :
    pagesLaw s ↔ (s.pool.free ++ heldPages s).Perm (List.range Config.stagingPages) ∧ ListsFit s :=
  ⟨fun ⟨whole, requests, overlays, jobs⟩ => ⟨whole, requests, overlays, jobs⟩,
    fun ⟨whole, requests, overlays, jobs⟩ => ⟨whole, requests, overlays, jobs⟩⟩

/-- Requests, entries and jobs may leave, and lists may become absent. -/
theorem ListsFit.fewer (h : ListsFit s)
    (requests : ∀ q ∈ u.req.table, ∃ r ∈ s.req.table, (q.pages = r.pages ∨ q.pages = none) ∧ q.rect = r.rect)
    (overlays : ∀ o ∈ u.copier.overlays, ∃ d ∈ s.copier.overlays, d.rect = o.rect ∧ d.pages = o.pages)
    (jobs : ∀ j ∈ u.copier.jobs, ∃ i ∈ s.copier.jobs, i.rect = j.rect ∧ i.pages = j.pages) : ListsFit u := by
  refine ⟨fun q live pages held => ?_, fun o there => ?_, fun j there => ?_⟩
  · obtain ⟨r, live', same | none, rect⟩ := requests q live
    · rw [rect]
      exact h.requests r live' pages (same.symm.trans held)
    · rw [none] at held
      cases held
  · obtain ⟨d, there', rect, pages⟩ := overlays o there
    rw [← rect, ← pages]
    exact h.overlays d there'
  · obtain ⟨i, there', rect, pages⟩ := jobs j there
    rw [← rect, ← pages]
    exact h.jobs i there'

/-- Pages return: those that were held and are held no longer. -/
theorem Stocked.gives {spared' : Option Job} (h : Stocked k spared s) {pages : List Nat}
    (free : u.pool.free = pages.foldl insertPage s.pool.free) (table : k.jobs → TableFits u)
    (jobs : k.jobs → JobsFit spared' u) (moved : k.pages → (heldPages s).Perm (pages ++ heldPages u))
    (lists : k.pages → ListsFit s → ListsFit u) : Stocked k spared' u := by
  refine ⟨fun asked => ?_, table, jobs, fun asked => (pagesLaw_iff u).mpr ?_⟩
  · rw [freePagesLaw, free]
    exact returnPages_rising (h.rising asked) pages
  · obtain ⟨whole, fit⟩ := (pagesLaw_iff s).mp (h.pages asked)
    exact ⟨by rw [free]; exact perm_returned List.nodup_range whole (moved asked), lists asked fit⟩

/-! ### Requests that leave (R57, R59, R176) -/

theorem tablePages_perm {t : List Request} (ages : t.Pairwise fun a b => a.age < b.age) {r : Request} (live : r ∈ t) :
    (tablePages t).Perm (r.pages.getD [] ++ tablePages (t.filter fun q => q.age ≠ r.age)) :=
  (perm_cons_filter (key := fun r : Request => r.age) ages live).flatMap_right _

/-- One record told something: the pages of the others are what they were. -/
theorem tablePages_told {t : List Request} (ages : t.Pairwise fun a b => a.age < b.age) {r : Request} (live : r ∈ t)
    {g : Request → Request} (others : ∀ q ∈ t, q.age ≠ r.age → g q = q) :
    (tablePages (t.map g)).Perm ((g r).pages.getD [] ++ tablePages (t.filter fun q => q.age ≠ r.age)) := by
  have rest : (t.filter fun q => q.age ≠ r.age).map g = t.filter fun q => q.age ≠ r.age := by
    refine (List.map_congr_left fun q there => ?_).trans (List.map_id _)
    obtain ⟨listed, other⟩ := List.mem_filter.mp there
    exact others q listed (by simpa using other)
  have split := ((perm_cons_filter (key := fun r : Request => r.age) ages live).map g).flatMap_right fun r => r.pages.getD []
  rw [List.map_cons, rest] at split
  exact split

theorem TableFits.sublist (h : TableFits s) (table : u.req.table.Sublist s.req.table) (line : u.req.line ⊆ s.req.line)
    (nextAge : u.req.nextAge = s.req.nextAge) : TableFits u := by
  refine ⟨h.ages.sublist table, fun r live => ?_, fun p there r live => h.line p (line there) r (table.subset live),
    fun p there => ?_⟩ <;> rw [nextAge]
  · exact h.bound r (table.subset live)
  · exact h.lineBound p (line there)

/-- Ages tell records apart. -/
theorem TableFits.eq_of_age (h : TableFits s) {q r : Request} (hq : q ∈ s.req.table) (hr : r ∈ s.req.table)
    (same : q.age = r.age) : q = r :=
  List.inj_on_of_nodup_map (List.pairwise_map.mpr (h.ages.imp fun lt => Nat.ne_of_lt lt)) hq hr same

/-- A request that no job fills leaves the table, and its pages return. -/
theorem Stocked.leaves (h : Stocked k spared s) {age : Nat} {pages : List Nat}
    (table : u.req.table = s.req.table.filter fun r => r.age ≠ age) (line : u.req.line ⊆ s.req.line)
    (nextAge : u.req.nextAge = s.req.nextAge) (geometry : u.px.geometry = s.px.geometry) (copier : u.copier = s.copier)
    (free : u.pool.free = pages.foldl insertPage s.pool.free)
    (unfilled : k.jobs → ∀ r ∈ s.req.table, r.age = age → r.withdrawn = true ∨ r.state = .reporting)
    (held : k.pages → (tablePages s.req.table).Perm (pages ++ tablePages u.req.table)) : Stocked k spared u := by
  have sub : u.req.table.Sublist s.req.table := by rw [table]; exact List.filter_sublist
  refine h.gives free (fun asked => (h.table asked).sublist sub line nextAge) (fun asked => ?_) (fun asked => ?_) fun _ fit => ?_
  · refine (h.jobs asked).tabled geometry copier (by rw [nextAge]) fun r live _ _ _ fills => ⟨r, ?_, rfl⟩
    rw [table, List.mem_filter]
    refine ⟨live, ?_⟩
    obtain ⟨-, withdrawn, state, -⟩ := fills
    have other : r.age ≠ age := fun own => by
      rcases unfilled asked r live own with gone | reporting
      · rw [withdrawn] at gone
        cases gone
      · exact state reporting
    simpa using other
  · rw [heldPages_eq, heldPages_eq, copier, ← List.append_assoc]
    exact (held asked).append_right _
  · refine fit.fewer (fun q live => ⟨q, sub.subset live, .inl rfl, rfl⟩) ?_ ?_ <;> rw [copier]
    · exact fun o there => ⟨o, there, rfl, rfl⟩
    · exact fun j there => ⟨j, there, rfl, rfl⟩

theorem TableFits.findAge (h : TableFits s) {r : Request} (live : r ∈ s.req.table) : findAge s r.age = some r := by
  cases found : Machine.findAge s r.age with
  | none => exact absurd (List.find?_eq_none.mp found r live) (by simp)
  | some q => rw [h.eq_of_age (mem_of_findAge found) live (age_of_findAge found)]

/-- A record is accepted: that of a request in REPORTING whose pages have gone back (R62, R176). -/
theorem Stocked.acceptRecord (h : Stocked k spared s) {p : Reporting} (ready : readyToOffer s p = true)
    (reporting : k.jobs → ∀ r ∈ s.req.table, r.age = p.age → r.state = .reporting) :
    Stocked k spared (Machine.acceptRecord p s) := by
  have table : (Machine.acceptRecord p s).req.table = s.req.table.filter fun r => r.age ≠ p.age := by
    rw [Machine.acceptRecord, leaveTable_table]
  refine h.leaves (age := p.age) (pages := []) table ?_ (by simp [Machine.acceptRecord]) (by simp [Machine.acceptRecord])
    (by simp [Machine.acceptRecord]) (by simp [Machine.acceptRecord])
    (fun asked r live own => .inr (reporting asked r live own)) fun asked => ?_
  · intro q there
    simp only [Machine.acceptRecord, leaveTable_keeps, List.mem_filter] at there
    exact there.1
  · have fits := h.table (k.withPages asked)
    rw [table]
    by_cases live : ∃ r ∈ s.req.table, r.age = p.age
    · obtain ⟨r, live, own⟩ := live
      have found := fits.findAge live
      rw [own] at found
      have pages : r.pages = none := by simpa [readyToOffer, found] using ready
      simpa [pages, own] using tablePages_perm fits.ages live
    · rw [List.filter_eq_self.mpr fun r there => by simpa using fun own => live ⟨r, there, own⟩]
      exact .refl _

/-- Places of the line offer their records in order. -/
theorem Stocked.offerFrom (l : List Reporting) {s : State} (h : Stocked k spared s)
    (reporting : k.jobs → ∀ p ∈ l, ∀ r ∈ s.req.table, r.age = p.age → r.state = .reporting) :
    Stocked k spared (offerFrom l s) := by
  induction l generalizing s with
  | nil => exact h
  | cons p rest ih =>
    unfold Machine.offerFrom
    split
    · rename_i offers
      refine ih (h.acceptRecord offers.2 fun asked => reporting asked p List.mem_cons_self) fun asked q there r live => ?_
      rw [Machine.acceptRecord, leaveTable_table] at live
      exact reporting asked q (List.mem_cons_of_mem _ there) r (List.mem_filter.mp live).1
    · exact h

theorem Stocked.offerRecords (h : Stocked k spared s) : Stocked k spared (offerRecords s) :=
  h.offerFrom _ fun asked => (h.table asked).line

theorem freeRequestPages_free {age : Nat} {s : State} {r : Request} (found : findAge s age = some r) :
    (freeRequestPages age s).pool.free = (r.pages.getD []).foldl insertPage s.pool.free := by
  simp only [freeRequestPages, found]
  rfl

/-- A withdrawn request leaves (R59). -/
theorem Stocked.leaveIfDone (h : Stocked k spared s) {r : Request} (found : findAge s r.age = some r)
    (gone : r.withdrawn = true) : Stocked k spared (leaveIfDone r s) := by
  unfold Machine.leaveIfDone
  split
  · exact h
  · have live := mem_of_findAge found
    have table : (leaveTable r.age (freeRequestPages r.age s)).req.table = s.req.table.filter fun q => q.age ≠ r.age := by
      rw [leaveTable_table, freeRequestPages_table found, List.filter_map]
      have ages : ((fun q : Request => decide (q.age ≠ r.age)) ∘
          fun q => if q.age = r.age then { q with pages := none } else q) = fun q => decide (q.age ≠ r.age) := by
        funext q
        simp only [Function.comp_apply]
        split <;> rfl
      rw [ages]
      refine (List.map_congr_left fun q there => ?_).trans (List.map_id _)
      rw [if_neg (by simpa using (List.mem_filter.mp there).2)]
      rfl
    refine h.leaves (age := r.age) (pages := r.pages.getD []) table (by simp) (by simp) (by simp) (by simp) ?_
      (fun asked q live' own => .inl ?_) fun asked => ?_
    · simpa using freeRequestPages_free found
    · rw [(h.table asked).eq_of_age live' live own]
      exact gone
    · rw [table]
      exact tablePages_perm (h.table (k.withPages asked)).ages live

/-! ### The entry into REPORTING (R56, R62, R124) -/

theorem dropJobs_jobs (p : Job → Bool) (s : State) : (dropJobs p s).copier.jobs = s.copier.jobs.filter fun j => !p j := by
  unfold dropJobs
  dsimp only
  split <;> simp

/-- COPY jobs are not among the snapshots whose pages the copier holds. -/
theorem copierPages_dropCopy {c d : Copier} {p : Job → Bool} (jobs : d.jobs = c.jobs.filter p) (overlays : d.overlays = c.overlays)
    (copies : ∀ j ∈ c.jobs, p j = false → ∃ age, j.purpose = .copy age) : copierPages d = copierPages c := by
  have same : (d.jobs.filter (Job.discardedFrom d.overlays)) = c.jobs.filter (Job.discardedFrom c.overlays) := by
    rw [jobs, overlays, List.filter_filter]
    refine List.filter_congr fun j there => ?_
    cases kept : p j with
    | true => exact Bool.and_true _
    | false =>
      obtain ⟨age, copy⟩ := copies j there kept
      simp [Job.discardedFrom, copy]
  rw [copierPages_eq, copierPages_eq, same, overlays]

theorem linedUp_copier (r : Request) (s : State) : (linedUp r s).copier.overlays = s.copier.overlays
    ∧ (linedUp r s).copier.jobs = s.copier.jobs.filter fun j => !Job.isCopyOf r.age j := by
  unfold linedUp
  split <;> simp [closedFor, dropJobs_jobs]

theorem linedUp_free {r : Request} {s : State} (found : findAge s r.age = some r) : (linedUp r s).pool.free =
    (if writingFor s r.age = true then [] else r.pages.getD []).foldl insertPage s.pool.free := by
  have writing : writingFor (closedFor r s) r.age = writingFor s r.age := writingFor_congr (by simp [closedFor]) _
  unfold linedUp
  rw [writing]
  cases writingFor s r.age
  · simp only [Bool.false_eq_true, if_false, freeRequestPages_free (findAge_closedFor found)]
    simp [closedFor]
  · simp [closedFor]

/-- A request comes to be in REPORTING, or gives back its pages there; the job that fills it leaves, and so do its pages. -/
theorem Stocked.told (h : Stocked k none s) {r : Request} (live : r ∈ s.req.table) {f : Request → Request} {p : Job → Bool}
    {pages : List Nat} (table : u.req.table = s.req.table.map fun q => if q.age = r.age then f q else q)
    (age : ∀ q, (f q).age = q.age) (rect : ∀ q, (f q).rect = q.rect) (state : (f r).state = .reporting)
    (kept : ∀ q, (f q).pages = q.pages ∨ (f q).pages = none)
    (given : r.pages.getD [] = pages ++ (f r).pages.getD []) (free : u.pool.free = pages.foldl insertPage s.pool.free)
    (line : ∀ e ∈ u.req.line, e ∈ s.req.line ∨ e.age = r.age) (nextAge : u.req.nextAge = s.req.nextAge)
    (geometry : u.px.geometry = s.px.geometry) (overlays : u.copier.overlays = s.copier.overlays)
    (jobs : u.copier.jobs = s.copier.jobs.filter p) (copies : ∀ j, p j = false → j.purpose = .copy r.age)
    (done : ∀ j, p j = true → j.purpose = .copy r.age → ¬ r.filledBy j) : Stocked k none u := by
  have ages : ∀ q : Request, (if q.age = r.age then f q else q).age = q.age := fun q => by split <;> simp [age]
  refine h.gives free (fun asked => ⟨?_, ?_, ?_, ?_⟩) (fun asked => ?_) (fun asked => ?_) fun asked fit => ?_
  · rw [table, List.pairwise_map]
    exact (h.table asked).ages.imp fun lt => by rw [ages, ages]; exact lt
  · rw [table, nextAge]
    intro q there
    obtain ⟨q, listed, rfl⟩ := List.mem_map.mp there
    rw [ages]
    exact (h.table asked).bound q listed
  · rw [table]
    intro e there q live' own
    obtain ⟨q, listed, rfl⟩ := List.mem_map.mp live'
    rw [ages] at own
    split
    · rename_i here
      rw [(h.table asked).eq_of_age listed live here]
      exact state
    · rename_i other
      exact (h.table asked).line e ((line e there).resolve_right fun new => other (own.trans new)) q listed own
  · intro e there
    rw [nextAge]
    rcases line e there with old | new
    · exact (h.table asked).lineBound e old
    · exact new ▸ (h.table asked).bound r live
  · refine (h.jobs asked).fewer geometry (by rw [nextAge]) jobs (by rw [overlays]; exact (h.jobs asked).distinct) ?_ ?_ ?_ ?_
      fun j no => by cases no
    · rw [overlays]
      exact fun o there age own => ⟨o, there, own, rfl, rfl⟩
    · intro o _ j _ _ notCopy
      by_contra dropped
      exact notCopy r.age (copies j (by simpa using dropped))
    · rw [overlays]
      exact fun j _ _ o there own => .inr ⟨o, there, own⟩
    · intro q listed j _ stays copy fills
      have other : q.age ≠ r.age := fun own => by
        rw [(h.table asked).eq_of_age listed live own] at copy fills
        exact done j stays copy fills
      refine ⟨q, ?_, rfl⟩
      rw [table]
      exact List.mem_map.mpr ⟨q, listed, if_neg other⟩
  · have copier : copierPages u.copier = copierPages s.copier :=
      copierPages_dropCopy jobs overlays fun j _ dropped => ⟨r.age, copies j dropped⟩
    have ages := (h.table (k.withPages asked)).ages
    have before := tablePages_perm ages live
    have after := tablePages_told (g := fun q => if q.age = r.age then f q else q) ages live fun q _ other => if_neg other
    rw [if_pos rfl] at after
    rw [given, List.append_assoc] at before
    rw [heldPages_eq, heldPages_eq, copier, table, ← List.append_assoc]
    exact List.Perm.append_right _ (before.trans (after.symm.append_left pages))
  · refine fit.fewer (fun q there => ?_) ?_ ?_
    · rw [table] at there
      obtain ⟨q, listed, rfl⟩ := List.mem_map.mp there
      refine ⟨q, listed, ?_⟩
      split
      · exact ⟨kept q, rect q⟩
      · exact ⟨.inl rfl, rfl⟩
    · rw [overlays]
      exact fun o there => ⟨o, there, rfl, rfl⟩
    · rw [jobs]
      exact fun j there => ⟨j, (List.mem_filter.mp there).1, rfl, rfl⟩

/-- A request enters REPORTING: its COPY job is dropped, and its pages return but for a chunk write in flight (R56, R62). -/
theorem Stocked.enterReporting (h : Stocked k none s) {r : Request} (found : findAge s r.age = some r) :
    Stocked k none (enterReporting r s) := by
  have req := linedUp_req found
  obtain ⟨overlays, jobs⟩ := linedUp_copier r s
  rw [enterReporting_eq]
  refine Stocked.offerRecords (h.told (mem_of_findAge found) (f := Request.reported (writingFor s r.age)) (by rw [req])
    (fun _ => rfl) (fun _ => rfl) rfl (fun q => ?_) ?_ (linedUp_free found) (fun e there => ?_) (by rw [req])
    (by rw [(linedUp_kept r s).px]) overlays jobs (fun j dropped => ?_) fun j stays copy => ?_)
  · cases writing : writingFor s r.age
    · exact .inr rfl
    · exact .inl rfl
  · cases writing : writingFor s r.age <;> simp [Request.reported]
  · rw [req] at there
    exact (List.mem_append.mp there).imp_right fun new => by rw [List.mem_singleton.mp new]
  · simpa [Job.isCopyOf] using dropped
  · simp [Job.isCopyOf, copy] at stays

/-- A request in REPORTING, which no job fills, gives its pages back (R62, R124). -/
theorem Stocked.freeRequestPages (h : Stocked k none s) {r : Request} (found : findAge s r.age = some r)
    (reporting : r.state = .reporting) : Stocked k none (freeRequestPages r.age s) := by
  refine h.told (mem_of_findAge found) (f := fun q => { q with pages := none }) (p := fun _ => true)
    (freeRequestPages_table found) (fun _ => rfl) (fun _ => rfl) reporting (fun _ => .inr rfl) (by simp)
    (freeRequestPages_free found) (fun e there => .inl (by simpa using there)) (by simp) (by simp) (by simp) (by simp)
    (by simp) fun j _ _ fills => fills.2.2.1 reporting

theorem Stocked.judgeFinish (h : Stocked k none s) (age : Nat) : Stocked k none (judgeFinish age s) := by
  unfold Machine.judgeFinish
  split
  · exact h
  · rename_i r found
    have found' : findAge s r.age = some r := by rw [age_of_findAge found]; exact found
    split
    · exact h.leaveIfDone found' ‹_›
    · split
      · exact h.enterReporting found'
      · exact h

/-- Pages held back for a chunk write return: those of a request in REPORTING, which no job fills (R62, R69). -/
theorem Stocked.returnHeldPages (h : Stocked k none s) (age : Nat) : Stocked k none (returnHeldPages age s) := by
  unfold Machine.returnHeldPages
  split
  · rename_i r found
    split
    · rename_i reporting
      have found' : findAge s r.age = some r := by rw [age_of_findAge found]; exact found
      rw [← age_of_findAge found]
      exact (h.freeRequestPages found' reporting).offerRecords
    · exact h
  · exact h

end

end Sys2Proof.Machine
end

section
/-!
PROOF. The copier's jobs start, go forward and end (chapter 07).
-/

namespace Sys2Proof.Machine

open Sys2Proof.Safety

section
variable {k : Stocks} {s u : State}

/-! ### Jobs that start and go forward (R120, R121) -/

/-- The jobs with the one of an age RUNNING at a position. -/
def movedTo (age done : Nat) (half : Option Level) (jobs : List Job) : List Job :=
  jobs.map fun j => if j.age = age then { j with state := .running done half } else j

theorem movedTo_ages (age done : Nat) (half : Option Level) (jobs : List Job) :
    (movedTo age done half jobs).map (fun j => j.age) = jobs.map fun j => j.age := by
  simp only [movedTo, List.map_map]
  refine List.map_congr_left fun j _ => ?_
  simp only [Function.comp_apply]
  split <;> rfl

/-- At most one of a list of jobs of different ages has one age. -/
theorem filter_running_length {jobs : List Job} (ages : jobs.Pairwise fun a b => a.age < b.age) {age : Nat}
    (only : ∀ j ∈ jobs, j.running = true → j.age = age) : (jobs.filter Job.running).length ≤ 1 := by
  have distinct : ((jobs.filter Job.running).map fun j => j.age).Nodup :=
    List.pairwise_map.mpr ((ages.filter _).imp fun lt => Nat.ne_of_lt lt)
  have all : ((jobs.filter Job.running).map fun j => j.age) ⊆ [age] := by
    intro a mem
    obtain ⟨j, there, rfl⟩ := List.mem_map.mp mem
    obtain ⟨listed, run⟩ := List.mem_filter.mp there
    rw [only j listed run]
    exact List.mem_singleton_self _
  simpa using (List.subperm_of_subset distinct all).length_le

/-- A job RUNNING is the only one. -/
theorem JobsFit.running_eq {spared : Option Job} (h : JobsFit spared s) {i j : Job} (hi : i ∈ s.copier.jobs)
    (hj : j ∈ s.copier.jobs) (ri : i.running = true) (rj : j.running = true) : i = j := by
  have mem : ∀ {x : Job}, x ∈ s.copier.jobs → x.running = true → x ∈ s.copier.jobs.filter Job.running :=
    fun there run => List.mem_filter.mpr ⟨there, run⟩
  have short := h.alone
  match only : s.copier.jobs.filter Job.running, mem hi ri, mem hj rj with
  | [x], there, there' => rw [List.mem_singleton.mp there, List.mem_singleton.mp there']
  | x :: y :: rest, _, _ =>
    rw [only] at short
    simp at short

/-- Pages and purposes of the jobs are what they were. -/
theorem copierPages_movedTo {c d : Copier} {age done : Nat} {half : Option Level} (jobs : d.jobs = movedTo age done half c.jobs)
    (overlays : d.overlays = c.overlays) : copierPages d = copierPages c := by
  rw [copierPages_eq, copierPages_eq, jobs, overlays, movedTo, List.filter_map, List.flatMap_map]
  have same : (Job.discardedFrom c.overlays ∘ fun j => if j.age = age then { j with state := .running done half } else j)
      = Job.discardedFrom c.overlays := by
    funext j
    simp only [Function.comp_apply]
    split <;> rfl
  rw [same]
  congr 2
  funext j
  split <;> rfl

/-- The one job that runs, or that starts where none runs, is at a position of its rectangle. -/
theorem Stocked.moves (h : Stocked k none s) {age done : Nat} {half : Option Level}
    (jobs : u.copier.jobs = movedTo age done half s.copier.jobs) (overlays : u.copier.overlays = s.copier.overlays)
    (req : u.req = s.req) (geometry : u.px.geometry = s.px.geometry) (free : u.pool.free = s.pool.free)
    (only : k.jobs → ∀ j ∈ s.copier.jobs, j.running = true → j.age = age)
    (fits : k.jobs → ∀ j ∈ s.copier.jobs, j.age = age → done ≤ j.rect.area ∧ (half.isSome = true ↔ done % 2 = 1)) :
    Stocked k none u := by
  have was : ∀ j ∈ u.copier.jobs, ∃ i ∈ s.copier.jobs, j = if i.age = age then { i with state := .running done half } else i := by
    rw [jobs]
    intro j there
    obtain ⟨i, listed, rfl⟩ := List.mem_map.mp there
    exact ⟨i, listed, rfl⟩
  have ages (law : JobsFit none s) : u.copier.jobs.Pairwise fun a b => a.age < b.age := by
    have before := law.ages
    rw [← List.pairwise_map (f := fun j : Job => j.age) (R := fun a b => a < b)] at before ⊢
    rw [jobs, movedTo_ages]
    exact before
  refine h.gives (pages := []) free (fun asked => ?_) (fun asked => ?_) (fun asked => ?_) fun asked fit => ?_
  · exact (h.table asked).same (by rw [req]) (by rw [req]) (by rw [req])
  · have law := h.jobs asked
    refine ⟨ages law, filter_running_length (age := age) (ages law) fun j there run => ?_, fun j there => ?_, fun j there => .inr ?_,
      by rw [overlays]; exact law.distinct, fun o there a own => ?_, fun j no => by cases no⟩
    · obtain ⟨i, listed, rfl⟩ := was j there
      split at run
      · rename_i here
        rw [if_pos here]
        exact here
      · rename_i other
        exact absurd (only asked i listed run) other
    · obtain ⟨i, listed, rfl⟩ := was j there
      obtain ⟨bound, rect, on⟩ := law.each i listed
      rw [req, geometry]
      split
      · rename_i here
        refine ⟨bound, rect, fun d x state => ?_⟩
        cases state
        exact fits asked i listed here
      · exact ⟨bound, rect, on⟩
    · obtain ⟨i, listed, rfl⟩ := was j there
      have place := (law.placed i listed).resolve_left (by simp)
      split
      · unfold Job.placed at place ⊢
        rw [req]
        dsimp only
        cases purpose : i.purpose with
        | copy a => rw [purpose] at place; exact place
        | push | swap => rw [purpose] at place; exact ⟨place.1, .inl rfl⟩
      · unfold Job.placed at place ⊢
        rw [req, overlays]
        exact place
    · rw [overlays] at there
      obtain ⟨i, listed, same, overlay, rect, pages⟩ := law.captured o there a own
      refine ⟨if i.age = age then { i with state := .running done half } else i, ?_, ?_⟩
      · rw [jobs]
        exact List.mem_map_of_mem listed
      · split <;> exact ⟨same, overlay, rect, pages⟩
  · rw [heldPages_eq, heldPages_eq, req, copierPages_movedTo jobs overlays]
    exact .refl _
  · refine fit.fewer (fun r live => ⟨r, by rwa [req] at live, .inl rfl, rfl⟩) (fun o there => ⟨o, by rwa [overlays] at there, rfl, rfl⟩)
      fun j there => ?_
    obtain ⟨i, listed, rfl⟩ := was j there
    refine ⟨i, listed, ?_⟩
    split <;> exact ⟨rfl, rfl⟩

theorem Stocked.judgeJobs (h : Stocked k none s) : Stocked k none (judgeJobs s) := by
  unfold Machine.judgeJobs
  split
  · exact h
  · rename_i idle
    split
    · exact h
    · rename_i j found
      refine h.moves (age := j.age) (done := 0) (half := none) (by simp [movedTo]) (by simp) (by simp) (by simp) (by simp)
        (fun _ i there run => ?_) fun _ i _ _ => ⟨Nat.zero_le _, by simp⟩
      exact absurd (List.any_eq_true.mpr ⟨i, there, run⟩) idle

theorem Stocked.judgeAfter (h : Stocked k none s) (b : State) : Stocked k none (judgeAfter b s) := by
  unfold Machine.judgeAfter
  split
  · exact h.judgeJobs
  · exact h

/-- The RUNNING job is listed, at its position. -/
theorem state_of_currentJob {j : Job} {done : Nat} {half : Option Level} (running : currentJob s = some (j, done, half)) :
    j.state = .running done half := by
  obtain ⟨i, -, found⟩ := List.exists_of_findSome?_eq_some running
  cases state : i.state with
  | pending => simp [state] at found
  | running done' half' =>
    simp only [state, Option.some.injEq, Prod.mk.injEq] at found
    obtain ⟨rfl, rfl, rfl⟩ := found
    exact state

/-- A snapshot goes forward (R121). -/
theorem Stocked.advanceCopy (h : Stocked k none s) (n : Nat) : Stocked k none (advanceCopy n s) := by
  cases current : currentJob s with
  | none => simpa only [Machine.advanceCopy, current] using h
  | some job =>
    obtain ⟨j, done, half⟩ := job
    have there := mem_of_currentJob current
    have state := state_of_currentJob current
    have run : j.running = true := by simp [Job.running, state]
    refine h.moves (age := j.age) (done := done + min n (j.rect.area - done))
      (half := (copyPixels j (min n (j.rect.area - done)) done half s).1) ?_ (by simp) (by simp) (by simp) (by simp)
      (fun asked i listed running => ?_) fun asked i listed own => ?_
    · simp [Machine.advanceCopy, current, movedTo]
    · rw [(h.jobs asked).running_eq listed there running run]
    · have law := h.jobs asked
      obtain ⟨bound, begun⟩ := (law.each j there).2.2 done half state
      rw [job_of_age ((jobLaw_iff s).mpr law) listed there own, copyPixels_half j _ _ _ _ begun]
      refine ⟨by omega, ?_⟩
      split
      · simp only [Option.isSome_none, Bool.false_eq_true, false_iff]
        omega
      · split
        · rename_i still
          rw [begun, still, Nat.add_zero]
        · simp only [Option.isSome_some, true_iff]
          omega

/-! ### Jobs that end (R122) -/

/-- An overlay entry whose snapshot has ended (R122). -/
def Overlay.handed (age : Nat) (o : Overlay) : Overlay := if o.capturing = some age then { o with capturing := none } else o

theorem Overlay.handed_capturing {age a : Nat} {o : Overlay} :
    (o.handed age).capturing = some a ↔ o.capturing = some a ∧ a ≠ age := by
  unfold handed
  split
  · rename_i own
    simp [own, eq_comm]
  · rename_i other
    refine ⟨fun own => ⟨own, fun same => other (same ▸ own)⟩, fun own => own.1⟩

theorem Overlay.handed_list (age : Nat) (o : Overlay) : (o.handed age).rect = o.rect ∧ (o.handed age).pages = o.pages := by
  unfold handed
  split <;> exact ⟨rfl, rfl⟩

theorem JobsFit.eq_of_age {spared : Option Job} (h : JobsFit spared s) {i j : Job} (hi : i ∈ s.copier.jobs)
    (hj : j ∈ s.copier.jobs) (same : i.age = j.age) : i = j :=
  List.inj_on_of_nodup_map (List.pairwise_map.mpr (h.ages.imp fun lt => Nat.ne_of_lt lt)) hi hj same

/-- A job leaves at its end: its entry has its image, or, where a push has discarded the entry, its pages return. -/
theorem Stocked.ends (h : Stocked k none s) {i : Job} (there : i ∈ s.copier.jobs) {pages : List Nat}
    (jobs : u.copier.jobs = s.copier.jobs.filter fun j => j.age ≠ i.age)
    (overlays : k.jobs → u.copier.overlays = s.copier.overlays.map (Overlay.handed i.age))
    (free : u.pool.free = pages.foldl insertPage s.pool.free)
    (given : k.jobs → pages = if i.discardedFrom s.copier.overlays = true then i.pages else [])
    (geometry : u.px.geometry = s.px.geometry) (line : u.req.line = s.req.line) (nextAge : u.req.nextAge = s.req.nextAge)
    (claims : u.req.table.map Request.claim = s.req.table.map Request.claim) : Stocked k none u := by
  have tables : tablePages u.req.table = tablePages s.req.table := by
    rw [tablePages, tablePages, flatMap_pages_eq, flatMap_pages_eq, claims]
  refine h.gives free (fun asked => (h.table asked).same (by rw [nextAge]) line claims) (fun asked => ?_) (fun asked => ?_)
    fun asked fit => ?_
  · have law := h.jobs asked
    have handed := overlays asked
    have was : ∀ o ∈ u.copier.overlays, ∀ age, o.capturing = some age →
        ∃ d ∈ s.copier.overlays, d.capturing = some age ∧ age ≠ i.age ∧ d.rect = o.rect ∧ d.pages = o.pages := by
      rw [handed]
      intro o listed age own
      obtain ⟨d, there', rfl⟩ := List.mem_map.mp listed
      obtain ⟨own, other⟩ := Overlay.handed_capturing.mp own
      obtain ⟨rect, pages⟩ := d.handed_list i.age
      exact ⟨d, there', own, other, rect.symm, pages.symm⟩
    refine law.fewer geometry (by rw [nextAge]) jobs ?_ (fun o listed age own => ?_) (fun o listed j _ own _ => ?_)
      (fun j _ kept o listed own => .inr ?_) (fun r live _ _ _ _ _ => exists_claim claims live) fun j no => by cases no
    · rw [handed, List.pairwise_map]
      refine law.distinct.imp fun {a b} apart => ?_
      cases own : (a.handed i.age).capturing with
      | none => exact .inl rfl
      | some age =>
        refine .inr fun same => ?_
        have ours := (Overlay.handed_capturing.mp own).1
        have theirs := (Overlay.handed_capturing.mp same.symm).1
        rcases apart with none | apart
        · rw [ours] at none
          cases none
        · exact apart (ours.trans theirs.symm)
    · obtain ⟨d, listed, own, -, rect, pages⟩ := was o listed age own
      exact ⟨d, listed, own, rect, pages⟩
    · obtain ⟨-, -, -, other, -⟩ := was o listed j.age own
      simpa using other
    · rw [handed]
      exact ⟨o.handed i.age, List.mem_map_of_mem listed, Overlay.handed_capturing.mpr ⟨own, by simpa using kept⟩⟩
  · have law := h.jobs (k.withPages asked)
    have handed := overlays (k.withPages asked)
    have entries : (u.copier.overlays.flatMap fun o => o.pages) = s.copier.overlays.flatMap fun o => o.pages := by
      rw [handed, List.flatMap_map]
      exact List.flatMap_congr fun o _ => (o.handed_list i.age).2
    have discarded : u.copier.jobs.filter (Job.discardedFrom u.copier.overlays)
        = (s.copier.jobs.filter fun j => j.age ≠ i.age).filter (Job.discardedFrom s.copier.overlays) := by
      rw [jobs, handed]
      refine List.filter_congr fun j kept => ?_
      have other : j.age ≠ i.age := by simpa using (List.mem_filter.mp kept).2
      rw [Bool.eq_iff_iff, Job.discardedFrom_iff, Job.discardedFrom_iff, List.forall_mem_map]
      exact and_congr_right fun _ => forall₂_congr fun o _ => by
        rw [ne_eq, ne_eq, Overlay.handed_capturing]
        simp [other]
    have all := ((perm_cons_filter (key := fun j : Job => j.age) law.ages there).filter
      (Job.discardedFrom s.copier.overlays)).flatMap_right fun j => j.pages
    rw [heldPages_eq, heldPages_eq, tables, copierPages_eq, copierPages_eq, entries, discarded, given (k.withPages asked)]
    rw [List.filter_cons] at all
    rw [List.perm_iff_count] at all ⊢
    intro a
    have count := all a
    split at count <;> rename_i kind <;> simp only [kind, if_true, if_false, List.flatMap_cons, List.count_append,
      List.nil_append, Bool.false_eq_true] at count ⊢ <;> omega
  · refine fit.fewer (fun q live => ?_) (fun o listed => ?_) fun j listed => ?_
    · obtain ⟨r, live', same⟩ := exists_claim claims.symm live
      obtain ⟨-, -, -, -, pages, rect, -⟩ := Request.claim_eq_iff.mp same
      exact ⟨r, live', .inl pages.symm, rect.symm⟩
    · rw [overlays (k.withPages asked)] at listed
      obtain ⟨d, there', rfl⟩ := List.mem_map.mp listed
      obtain ⟨rect, pages⟩ := d.handed_list i.age
      exact ⟨d, there', rect.symm, pages.symm⟩
    · rw [jobs] at listed
      exact ⟨j, (List.mem_filter.mp listed).1, rfl, rfl⟩

/-- Where no entry captures an age, none is handed its image. -/
theorem map_handed_of_free {age : Nat} {overlays : List Overlay} (free : ∀ o ∈ overlays, o.capturing ≠ some age) :
    overlays.map (Overlay.handed age) = overlays :=
  (List.map_congr_left fun o there => if_neg (free o there)).trans (List.map_id _)

/-- No entry captures the age of a COPY job. -/
theorem JobsFit.free_of_copy {spared : Option Job} (h : JobsFit spared s) {i : Job} (there : i ∈ s.copier.jobs) {age : Nat}
    (copy : i.purpose = .copy age) : ∀ o ∈ s.copier.overlays, o.capturing ≠ some i.age := by
  intro o listed own
  obtain ⟨j, listed', same, notCopy, -⟩ := h.captured o listed i.age own
  rw [h.eq_of_age listed' there same] at notCopy
  exact notCopy age copy

/-- The state in which a job's result is handed on: the job has left (R122). -/
def withoutJob (age : Nat) (s : State) : State :=
  clientDone .copier { s with copier := { s.copier with jobs := s.copier.jobs.filter fun j => j.age ≠ age } }

/-- A snapshot's result is handed to the holder of its destination (R122). -/
theorem Stocked.handSnapshot (h : Stocked k none s) {i j : Job} (there : i ∈ s.copier.jobs) (age : i.age = j.age)
    (purpose : i.purpose = j.purpose) (pages : i.pages = j.pages) :
    Stocked k none (handSnapshot j (withoutJob j.age s)) := by
  have handed : ∀ o : Overlay, (if o.capturing = some j.age then { o with capturing := none } else o) = o.handed i.age := by
    intro o
    rw [age]
    rfl
  have pushed (notCopy : ∀ a, i.purpose ≠ .copy a) : Stocked k none
      (if s.copier.overlays.any (fun o => decide (o.capturing = some j.age)) = true then
        { withoutJob j.age s with copier := { (withoutJob j.age s).copier with
            overlays := (withoutJob j.age s).copier.overlays.map fun o =>
              if o.capturing = some j.age then { o with capturing := none } else o } }
      else returnPages j.pages (withoutJob j.age s)) := by
    split
    · rename_i captured
      refine h.ends there (pages := []) (by simp [withoutJob, age]) (fun _ => ?_) (by simp [withoutJob]) (fun _ => ?_)
        (by simp [withoutJob]) (by simp [withoutJob]) (by simp [withoutJob]) (by simp [withoutJob])
      · simp only [handed]
        simp [withoutJob]
      · rw [if_neg]
        intro free
        obtain ⟨o, listed, own⟩ := List.any_eq_true.mp captured
        exact (Job.discardedFrom_iff.mp free).2 o listed (by rw [age]; simpa using own)
    · rename_i free
      have free : ∀ o ∈ s.copier.overlays, o.capturing ≠ some i.age := by
        rw [age]
        simpa using free
      refine h.ends there (pages := j.pages) (by simp [withoutJob, age]) (fun _ => ?_) (by simp [withoutJob, returnPages])
        (fun _ => ?_) (by simp [withoutJob]) (by simp [withoutJob]) (by simp [withoutJob]) (by simp [withoutJob])
      · rw [map_handed_of_free free]
        simp [withoutJob]
      · rw [if_pos (Job.discardedFrom_iff.mpr ⟨notCopy, free⟩), pages]
  have there' : (withoutJob j.age s).copier.overlays = s.copier.overlays := by simp [withoutJob]
  unfold Machine.handSnapshot
  rw [there']
  cases kind : j.purpose with
  | copy a =>
    refine h.ends there (pages := []) (by simp [withoutJob, age]) (fun asked => ?_) (by simp [withoutJob]) (fun _ => ?_)
      (by simp [withoutJob]) (by simp [withoutJob]) (by simp [withoutJob]) ?_
    · rw [map_handed_of_free ((h.jobs asked).free_of_copy there (purpose.trans kind))]
      simp [withoutJob]
    · rw [if_neg fun free => (Job.discardedFrom_iff.mp free).1 a (purpose.trans kind)]
    · rw [(wantPass_keeps _).2.2.2.1]
      exact updateRequest_claims (fun _ => rfl) (by simp [withoutJob])
  | push => exact pushed fun a copy => by rw [purpose, kind] at copy; cases copy
  | swap => exact pushed fun a copy => by rw [purpose, kind] at copy; cases copy

/-- A job listed is listed still where a snapshot has gone forward. -/
theorem mem_advanceCopy {j : Job} (there : j ∈ s.copier.jobs) (n : Nat) :
    ∃ i ∈ (advanceCopy n s).copier.jobs, i.age = j.age ∧ i.purpose = j.purpose ∧ i.pages = j.pages := by
  unfold Machine.advanceCopy
  split
  · exact ⟨j, there, rfl, rfl, rfl⟩
  · simp only [copyPixels_keeps]
    refine ⟨_, List.mem_map_of_mem there, ?_⟩
    split <;> exact ⟨rfl, rfl, rfl⟩

/-- The end of a snapshot (R122). -/
theorem Stocked.endSnapshot (h : Stocked k none s) {j : Job} (there : j ∈ s.copier.jobs) :
    Stocked k none (endSnapshot j s) := by
  obtain ⟨i, there', age, purpose, pages⟩ := mem_advanceCopy there j.rect.area
  exact ((h.advanceCopy j.rect.area).handSnapshot there' age purpose pages).judgeJobs

end

end Sys2Proof.Machine
end

section
/-!
PROOF. Requests and snapshots that are posted, and the overlay entries they take and leave (chapters 03 and 07).
-/

namespace Sys2Proof.Machine

open Sys2Proof.Safety

section
variable {k : Stocks} {spared spared' : Option Job} {s u : State}

/-! ### Pages taken (R60, R61) -/

/-- Pages are taken: those that were free and come to be held. -/
theorem Stocked.takes (h : Stocked k spared s) {n : Nat} (free : u.pool.free = s.pool.free.drop n)
    (table : k.jobs → TableFits u) (jobs : k.jobs → JobsFit spared' u)
    (moved : k.pages → (heldPages u).Perm (s.pool.free.take n ++ heldPages s)) (lists : k.pages → ListsFit s → ListsFit u) :
    Stocked k spared' u := by
  refine ⟨fun asked => ?_, table, jobs, fun asked => (pagesLaw_iff u).mpr ?_⟩
  · rw [freePagesLaw, free]
    exact (h.rising asked).drop
  · obtain ⟨whole, fit⟩ := (pagesLaw_iff s).mp (h.pages asked)
    exact ⟨by rw [free]; exact perm_taken n whole (moved asked), lists asked fit⟩

/-- With enough pages free, an allocation has those its rectangle needs (R61). -/
theorem allocation_length {r : Rect} (enough : tooFewPages r s = false) : (allocation r s).length = pagesNeeded r := by
  simp only [tooFewPages, decide_eq_false_iff_not, Nat.not_lt] at enough
  exact Nat.le_antisymm (List.length_take_le ..) enough

/-- Requests, entries and jobs that come have the pages they need. -/
theorem ListsFit.more (h : ListsFit s)
    (requests : ∀ q ∈ u.req.table, q ∈ s.req.table ∨ ∀ pages, q.pages = some pages → pages.length = pagesNeeded q.rect)
    (overlays : ∀ o ∈ u.copier.overlays, o ∈ s.copier.overlays ∨ o.pages.length = pagesNeeded o.rect)
    (jobs : ∀ j ∈ u.copier.jobs, j ∈ s.copier.jobs ∨ j.pages.length = pagesNeeded j.rect) : ListsFit u :=
  ⟨fun q live => (requests q live).elim (h.requests q) id, fun o there => (overlays o there).elim (h.overlays o) id,
    fun j there => (jobs j there).elim (h.jobs j) id⟩

/-! ### Requests posted (R48, R127, R131) -/

theorem TableFits.posted (h : TableFits s) {r : Request} (table : u.req.table = s.req.table ++ [r])
    (line : u.req.line = s.req.line) (first : s.req.nextAge ≤ r.age) (next : u.req.nextAge = r.age + 1) : TableFits u := by
  refine ⟨?_, fun q live => ?_, fun p there q live own => ?_, fun p there => ?_⟩
  · rw [table, List.pairwise_append]
    refine ⟨h.ages, List.pairwise_singleton _ _, fun q live r' last => ?_⟩
    rw [List.mem_singleton.mp last]
    exact Nat.lt_of_lt_of_le (h.bound q live) first
  · rw [table, List.mem_append, List.mem_singleton] at live
    rw [next]
    rcases live with live | rfl
    · have := h.bound q live
      omega
    · exact Nat.lt_succ_self _
  · rw [line] at there
    rw [table, List.mem_append, List.mem_singleton] at live
    rcases live with live | rfl
    · exact h.line p there q live own
    · have := h.lineBound p there
      omega
  · rw [line] at there
    have := h.lineBound p there
    omega

theorem tablePages_append (t : List Request) (r : Request) : tablePages (t ++ [r]) = tablePages t ++ r.pages.getD [] := by
  simp [tablePages]

/-- A request is posted, with the pages it takes. -/
theorem Stocked.posted (h : Stocked k spared s) {r : Request} {n : Nat} (table : u.req.table = s.req.table ++ [r])
    (line : u.req.line = s.req.line) (first : s.req.nextAge ≤ r.age) (next : u.req.nextAge = r.age + 1)
    (geometry : u.px.geometry = s.px.geometry) (copier : u.copier = s.copier) (free : u.pool.free = s.pool.free.drop n)
    (given : r.pages.getD [] = s.pool.free.take n)
    (length : ∀ pages, r.pages = some pages → pages.length = pagesNeeded r.rect) : Stocked k spared u := by
  refine h.takes free (fun asked => (h.table asked).posted table line first next) (fun asked => ?_) (fun _ => ?_) fun _ fit => ?_
  · refine (h.jobs asked).tabled geometry copier (by omega) fun q live _ _ _ _ => ⟨q, ?_, rfl⟩
    rw [table]
    exact List.mem_append_left _ live
  · rw [heldPages_eq, heldPages_eq, table, copier, tablePages_append, given, List.perm_iff_count]
    intro a
    simp only [List.count_append]
    omega
  · refine fit.more (fun q live => ?_) (fun o there => .inl (copier ▸ there)) fun j there => .inl (copier ▸ there)
    rw [table, List.mem_append, List.mem_singleton] at live
    exact live.imp_right fun same => by rw [same]; exact length

theorem Stocked.postUpdate (h : Stocked k spared s) (f : PostUpdate)
    (enough : f.source = .inflow → tooFewPages f.rect s = false) : Stocked k spared (postUpdate f s) := by
  unfold Machine.postUpdate
  by_cases inflow : f.source = .inflow
  · refine h.posted (r := postedRequest f s s.req.nextAge) (n := pagesNeeded f.rect) ?_ (by simp [inflow]) (Nat.le_refl _) ?_
      (by simp [inflow]) (by simp [inflow]) (by simp [inflow, takePages]) ?_ fun pages held => ?_
    · simp [createRequest_req, inflow]
    · simp [createRequest_req, inflow, postedRequest, newRequest]
    · simp [postedRequest, newRequest, inflow, allocation]
    · simp only [postedRequest, newRequest, inflow, if_true, Option.some.injEq] at held
      rw [← held]
      exact allocation_length (enough inflow)
  · refine h.posted (r := postedRequest f s s.req.nextAge) (n := 0) ?_ (by simp [inflow]) (Nat.le_refl _) ?_ (by simp [inflow])
      (by simp [inflow]) (by simp [inflow]) ?_ fun pages held => ?_
    · simp [createRequest_req, inflow]
    · simp [createRequest_req, inflow, postedRequest, newRequest]
    · simp [postedRequest, newRequest, inflow]
    · simp [postedRequest, newRequest, inflow] at held

/-! ### Snapshots posted (R119, R127, R129, R133) -/

/-- A job joins the list, PENDING; what it fills is there, or it is spared it. -/
theorem JobsFit.created (h : JobsFit none s) {j : Job} (jobs : u.copier.jobs = s.copier.jobs ++ [j])
    (overlays : u.copier.overlays = s.copier.overlays) (geometry : u.px.geometry = s.px.geometry)
    (pending : j.state = .pending) (first : s.req.nextAge ≤ j.age) (next : j.age < u.req.nextAge)
    (rect : rectCheck s.px.geometry j.rect = none)
    (filled : ∀ r ∈ s.req.table, ∃ q ∈ u.req.table, q.claim = r.claim) (place : spared = some j ∨ j.placed u)
    (spares : ∀ i, spared = some i → i = j ∧ (∀ age, j.purpose ≠ .copy age) ∧ j.rounding = false) : JobsFit spared u := by
  have listed : ∀ {i : Job}, i ∈ u.copier.jobs → i ∈ s.copier.jobs ∨ i = j := by
    intro i there
    rwa [jobs, List.mem_append, List.mem_singleton] at there
  have notRunning : j.running = false := by simp [Job.running, pending]
  refine ⟨?_, ?_, fun i there => ?_, fun i there => ?_, by rw [overlays]; exact h.distinct, fun o there age own => ?_,
    fun i same => ?_⟩
  · rw [jobs, List.pairwise_append]
    refine ⟨h.ages, List.pairwise_singleton _ _, fun i there j' last => ?_⟩
    rw [List.mem_singleton.mp last]
    exact Nat.lt_of_lt_of_le (h.each i there).1 first
  · rw [jobs, List.filter_append, List.filter_cons_of_neg (by simp [notRunning])]
    simpa using h.alone
  · rw [geometry]
    rcases listed there with old | rfl
    · obtain ⟨bound, rest⟩ := h.each i old
      exact ⟨by omega, rest⟩
    · exact ⟨next, rect, fun done half state => by rw [pending] at state; cases state⟩
  · rcases listed there with old | rfl
    · have there := (h.placed i old).resolve_left (by simp)
      refine .inr ?_
      unfold Job.placed at there ⊢
      rw [overlays]
      cases purpose : i.purpose with
      | copy age =>
        rw [purpose] at there
        obtain ⟨r, live, own, fills⟩ := there
        obtain ⟨q, live', same⟩ := filled r live
        exact ⟨q, live', (Request.claim_eq_iff.mp same).1.trans own, Request.filledBy_of_claim same fills⟩
      | push | swap => rw [purpose] at there; exact there
    · exact place
  · rw [overlays] at there
    obtain ⟨i, old, rest⟩ := h.captured o there age own
    exact ⟨i, by rw [jobs]; exact List.mem_append_left _ old, rest⟩
  · obtain ⟨rfl, notCopy, exact'⟩ := spares i same
    refine ⟨by rw [jobs]; exact List.mem_append_right _ (List.mem_singleton_self _), notCopy, exact', fun o there own => ?_⟩
    rw [overlays] at there
    obtain ⟨d, old, age, -⟩ := h.captured o there _ own
    have := (h.each d old).1
    omega

/-- The pages of a job that joins the list are the copier's, unless it is a COPY job. -/
theorem copierPages_created (h : JobsFit none s) {j : Job} (jobs : u.copier.jobs = s.copier.jobs ++ [j])
    (overlays : u.copier.overlays = s.copier.overlays) (first : s.req.nextAge ≤ j.age) :
    copierPages u.copier = copierPages s.copier ++ if j.purpose = .push ∨ j.purpose = .swap then j.pages else [] := by
  have free : ∀ o ∈ s.copier.overlays, o.capturing ≠ some j.age := fun o there own => by
    obtain ⟨d, old, age, -⟩ := h.captured o there _ own
    have := (h.each d old).1
    omega
  rw [copierPages_eq, copierPages_eq, jobs, overlays, List.filter_append, List.flatMap_append, ← List.append_assoc]
  congr 1
  cases purpose : j.purpose with
  | copy age => simp [Job.discardedFrom, purpose]
  | push | swap =>
    rw [List.filter_cons_of_pos (Job.discardedFrom_iff.mpr ⟨by simp [purpose], free⟩)]
    simp

/-- A PUSH or SWAP job is posted with its pages, its entry still to come (R129, R133). -/
theorem Stocked.startSnapshot (h : Stocked k none s) {purpose : JobPurpose} (kind : purpose = .push ∨ purpose = .swap) {r : Rect}
    (rect : k.jobs → rectCheck s.px.geometry r = none) (enough : tooFewPages r s = false) :
    Stocked k (some (newJob purpose r (allocation r s) false s.req.nextAge))
      (createJob (newJob purpose r (allocation r s) false) (takePages r s)) := by
  have notCopy : ∀ age, purpose ≠ .copy age := by rcases kind with rfl | rfl <;> simp
  have jobs : (createJob (newJob purpose r (allocation r s) false) (takePages r s)).copier.jobs
      = s.copier.jobs ++ [newJob purpose r (allocation r s) false s.req.nextAge] := by simp [createJob]
  refine h.takes (n := pagesNeeded r) (by simp [takePages]) (fun asked => ?_) (fun asked => ?_) (fun asked => ?_) fun _ fit => ?_
  · exact (h.table asked).same (by simp [createJob]) (by simp) (by simp)
  · refine (h.jobs asked).created jobs (by simp) (by simp) rfl (Nat.le_refl _) (by simp [createJob, newJob]) (rect asked)
      (fun q live => ⟨q, by simpa using live, rfl⟩) (.inl rfl) fun i same => ⟨(Option.some.inj same).symm, notCopy, rfl⟩
  · rw [heldPages_eq, heldPages_eq, copierPages_created (h.jobs (k.withPages asked)) jobs (by simp) (Nat.le_refl _)]
    rw [if_pos (by simpa [newJob] using kind), List.perm_iff_count]
    intro a
    simp only [createJob_keeps, takePages_keeps, newJob, allocation, List.count_append]
    omega
  · refine fit.more (fun q live => .inl (by simpa using live)) (fun o there => .inl (by simpa using there)) fun j there => ?_
    rw [jobs, List.mem_append, List.mem_singleton] at there
    exact there.imp_right fun same => by rw [same]; exact allocation_length enough

/-- The job of a POST_COPY, and its request (R127). -/
def copyJob (source : Rect) (c : PostChoice) (s : State) : Job :=
  newJob (.copy (s.req.nextAge + 1)) source (allocation source s) (decide (c.mode = .quick)) s.req.nextAge

def copyRequest (tag : Nat) (source destination : Rect) (c : PostChoice) (s : State) : Request :=
  newRequest (s.req.nextAge + 1) tag .copy destination c.mode c.ghost c.collision false (some (allocation source s))

/-- A COPY job is posted with its pages and its request (R127). -/
theorem Stocked.postCopy (h : Stocked k none s) (tag : Nat) {source destination : Rect} (c : PostChoice)
    (rect : k.jobs → rectCheck s.px.geometry source = none) (enough : tooFewPages source s = false)
    (width : destination.width = source.width) (height : destination.height = source.height)
    (needs : pagesNeeded destination = pagesNeeded source) : Stocked k none (postCopy tag source destination c s) := by
  refine Stocked.judgeJobs ?_
  generalize posted : createRequest _ _ = u
  have table : u.req.table = s.req.table ++ [copyRequest tag source destination c s] := by
    rw [← posted, createRequest_req]
    rfl
  have nextAge : u.req.nextAge = s.req.nextAge + 2 := by
    rw [← posted, createRequest_req]
    rfl
  have jobs : u.copier.jobs = s.copier.jobs ++ [copyJob source c s] := by
    simp only [← posted, createRequest_keeps]
    rfl
  have overlays : u.copier.overlays = s.copier.overlays := by simp [← posted]
  have geometry : u.px.geometry = s.px.geometry := by simp [← posted]
  have free : u.pool.free = s.pool.free.drop (pagesNeeded source) := by simp [← posted, takePages]
  have line : u.req.line = s.req.line := by simp [← posted]
  refine h.takes free (fun asked => (h.table asked).posted table line (Nat.le_succ _) nextAge) (fun asked => ?_) (fun asked => ?_)
    fun _ fit => ?_
  · refine (h.jobs asked).created jobs overlays geometry rfl (Nat.le_refl _) ?_ (rect asked) (fun q live => ⟨q, ?_, rfl⟩)
      (.inr ⟨copyRequest tag source destination c s, ?_, rfl, rfl, rfl, ?_, rfl, width, height, ?_⟩) fun i no => by cases no
    · simp only [copyJob, newJob]
      omega
    · rw [table]
      exact List.mem_append_left _ live
    · rw [table]
      exact List.mem_append_right _ (List.mem_singleton_self _)
    · simp [copyRequest, newRequest]
    · simp [copyJob, newJob, copyRequest, newRequest]
  · rw [heldPages_eq, heldPages_eq, copierPages_created (h.jobs (k.withPages asked)) jobs overlays (Nat.le_refl _), table,
      tablePages_append, if_neg (by simp [copyJob, newJob]), List.perm_iff_count]
    intro a
    simp only [copyRequest, newRequest, allocation, Option.getD_some, List.count_append, List.count_nil]
    omega
  · refine fit.more (fun q live => ?_) (fun o there => .inl (overlays ▸ there)) fun j there => ?_
    · rw [table, List.mem_append, List.mem_singleton] at live
      refine live.imp_right fun same pages held => ?_
      rw [same] at held ⊢
      simp only [copyRequest, newRequest, Option.some.injEq] at held ⊢
      rw [← held, needs]
      exact allocation_length enough
    · rw [jobs, List.mem_append, List.mem_singleton] at there
      exact there.imp_right fun same => by rw [same]; exact allocation_length enough

/-! ### Overlay entries placed and discarded (R128 to R133) -/

/-- An entry joins the stack with the snapshot that was spared it (R129, R133). -/
theorem Stocked.placeOverlay {j : Job} (h : Stocked k (some j) s) {o : Overlay} (rect : o.rect = j.rect) (pages : o.pages = j.pages)
    (captures : o.capturing = some j.age) : Stocked k none (placeOverlay o s) := by
  have overlays : (Machine.placeOverlay o s).copier.overlays = s.copier.overlays ++ [o] := rfl
  refine h.gives (pages := []) rfl (fun asked => (h.table asked).same (Nat.le_refl _) rfl rfl) (fun asked => ?_)
    (fun asked => ?_) fun asked fit => ?_
  · have law := h.jobs asked
    obtain ⟨there, notCopy, exact', free⟩ := law.spares j rfl
    refine ⟨law.ages, law.alone, law.each, fun i listed => .inr ?_, ?_, fun d listed age own => ?_, fun i no => by cases no⟩
    · rcases law.placed i listed with same | place
      · cases same
        unfold Job.placed
        cases purpose : j.purpose with
        | copy age => exact absurd purpose (notCopy age)
        | push | swap => exact ⟨exact', .inr ⟨o, List.mem_append_right _ (List.mem_singleton_self _), captures⟩⟩
      · unfold Job.placed at place ⊢
        cases purpose : i.purpose with
        | copy age => rw [purpose] at place; exact place
        | push | swap =>
          rw [purpose] at place
          exact ⟨place.1, place.2.imp_right fun ⟨d, there, own⟩ => ⟨d, List.mem_append_left _ there, own⟩⟩
    · rw [overlays, List.pairwise_append]
      refine ⟨law.distinct, List.pairwise_singleton _ _, fun d listed e last => .inr fun same => ?_⟩
      rw [List.mem_singleton.mp last, captures] at same
      exact free d listed same
    · rcases List.mem_append.mp listed with old | last
      · exact law.captured d old age own
      · rw [List.mem_singleton.mp last] at own ⊢
        rw [captures, Option.some.injEq] at own
        exact ⟨j, there, own, notCopy, rect.symm, pages.symm⟩
  · have law := h.jobs (k.withPages asked)
    obtain ⟨there, notCopy, -, free⟩ := law.spares j rfl
    have split := perm_cons_filter (key := fun j : Job => j.age) law.ages there
    have before := (split.filter (Job.discardedFrom s.copier.overlays)).flatMap_right fun j => j.pages
    have after := (split.filter (Job.discardedFrom (s.copier.overlays ++ [o]))).flatMap_right fun j => j.pages
    rw [List.filter_cons_of_pos (Job.discardedFrom_iff.mpr ⟨notCopy, free⟩)] at before
    rw [List.filter_cons_of_neg fun kind => (Job.discardedFrom_iff.mp kind).2 o (by simp) captures] at after
    have others : (s.copier.jobs.filter fun i => i.age ≠ j.age).filter (Job.discardedFrom (s.copier.overlays ++ [o]))
        = (s.copier.jobs.filter fun i => i.age ≠ j.age).filter (Job.discardedFrom s.copier.overlays) := by
      refine List.filter_congr fun i kept => ?_
      have other : i.age ≠ j.age := by simpa using (List.mem_filter.mp kept).2
      rw [Bool.eq_iff_iff, Job.discardedFrom_iff, Job.discardedFrom_iff, List.forall_mem_append]
      refine and_congr_right fun _ => and_iff_left ?_
      simp [captures, Ne.symm other]
    rw [others] at after
    rw [heldPages_eq, heldPages_eq, copierPages_eq, copierPages_eq, overlays, List.flatMap_append]
    rw [List.perm_iff_count] at before after ⊢
    intro a
    have b := before a
    have c := after a
    simp only [Machine.placeOverlay, List.flatMap_cons, List.flatMap_nil, List.append_nil, List.nil_append, List.count_append,
      pages] at b c ⊢
    omega
  · have there := ((h.jobs (k.withPages asked)).spares j rfl).there
    refine fit.more (fun q live => .inl live) (fun d listed => ?_) fun i listed => .inl listed
    refine (List.mem_append.mp listed).imp_right fun last => ?_
    rw [List.mem_singleton.mp last, rect, pages]
    exact fit.jobs j there

/-- An entry of a stack whose capture is of its own. -/
theorem JobsFit.other_captures (h : JobsFit spared s) {o : Overlay} {rest : List Overlay}
    (stack : s.copier.overlays = o :: rest) {age : Nat} (captures : o.capturing = some age) :
    ∀ d ∈ rest, d.capturing ≠ some age := by
  have distinct := h.distinct
  rw [stack, List.pairwise_cons] at distinct
  intro d there own
  rcases distinct.1 d there with none | apart
  · rw [captures] at none
    cases none
  · exact apart (captures.trans own.symm)

/-- The bottom entry leaves, and its pages return unless its job is RUNNING, which then holds them: a PENDING one leaves too
(R130). -/
theorem Stocked.discards (h : Stocked k spared s) {o : Overlay} {rest : List Overlay} (stack : s.copier.overlays = o :: rest)
    {p : Job → Bool} {pages : List Nat} (overlays : u.copier.overlays = rest) (jobs : u.copier.jobs = s.copier.jobs.filter p)
    (req : u.req = s.req) (geometry : u.px.geometry = s.px.geometry) (free : u.pool.free = pages.foldl insertPage s.pool.free)
    (gone : ∀ j, p j = false → o.capturing = some j.age)
    (given : (k.jobs → ∀ j ∈ s.copier.jobs, o.capturing = some j.age → p j = false) ∧ pages = o.pages
      ∨ (k.jobs → ∀ j ∈ s.copier.jobs, o.capturing = some j.age → j.running = true) ∧ pages = []
        ∧ o.capturing.isSome = true ∧ ∀ j, p j = true) : Stocked k spared u := by
  have sub : ∀ d ∈ rest, d ∈ s.copier.overlays := fun d there => by rw [stack]; exact List.mem_cons_of_mem _ there
  have top : o ∈ s.copier.overlays := by rw [stack]; exact List.mem_cons_self
  refine h.gives free (fun asked => (h.table asked).same (by rw [req]) (by rw [req]) (by rw [req])) (fun asked => ?_)
    (fun asked => ?_) fun asked fit => ?_
  · have law := h.jobs asked
    have distinct := law.distinct
    rw [stack, List.pairwise_cons] at distinct
    refine law.fewer geometry (by rw [req]) jobs (by rw [overlays]; exact distinct.2) ?_ (fun d there j listed own _ => ?_)
      (fun j listed kept d there own => ?_) (fun r live _ _ _ _ _ => ⟨r, by rw [req]; exact live, rfl⟩) fun j same => ?_
    · rw [overlays]
      exact fun d there age own => ⟨d, sub d there, own, rfl, rfl⟩
    · rw [overlays] at there
      by_contra dropped
      exact law.other_captures stack (gone j (by simpa using dropped)) d there own
    · rw [overlays]
      rw [stack, List.mem_cons] at there
      rcases there with rfl | there
      · rcases given with ⟨leaves, -⟩ | ⟨runs, -⟩
        · rw [leaves asked j listed own] at kept
          cases kept
        · exact .inl (runs asked j listed own)
      · exact .inr ⟨d, there, own⟩
    · by_contra dropped
      exact (law.spares j same).free o top (gone j (by simpa using dropped))
  · have law := h.jobs (k.withPages asked)
    have split : ∀ j, Job.discardedFrom s.copier.overlays j = true ↔
        o.capturing ≠ some j.age ∧ Job.discardedFrom rest j = true := fun j => by
      rw [stack, Job.discardedFrom_iff, Job.discardedFrom_iff, List.forall_mem_cons]
      tauto
    rw [heldPages_eq, heldPages_eq, copierPages_eq, copierPages_eq, overlays, jobs, req]
    rcases given with ⟨leaves, rfl⟩ | ⟨runs, rfl, captures, all⟩
    · have same : (s.copier.jobs.filter p).filter (Job.discardedFrom rest)
          = s.copier.jobs.filter (Job.discardedFrom s.copier.overlays) := by
        rw [List.filter_filter]
        refine List.filter_congr fun j listed => ?_
        rw [Bool.eq_iff_iff, Bool.and_eq_true, split, and_comm]
        refine and_congr_left fun _ => ⟨fun kept own => ?_, fun other => ?_⟩
        · rw [leaves (k.withPages asked) j listed own] at kept
          cases kept
        · by_contra dropped
          exact other (gone j (by simpa using dropped))
      rw [same, stack, List.perm_iff_count]
      intro a
      simp only [List.flatMap_cons, List.count_append]
      omega
    · obtain ⟨age, captures⟩ := Option.isSome_iff_exists.mp captures
      obtain ⟨j, listed, rfl, notCopy, -, pages⟩ := law.captured o top age captures
      have jobsSplit := perm_cons_filter (key := fun j : Job => j.age) law.ages listed
      have before := (jobsSplit.filter (Job.discardedFrom s.copier.overlays)).flatMap_right fun j => j.pages
      have after := (jobsSplit.filter (Job.discardedFrom rest)).flatMap_right fun j => j.pages
      rw [List.filter_cons_of_neg fun kind => ((split j).mp kind).1 captures] at before
      rw [List.filter_cons_of_pos (Job.discardedFrom_iff.mpr ⟨notCopy, law.other_captures stack captures⟩)] at after
      have others : (s.copier.jobs.filter fun i => i.age ≠ j.age).filter (Job.discardedFrom s.copier.overlays)
          = (s.copier.jobs.filter fun i => i.age ≠ j.age).filter (Job.discardedFrom rest) := by
        refine List.filter_congr fun i kept => ?_
        have other : i.age ≠ j.age := by simpa using (List.mem_filter.mp kept).2
        rw [Bool.eq_iff_iff, split]
        refine and_iff_right ?_
        rw [captures]
        simpa using Ne.symm other
      rw [others] at before
      rw [List.filter_eq_self.mpr fun i _ => all i]
      rw [stack, List.perm_iff_count] at before ⊢
      rw [List.perm_iff_count] at after
      intro a
      have b := before a
      have c := after a
      simp only [List.flatMap_cons, List.count_append, List.nil_append, pages] at b c ⊢
      omega
  · refine fit.fewer (fun q live => ⟨q, by rwa [req] at live, .inl rfl, rfl⟩) (fun d there => ?_) fun j there => ?_
    · rw [overlays] at there
      exact ⟨d, sub d there, rfl, rfl⟩
    · rw [jobs] at there
      exact ⟨j, (List.mem_filter.mp there).1, rfl, rfl⟩

/-- A push onto a full stack (R130). -/
theorem Stocked.discardBottom (h : Stocked k spared s) : Stocked k spared (discardBottom s) := by
  unfold Machine.discardBottom
  split
  · exact h
  · split
    · exact h
    · rename_i o rest stack
      refine Stocked.same (s := releaseOverlay o { s with copier := { s.copier with overlays := rest } }) ?_ (by simp [State.stock])
      unfold releaseOverlay
      split
      · rename_i free
        exact h.discards stack (p := fun _ => true) (pages := o.pages) rfl (List.filter_true _).symm rfl rfl rfl
          (fun _ no => by cases no) (.inl ⟨fun _ j _ own => (by rw [free] at own; cases own), rfl⟩)
      · rename_i age captures
        split
        · rename_i runs
          refine h.discards stack (p := fun _ => true) (pages := []) rfl (List.filter_true _).symm rfl rfl rfl
            (fun _ no => by cases no) (.inr ⟨fun asked j listed own => ?_, rfl, by rw [captures]; rfl, fun _ => rfl⟩)
          obtain ⟨i, there, here⟩ := List.any_eq_true.mp runs
          simp only [Bool.and_eq_true, decide_eq_true_eq] at here
          rw [captures, Option.some.injEq] at own
          rw [(h.jobs asked).eq_of_age listed there (own.symm.trans here.1.symm)]
          exact here.2
        · refine h.discards stack (p := fun j => !decide (j.age = age)) (pages := o.pages) (by simp [returnPages])
            (by simp [dropJobs_jobs]) (by simp) (by simp) (by simp [returnPages]) (fun j dropped => ?_)
            (.inl ⟨fun _ j _ own => ?_, rfl⟩)
          · rw [captures, Option.some.injEq]
            exact (by simpa using dropped : j.age = age).symm
          · rw [captures, Option.some.injEq] at own
            rw [Bool.not_eq_false', decide_eq_true_eq]
            exact own.symm

/-- OVERLAY_PUSH (R129, R130). -/
theorem Stocked.overlayPush (h : Stocked k none s) {r : Rect} (rect : k.jobs → rectCheck s.px.geometry r = none)
    (enough : tooFewPages r s = false) : Stocked k none (overlayPush r s) :=
  (((h.startSnapshot (.inl rfl) rect enough).discardBottom).placeOverlay
    (o := { rect := r, pages := allocation r s, capturing := some s.req.nextAge }) rfl rfl rfl).judgeJobs

/-- The top entry leaves the stack, and its pages pass to the request that restores it (R131). -/
theorem Stocked.overlayPop (h : Stocked k spared s) (tag : Nat) (c : PostChoice) {o : Overlay}
    (top : s.copier.overlays.getLast? = some o) (still : o.capturing = none) : Stocked k spared (overlayPop tag c o s) := by
  obtain ⟨rest, stack⟩ := List.getLast?_eq_some_iff.mp top
  have sub : ∀ d ∈ rest, d ∈ s.copier.overlays := fun d there => by rw [stack]; exact List.mem_append_left _ there
  have table : (Machine.overlayPop tag c o s).req.table = s.req.table ++ [overlayRequest tag c o s.req.nextAge] := by
    simp [Machine.overlayPop, createRequest_req]
  have overlays : (Machine.overlayPop tag c o s).copier.overlays = rest := by
    simp [Machine.overlayPop, stack]
  have jobs : (Machine.overlayPop tag c o s).copier.jobs = s.copier.jobs := by simp [Machine.overlayPop]
  have captured : ∀ d ∈ s.copier.overlays, ∀ age, d.capturing = some age → d ∈ rest := fun d there age own => by
    rw [stack, List.mem_append, List.mem_singleton] at there
    refine there.resolve_right fun same => ?_
    rw [same, still] at own
    cases own
  refine h.gives (pages := []) (by simp [Machine.overlayPop]) (fun asked => ?_) (fun asked => ?_) (fun asked => ?_) fun asked fit => ?_
  · exact (h.table asked).posted table (by simp [Machine.overlayPop]) (Nat.le_refl _)
      (by simp [Machine.overlayPop, createRequest_req, overlayRequest, newRequest])
  · have law := h.jobs asked
    have distinct := law.distinct
    rw [stack, List.pairwise_append] at distinct
    refine law.fewer (p := fun _ => true) (by simp [Machine.overlayPop]) (by simp [Machine.overlayPop, createRequest_req])
      (by rw [jobs, List.filter_true]) (by rw [overlays]; exact distinct.1) ?_ (fun _ _ _ _ _ _ => rfl) ?_
      (fun r live _ _ _ _ _ => ⟨r, ?_, rfl⟩) fun _ _ => rfl
    · rw [overlays]
      exact fun d there age own => ⟨d, sub d there, own, rfl, rfl⟩
    · rw [overlays]
      exact fun j _ _ d there own => .inr ⟨d, captured d there j.age own, own⟩
    · rw [table]
      exact List.mem_append_left _ live
  · have same : s.copier.jobs.filter (Job.discardedFrom rest) = s.copier.jobs.filter (Job.discardedFrom s.copier.overlays) := by
      refine List.filter_congr fun j _ => ?_
      rw [Bool.eq_iff_iff, Job.discardedFrom_iff, Job.discardedFrom_iff]
      exact and_congr_right fun _ => ⟨fun free d there own => free d (captured d there j.age own) own,
        fun free d there => free d (sub d there)⟩
    rw [heldPages_eq, heldPages_eq, copierPages_eq, copierPages_eq, overlays, jobs, same, table, tablePages_append, stack,
      List.perm_iff_count]
    intro a
    simp only [overlayRequest, newRequest, Option.getD_some, List.flatMap_append, List.flatMap_cons, List.flatMap_nil,
      List.count_append, List.count_nil]
    omega
  · refine fit.more (fun q live => ?_) (fun d there => .inl (sub d (overlays ▸ there))) fun j there => .inl (jobs ▸ there)
    rw [table, List.mem_append, List.mem_singleton] at live
    refine live.imp_right fun same pages held => ?_
    rw [same] at held ⊢
    simp only [overlayRequest, newRequest, Option.some.injEq] at held ⊢
    rw [← held]
    exact fit.overlays o (by rw [stack]; simp)

/-- OVERLAY_SWAP is a snapshot posted, the top entry popped, and the new entry placed (R133). -/
theorem overlaySwap_eq (tag : Nat) (c : PostChoice) (o : Overlay) (s : State) : overlaySwap tag c o s =
    judgeJobs (placeOverlay { rect := o.rect, pages := allocation o.rect s, capturing := some s.req.nextAge }
      (overlayPop tag c o (createJob (newJob .swap o.rect (allocation o.rect s) false) (takePages o.rect s)))) := by
  unfold overlaySwap overlayPop createRequest reportHold
  dsimp only
  congr 1
  split <;> rename_i holds
  · rw [if_pos (by exact holds)]
    rfl
  · rw [if_neg (by exact holds)]
    rfl

theorem Stocked.overlaySwap (h : Stocked k none s) (tag : Nat) (c : PostChoice) {o : Overlay}
    (top : s.copier.overlays.getLast? = some o) (still : o.capturing = none)
    (rect : k.jobs → rectCheck s.px.geometry o.rect = none) (enough : tooFewPages o.rect s = false) :
    Stocked k none (overlaySwap tag c o s) := by
  rw [overlaySwap_eq]
  exact (((h.startSnapshot (.inr rfl) rect enough).overlayPop tag c (by simpa using top) still).placeOverlay
    (o := { rect := o.rect, pages := allocation o.rect s, capturing := some s.req.nextAge }) rfl rfl rfl).judgeJobs

end

end Sys2Proof.Machine
end

section
/-!
PROOF. Passes and the end of every event, RESTART and CONFIGURE, and every command keep jobs and pages (chapters 01 to 11).
-/

namespace Sys2Proof.Machine

open Sys2Proof.Safety

section
variable {k : Stocks} {s u : State}

/-! ### Passes and the end of every event (R80, R81) -/

theorem Stocked.resolveUnsupported (h : Stocked k none s) (age : Nat) : Stocked k none (resolveUnsupported age s) :=
  ((h.same (u := resolveEntry age .unsupported s) (by simp [State.stock])).judgeFinish age).judgeJobs

theorem Stocked.runPass (ages : List Nat) {s : State} (h : Stocked k none s) : Stocked k none (runPass ages s) := by
  have ended : Stocked k none (endPass s) := h.same (by simp [State.stock])
  induction ages generalizing s with
  | nil => exact ended
  | cons age rest ih =>
    have on {t : State} (held : Stocked k none t) := ih held (held.same (by simp [State.stock]))
    unfold Machine.runPass
    split
    · split
      · exact on h
      · split
        · exact on h
        · split
          · split
            · exact on (h.resolveUnsupported age)
            · exact h.same (by simp [State.stock, beginWalk])
          · exact ended
    · exact on h

theorem Stocked.resumePass (h : Stocked k none s) (age : Nat) : Stocked k none (resumePass age s) := by
  unfold Machine.resumePass
  split
  · exact h.same (by simp [State.stock])
  · exact h.runPass _

theorem Stocked.finish (h : Stocked k none s) (b : State) : Stocked k none (finish b s) := by
  have noted : Stocked k none (noteHolds b s) := h.same (by simp [State.stock])
  have passed : Stocked k none (tryPass (noteHolds b s)) := by
    unfold tryPass startPass
    split
    · exact Stocked.runPass _ (noted.same (by simp [State.stock]))
    · exact noted
  exact passed.same (by simp [Machine.finish, State.stock])

/-! ### Walks of admission and retirement (R42, R112) -/

theorem Stocked.endWalk (h : Stocked k none s) (w : AdmissionWalk) : Stocked k none (endWalk w s) := by
  unfold Machine.endWalk
  split
  · rename_i r e _ _
    refine Stocked.resumePass (Stocked.judgeAfter (Stocked.judgeFinish ?_ _) _) _
    exact h.same (by simp [State.stock])
  · exact Stocked.resumePass (h.same (by simp [State.stock])) _

theorem Stocked.endRetirement (h : Stocked k none s) (l : LaneId) (ln : Lane) (kind : WalkKind) :
    Stocked k none (endRetirement l ln kind s) := by
  have freed : Stocked k none (freeTheLane l (advanceRetire l ln.rect.area s)) := h.same (by simp [State.stock, freeTheLane])
  have reported : Stocked k none (reportPart ln kind (freeTheLane l (advanceRetire l ln.rect.area s))) := by
    unfold reportPart
    split
    · refine Stocked.judgeFinish (freed.same ?_) _
      rw [State.stock_eq_iff]
      exact ⟨rfl, rfl, rfl, rfl, rfl, updateRequest_claims (Request.behindWalk_claim ln kind) rfl⟩
    · exact freed
  exact (reported.same (u := wantPass _) (by simp [State.stock])).judgeJobs

/-! ### Frames and rail faults (R105, R115) -/

/-- Operations in a row that leave claims alone. -/
theorem foldl_claims {α : Type} {f : State → α → State}
    (step : ∀ s a, (f s a).req.table.map Request.claim = s.req.table.map Request.claim) (l : List α) (s : State) :
    (l.foldl f s).req.table.map Request.claim = s.req.table.map Request.claim := by
  induction l generalizing s with
  | nil => rfl
  | cons a l ih => exact (ih (f s a)).trans (step s a)

@[simp] theorem advanceLane_claims (s : State) (l : LaneId) :
    (advanceLane s l).req.table.map Request.claim = s.req.table.map Request.claim := by
  unfold advanceLane starveLane
  (repeat' split) <;> simp

@[simp] theorem advanceLanes_claims (mark : FrameMark) (s : State) :
    (advanceLanes mark s).req.table.map Request.claim = s.req.table.map Request.claim := by
  cases mark with
  | driven =>
    rw [advanceLanes]
    exact foldl_claims advanceLane_claims _ s
  | frozen => rfl

theorem Stocked.completeFrame (h : Stocked k none s) (f : Frame) : Stocked k none (completeFrame f s) :=
  Stocked.judgeAfter (h.same (by simp [State.stock, endFrame])) s

@[simp] theorem loseLane_claims (s : State) (l : LaneId) :
    (loseLane s l).req.table.map Request.claim = s.req.table.map Request.claim := by
  unfold loseLane
  (repeat' split) <;> simp

@[simp] theorem flushAll_claims (s : State) :
    (flushAll s).req.table.map Request.claim = s.req.table.map Request.claim := by
  unfold flushAll
  split
  · refine foldl_claims (fun t age => ?_) _ s
    unfold flushRequest
    (repeat' split) <;> simp
  · rfl

theorem Stocked.judgeAll (h : Stocked k none s) : Stocked k none (judgeAll s) := by
  unfold Machine.judgeAll
  generalize s.req.table.map (fun r => r.age) = ages
  induction ages generalizing s with
  | nil => exact h
  | cons age ages ih => exact ih (h.judgeFinish age)

theorem Stocked.railFault (h : Stocked k none s) : Stocked k none (railFault s) := by
  have lost : Stocked k none (flushAll (allLanes.foldl loseLane (faultRails s))) := by
    refine h.same ?_
    rw [State.stock_eq_iff, flushAll_claims, foldl_claims loseLane_claims]
    simp
  exact Stocked.judgeAfter (lost.judgeAll.same (by simp [State.stock])) s

theorem Stocked.takeSample (h : Stocked k none s) (high : Bool) : Stocked k none (takeSample high s) := by
  have sampled : Stocked k none { s with rails := filterSample high s.rails } := h.same rfl
  unfold Machine.takeSample
  dsimp only
  split
  · exact sampled.same (by simp [State.stock])
  · split
    · exact sampled.railFault
    · exact sampled

/-! ### Chunk writes (R69) -/

theorem Stocked.endChunkWrite (h : Stocked k none s) (c : Chunk) : Stocked k none (endChunkWrite c s) := by
  have counted : Stocked k none (countRows c (writeEnded (advanceChunk c.data.length s))) :=
    h.same (by simp [State.stock, writeEnded_keeps])
  rw [endChunkWrite_eq]
  exact (counted.returnHeldPages c.age).same (by simp [State.stock])

/-! ### RESTART and CONFIGURE (R59, R134, R165, R169) -/

/-- Without jobs and entries the law of jobs asks for nothing. -/
theorem JobsFit.empty (copier : u.copier = Copier.initial) : JobsFit none u := by
  refine ⟨?_, ?_, ?_, ?_, ?_, ?_, fun j no => by cases no⟩ <;> rw [copier] <;> simp [Copier.initial]

/-- The pages of requests of which some leave, with some of the pages. -/
theorem tablePages_split {stays : Request → Bool} {g : Request → Request} {given : Request → List Nat} (t : List Request)
    (kept : ∀ r ∈ t, stays r = true → r.pages.getD [] = given r ++ (g r).pages.getD [])
    (gone : ∀ r ∈ t, stays r = false → r.pages.getD [] = given r) :
    (tablePages t).Perm (t.flatMap given ++ tablePages ((t.filter stays).map g)) := by
  induction t with
  | nil => exact .refl _
  | cons r t ih =>
    have rest := ih (fun q there => kept q (List.mem_cons_of_mem _ there)) fun q there => gone q (List.mem_cons_of_mem _ there)
    rw [List.perm_iff_count] at rest ⊢
    intro a
    have count := rest a
    cases here : stays r with
    | true =>
      have split := kept r List.mem_cons_self here
      rw [List.filter_cons_of_pos here]
      simp only [tablePages, List.map_cons, List.flatMap_cons, List.count_append, split] at count ⊢
      omega
    | false =>
      have split := gone r List.mem_cons_self here
      rw [List.filter_cons_of_neg (by simp [here])]
      simp only [tablePages, List.flatMap_cons, List.count_append, split] at count ⊢
      omega

theorem restart_free (s : State) : (restart s).pool.free =
    (s.req.table.flatMap (restartPages s) ++ copierPages s.copier).foldl insertPage s.pool.free := by
  have pages : restartPages (restartLanes s) = restartPages s := funext fun r => (judged_restartLanes s r).2.2.2
  have units : (restart s).pool = (emptyCopier (restartInflow (restartRequests (restartLanes s)))).pool := by simp [restart]
  rw [units, emptyCopier, (clientAbandon_keeps _ _).2.2.2.2.2.1, List.foldl_append]
  simp [restartRequests, returnPages, pages]

/-- A COMPLETE walk is of a lane, and its request stays (R59). -/
theorem staysWithdrawn_of_completing {r : Request} (completes : completing s r.tag = true) : staysWithdrawn s r = true := by
  obtain ⟨l, ln, done, lane, tag, -⟩ := completing_iff.mp completes
  exact Bool.or_eq_true_iff.mpr (.inr (anyLane_true_iff.mpr ⟨l, ln, lane, tag⟩))

theorem Stocked.restart (h : Stocked k none s) : Stocked k none (restart s) := by
  have req := restart_req s
  have copier : (Machine.restart s).copier = Copier.initial := (restart_clears s).2.1
  have claim : ∀ r : Request, (withdrawnRequest s r).age = r.age ∧ (withdrawnRequest s r).rect = r.rect
      ∧ (withdrawnRequest s r).pages = if completing s r.tag then r.pages else none := fun r =>
    ⟨(withdrawnRequest_keeps s r).1, (withdrawnRequest_keeps s r).2.2.1, rfl⟩
  refine h.gives (restart_free s) (fun asked => ⟨?_, ?_, ?_, ?_⟩) (fun _ => .empty copier) (fun asked => ?_) fun asked fit => ?_
  · rw [req, List.pairwise_map]
    exact ((h.table asked).ages.filter _).imp fun lt => by rw [(claim _).1, (claim _).1]; exact lt
  · rw [req]
    intro q there
    obtain ⟨r, live, rfl⟩ := List.mem_map.mp there
    rw [(claim r).1]
    exact (h.table asked).bound r (List.mem_filter.mp live).1
  · rw [req]
    intro p no
    cases no
  · rw [req]
    intro p no
    cases no
  · have split := tablePages_split (stays := staysWithdrawn s) (g := withdrawnRequest s) (given := restartPages s) s.req.table
      (fun r _ _ => ?_) fun r _ leaves => ?_
    · have none : copierPages Copier.initial = [] := rfl
      rw [heldPages_eq, heldPages_eq, copier, req, none, List.append_nil]
      rw [List.perm_iff_count] at split ⊢
      intro a
      have count := split a
      simp only [List.count_append] at count ⊢
      omega
    · rw [restartPages, (claim r).2.2]
      split <;> simp
    · rw [restartPages, if_neg]
      intro completes
      rw [staysWithdrawn_of_completing completes] at leaves
      cases leaves
  · refine fit.fewer (fun q there => ?_) (fun o there => ?_) fun j there => ?_
    · rw [req] at there
      obtain ⟨r, live, rfl⟩ := List.mem_map.mp there
      refine ⟨r, (List.mem_filter.mp live).1, ?_, (claim r).2.1⟩
      rw [(claim r).2.2]
      split <;> simp
    · rw [copier] at there
      cases there
    · rw [copier] at there
      cases there

/-- The copier is emptied, and its pages return; the geometry may change with it (R134). -/
theorem Stocked.emptied (h : Stocked k none s) (copier : u.copier = Copier.initial) (req : u.req = s.req)
    (free : u.pool.free = (copierPages s.copier).foldl insertPage s.pool.free) : Stocked k none u := by
  refine h.gives free (fun asked => (h.table asked).same (by rw [req]) (by rw [req]) (by rw [req])) (fun _ => .empty copier)
    (fun _ => ?_) fun _ fit => ?_
  · have none : copierPages Copier.initial = [] := rfl
    rw [heldPages_eq, heldPages_eq, copier, none, List.append_nil, req]
    exact List.perm_append_comm
  · refine fit.fewer (fun q there => ⟨q, by rwa [req] at there, .inl rfl, rfl⟩) (fun o there => ?_) fun j there => ?_ <;>
      rw [copier] at there <;> cases there

theorem Stocked.newTable (h : Stocked k none s) (g : Geometry) : Stocked k none (newTable g s) :=
  h.emptied (by simp [Machine.newTable, Machine.emptyCopier]) (by simp)
    (by simp [Machine.newTable, Machine.emptyCopier, returnPages])

end

end Sys2Proof.Machine
end

section
/-!
PROOF. Settles O56: every command keeps stores, free page list, jobs and pages, and with it every step.
-/

namespace Sys2Proof.Machine

open Sys2Proof.Safety

section
variable {k : Stocks} {s u : State}

/-! ### Taking a command (R160, R161) -/

theorem Stocked.atRisingEdge (h : Stocked k none s) (t : Transfer) : Stocked k none (atRisingEdge t s) :=
  h.same (by simp [State.stock])

/-- A row that takes a command keeps the laws where its effect does, and the rule behind its reply leaves the stock. The effect
finds geometry and overlay entries as they were. -/
theorem Stocked.takeCommand (h : Stocked k none s) {kind : Kind} {t : Transfer} {admits : List Byte → Bool}
    {effect : List Byte → State → Effect} {after : State → State} (next : Machine.takeCommand kind t admits effect after s = .next u)
    (taken : ∀ p v, v.px = s.px → v.copier = s.copier → Stocked k none v → Stocked k none (effect p v).1)
    (later : ∀ v, (after v).stock = v.stock) : Stocked k none u := by
  rcases takeCommand_next next with rfl | ⟨seq, p, -, rfl⟩
  · exact h.atRisingEdge t
  · have ended := (taken p _ (by simp) (by simp) (h.atRisingEdge t)).finish (Machine.atRisingEdge t s)
    exact (ended.same (u := placeReply _ _ _ _ _) (by simp [State.stock])).same (later _)

theorem Stocked.takeKind (h : Stocked k none s) {kind : Kind} {t : Transfer} {effect : List Byte → State → Effect}
    (next : Machine.takeKind kind t effect s = .next u)
    (taken : ∀ p v, v.px = s.px → v.copier = s.copier → Stocked k none v → Stocked k none (effect p v).1) : Stocked k none u :=
  h.takeCommand next taken fun _ => rfl

/-- A row whose effect leaves the stock alone. -/
theorem Stocked.quietKind (h : Stocked k none s) {kind : Kind} {t : Transfer} {effect : List Byte → State → Effect}
    (next : Machine.takeKind kind t effect s = .next u) (taken : ∀ p v, (effect p v).1.stock = v.stock) : Stocked k none u :=
  h.takeKind next fun p v _ _ held => held.same (taken p v)

theorem takeCounters_stock (p : List Byte) (s : State) : (takeCounters p s).1.stock = s.stock := by
  unfold takeCounters; split <;> rfl

theorem takeRails_stock (p : List Byte) (s : State) : (takeRails p s).1.stock = s.stock := by
  unfold takeRails railsOffEffect clearFaultEffect; (repeat' split) <;> simp [State.stock]

theorem takeFreeze_stock (on : Bool) (p : List Byte) (s : State) : (takeFreeze on p s).1.stock = s.stock := by
  unfold takeFreeze; split <;> rfl

theorem takeAssume_stock (p : List Byte) (s : State) : (takeAssume p s).1.stock = s.stock := by
  unfold takeAssume; split <;> simp [State.stock, refused, accepted]

theorem acceptPixels_claims (f : PixelsFields) (r : Request) (s : State) :
    (acceptPixels f r s).req.table.map Request.claim = s.req.table.map Request.claim := by
  unfold acceptPixels
  rw [(takeNextChunk_keeps _).2.2.2.1, (armLatch_keeps _).2.2.2.1]
  exact updateRequest_claims (fun _ => rfl) rfl

theorem takePixels_stock (p : List Byte) (s : State) : (takePixels p s).1.stock = s.stock := by
  unfold takePixels
  dsimp only
  (repeat' split) <;> simp [State.stock, refused, acceptPixels_claims]

/-! ### Commands that post, cancel, offer and configure -/

theorem Stocked.takeReadLog (h : Stocked k none s) (p : List Byte) : Stocked k none (takeReadLog p s).1 := by
  unfold Machine.takeReadLog
  split
  · exact h
  · exact Stocked.offerRecords (h.same rfl)

/-- Only source 0 is the inflow (R41). -/
theorem postUpdateFields_inflow {p : List Byte} {f : PostUpdate} (fields : postUpdateFields p = some f)
    (inflow : f.source = .inflow) : field p 13 1 = 0 := by
  unfold postUpdateFields at fields
  split at fields
  · cases fields
  · split at fields
    · cases fields
    · rename_i source named
      split at fields <;> cases fields
      subst inflow
      unfold sourceField at named
      split at named
      · assumption
      · split at named <;> cases named
      · cases named

/-- What the checks of POST_UPDATE leave: enough pages for an inflow image (R60). -/
theorem postUpdateCheck_enough {p : List Byte} {f : PostUpdate} (passed : postUpdateCheck p s = none)
    (fields : postUpdateFields p = some f) (inflow : f.source = .inflow) : tooFewPages f.rect s = false := by
  simp only [postUpdateCheck, Option.or_eq_none_iff, failIf_eq_none_iff] at passed
  obtain ⟨-, -, -, -, -, enough⟩ := passed
  rw [(postUpdateFields_some fields).2]
  simpa [postUpdateFields_inflow fields inflow] using enough

theorem Stocked.takePostUpdate (h : Stocked k none s) (p : List Byte) : Stocked k none (takePostUpdate p s).1 := by
  unfold Machine.takePostUpdate
  split
  · exact h
  · rename_i passed
    split
    · rename_i f fields
      exact h.postUpdate f fun inflow => postUpdateCheck_enough passed fields inflow
    · exact h

theorem Stocked.takePostCopy (h : Stocked k none s) (p : List Byte) : Stocked k none (takePostCopy p s).1 := by
  unfold Machine.takePostCopy
  split
  · exact h
  · rename_i passed
    split
    · simp only [postCopyCheck, snapshotCheck, Option.or_eq_none_iff, failIf_eq_none_iff] at passed
      obtain ⟨-, -, ok, -, -, -, -, enough⟩ := passed
      exact h.postCopy _ _ (fun _ => ok) enough rfl rfl rfl
    · exact h

theorem Stocked.takeOverlayPush (h : Stocked k none s) (p : List Byte) : Stocked k none (takeOverlayPush p s).1 := by
  unfold Machine.takeOverlayPush
  split
  · exact h
  · rename_i passed
    simp only [overlayPushCheck, snapshotCheck, Option.or_eq_none_iff, failIf_eq_none_iff] at passed
    obtain ⟨-, -, ok, -, enough⟩ := passed
    exact h.overlayPush (fun _ => ok) enough

/-- What the checks of OVERLAY_POP leave: a top entry that is not CAPTURING (R131). -/
theorem overlayPopCheck_still {p : List Byte} (passed : overlayPopCheck p s = none) {o : Overlay} (top : topOverlay s = some o) :
    o.capturing = none := by
  simp only [overlayPopCheck, top, Option.or_eq_none_iff, failIf_eq_none_iff] at passed
  obtain ⟨-, -, -, -, still, -⟩ := passed
  simpa using still

theorem Stocked.takeOverlayPop (h : Stocked k none s) (p : List Byte) : Stocked k none (takeOverlayPop p s).1 := by
  unfold Machine.takeOverlayPop
  split
  · exact h
  · rename_i passed
    split
    · rename_i c o _ top
      exact h.overlayPop _ c top (overlayPopCheck_still passed top)
    · exact h

theorem Stocked.takeOverlaySwap (h : Stocked k none s) (inside : k.jobs → ∀ o ∈ s.copier.overlays, rectCheck s.px.geometry o.rect = none)
    (p : List Byte) : Stocked k none (takeOverlaySwap p s).1 := by
  unfold Machine.takeOverlaySwap
  split
  · exact h
  · rename_i passed
    split
    · rename_i c o _ top
      simp only [overlaySwapCheck, top, snapshotCheck, Option.or_eq_none_iff, failIf_eq_none_iff] at passed
      obtain ⟨pop, -, enough⟩ := passed
      exact h.overlaySwap _ c top (overlayPopCheck_still pop top)
        (fun asked => inside asked o (List.mem_of_getLast? top)) enough
    · exact h

theorem Stocked.cancelNow (h : Stocked k none s) {cut : Request → State → State} (quiet : ∀ r v, (cut r v).stock = v.stock)
    (r : Request) : Stocked k none (cancelNow r cut s) := by
  have cut' : Stocked k none (cut r (closeTally r.age s)) :=
    (h.same (u := closeTally r.age s) (by simp [State.stock])).same (quiet r _)
  exact (cut'.judgeFinish r.age).judgeAfter s

theorem Stocked.cancelRequest (h : Stocked k none s) (r : Request) (force : Bool) : Stocked k none (cancelRequest r force s).1 := by
  unfold Machine.cancelRequest
  split
  · split
    · exact h.same (by simp [State.stock, accepted])
    · exact h
  · split
    · split
      · exact h.cancelNow (fun r v => by simp [State.stock]) r
      · exact h
    · exact h.cancelNow (fun r v => by simp [State.stock]) r

theorem Stocked.takeCancel (h : Stocked k none s) (p : List Byte) : Stocked k none (takeCancel p s).1 := by
  unfold Machine.takeCancel
  split
  · exact h
  · split
    · exact h
    · split
      · exact h
      · split
        · exact h
        · exact h.cancelRequest _ _

theorem Stocked.takeRestart (h : Stocked k none s) (p : List Byte) : Stocked k none (takeRestart p s).1 := by
  unfold Machine.takeRestart
  split
  · exact h
  · exact h.restart

theorem Stocked.takeConfigure (h : Stocked k none s) (p : List Byte) : Stocked k none (takeConfigure p s).1 := by
  unfold Machine.takeConfigure
  split
  · exact h
  · have applied : Stocked k none (applySettings (configSettings p) s) := h.same rfl
    simp only [accepted, applyGeometry]
    split
    · exact applied
    · exact applied.newTable _

/-! ### Events -/

theorem placeReply_stock (kind seq : Byte) (r : Result) (body : List Byte) (s : State) :
    (placeReply kind seq r body s).stock = s.stock := by
  simp [State.stock]

theorem Stocked.failLink (h : Stocked k none s) (r : Result) (seq : Byte) (t : Transfer) :
    Stocked k none (failLink r seq t s) := by
  have taken := h.atRisingEdge t
  unfold Machine.failLink
  dsimp only
  split
  · exact taken
  · have raised : Stocked k none (raise .linkError { Machine.atRisingEdge t s with counters :=
        { (Machine.atRisingEdge t s).counters with frameErrors := bump (Machine.atRisingEdge t s).counters.frameErrors } }) :=
      taken.same (by simp [State.stock])
    exact (raised.finish _).same (placeReply_stock ..)

theorem Stocked.serveBurst (h : Stocked k none s) (who : Requester) (units : Nat) : Stocked k none (serveBurst who units s) := by
  cases who with
  | copier => exact h.advanceCopy _
  | scanner | retirement _ | admission | initialisation | inflow => exact h.same (by simp [State.stock, Machine.serveBurst])
  | library => exact h.same rfl

theorem Stocked.finishBurst (h : Stocked k none s) (who : Requester) (units : Nat) : Stocked k none (finishBurst who units s) := by
  have served := h.serveBurst who units
  unfold Machine.finishBurst
  dsimp only
  split
  · exact served.same (by simp [State.stock])
  · exact served

theorem Stocked.lastBursts (h : Stocked k none s) (who : Requester) : Stocked k none (lastBursts who s) :=
  h.same (by simp [State.stock])

theorem Stocked.endPixelWalk (h : Stocked k none s) : Stocked k none (endPixelWalk s) :=
  Stocked.judgeJobs (h.same (by simp [State.stock]))

theorem Stocked.reset (link : LinkPort) (epoch : Nat) (pending : List Instr) : Stocked k none (State.initial link epoch pending) := by
  have free := free_initial link epoch pending
  refine ⟨fun _ => ?_, fun _ => ⟨.nil, fun _ mem => ?_, fun _ mem => ?_, fun _ mem => ?_⟩, fun _ => .empty rfl,
    fun _ => ⟨?_, fun _ mem => ?_, fun _ mem => ?_, fun _ mem => ?_⟩⟩
  · rw [freePagesLaw, free]
    exact List.pairwise_lt_range
  case refine_5 =>
    have held : heldPages (State.initial link epoch pending) = [] := rfl
    rw [free, held, List.append_nil]
  all_goals cases mem

/-- Every command keeps the laws. -/
theorem Stocked.exec {c : Instr} (h : Stocked k none s) (rects : k.jobs → rectLaw s) (next : exec c s = .next u) :
    Stocked k none u := by
  cases c with
  | powerOn => cases next; exact .reset _ _ _
  | resetPin => cases next; exact .reset _ _ _
  | ident t => exact h.quietKind next fun p v => by unfold takeIdent; split <;> rfl
  | status t =>
    exact h.takeCommand next (fun p v _ _ held => held.same (by unfold takeStatus; split <;> rfl)) fun v => by simp [State.stock]
  | countersRead t => exact h.takeCommand next (fun p v _ _ held => held.same (takeCounters_stock p v)) fun _ => rfl
  | countersReadAndClear t =>
    exact h.takeCommand next (fun p v _ _ held => held.same (takeCounters_stock p v)) fun v => by simp [State.stock]
  | configure t => exact h.takeKind next fun p _ _ _ held => held.takeConfigure p
  | restart t => exact h.takeKind next fun p _ _ _ held => held.takeRestart p
  | noticeSet t => exact h.quietKind next fun p v => by unfold takeNoticeSet; split <;> rfl
  | noticeTake t => exact h.quietKind next fun p v => by unfold takeNoticeTake; split <;> simp [State.stock, refused]
  | readLog t => exact h.takeKind next fun p _ _ _ held => held.takeReadLog p
  | libBegin t => exact h.quietKind next fun p v => by unfold takeLibBegin; split <;> simp [State.stock, refused]
  | libData t => exact h.quietKind next fun p v => by unfold takeLibData; (repeat' split) <;> simp [State.stock, refused]
  | libCommit t => exact h.quietKind next fun p v => by unfold takeLibCommit; split <;> simp [State.stock, refused, accepted]
  | libAbandon t => exact h.quietKind next fun p v => by unfold takeLibAbandon; split <;> simp [State.stock, refused, accepted]
  | temp t => exact h.quietKind next fun p v => by unfold takeTemp; split <;> simp [State.stock, refused]
  | railsOff t => exact h.takeCommand next (fun p v _ _ held => held.same (takeRails_stock p v)) fun _ => rfl
  | railsClearFault t => exact h.takeCommand next (fun p v _ _ held => held.same (takeRails_stock p v)) fun _ => rfl
  | postUpdate t => exact h.takeKind next fun p _ _ _ held => held.takePostUpdate p
  | pixels t => exact h.quietKind next takePixels_stock
  | cancel t => exact h.takeKind next fun p _ _ _ held => held.takeCancel p
  | clearDiscard t => exact h.quietKind next fun p v => by unfold takeClearDiscard; split <;> rfl
  | postCopy t => exact h.takeKind next fun p _ _ _ held => held.takePostCopy p
  | overlayPush t => exact h.takeKind next fun p _ _ _ held => held.takeOverlayPush p
  | overlayPop t => exact h.takeKind next fun p _ _ _ held => held.takeOverlayPop p
  | overlaySwap t =>
    refine h.takeKind next fun p v px copier held => held.takeOverlaySwap (fun asked => ?_) p
    rw [px, copier]
    exact (rects asked).1
  | freeze t => exact h.quietKind next (takeFreeze_stock true)
  | thaw t => exact h.quietKind next (takeFreeze_stock false)
  | assume t => exact h.quietKind next takeAssume_stock
  | transactionStart =>
    simp only [Machine.exec, execTransactionStart] at next
    split at next <;> cases next
    exact h.same (by simp [State.stock])
  | poll t =>
    simp only [Machine.exec, execPoll] at next
    split at next <;> cases next
    exact h.atRisingEdge t
  | linkFailure t =>
    simp only [Machine.exec, execLinkFailure] at next
    split at next <;> cases next
    exact h.failLink _ _ _
  | initialisationWalkEnd =>
    simp only [Machine.exec, execInitialisationWalkEnd] at next
    split at next <;> cases next
    exact (h.lastBursts _).endPixelWalk.finish s
  | assumeWalkEnd =>
    simp only [Machine.exec, execAssumeWalkEnd] at next
    split at next <;> cases next
    exact ((h.same (u := advancePixelWalk _ (Machine.lastBursts .initialisation s)) (by simp [State.stock])).endPixelWalk).finish s
  | libChunkWriteEnd =>
    simp only [Machine.exec, execLibChunkWriteEnd] at next
    split at next <;> cases next
    exact Stocked.finish (h.same (by simp [State.stock])) s
  | commitWalkEnd =>
    simp only [Machine.exec, execCommitWalkEnd] at next
    split at next <;> cases next
    exact Stocked.finish (h.same (by simp [State.stock])) s
  | inflowChunkWriteEnd =>
    simp only [Machine.exec, execInflowChunkWriteEnd] at next
    split at next <;> cases next
    exact ((h.lastBursts _).endChunkWrite _).finish s
  | admissionWalkEnd =>
    simp only [Machine.exec, execAdmissionWalkEnd] at next
    split at next <;> cases next
    exact ((h.lastBursts _).endWalk _).finish s
  | frameStart =>
    simp only [Machine.exec, execFrameStart] at next
    (repeat' split at next) <;> cases next
    exact Stocked.finish (h.same (by simp [State.stock])) s
  | frameCompletion =>
    simp only [Machine.exec, execFrameCompletion] at next
    split at next <;> cases next
    exact ((h.lastBursts _).completeFrame _).finish s
  | retirementWalkEnd l =>
    simp only [Machine.exec, execRetirementWalkEnd] at next
    (repeat' split at next) <;> cases next
    exact ((h.lastBursts _).endRetirement _ _ _).finish s
  | copierJobEnd =>
    simp only [Machine.exec, execCopierJobEnd] at next
    split at next <;> cases next
    rename_i running
    exact ((h.lastBursts _).endSnapshot (by simpa using mem_of_currentJob running)).finish s
  | powerGoodSample high => cases next; exact (h.takeSample high).finish s
  | riseTimeout =>
    simp only [Machine.exec, execRiseTimeout] at next
    split at next <;> cases next
    exact h.railFault.finish s
  | idleTimerExpiry =>
    simp only [Machine.exec, execIdleTimerExpiry] at next
    split at next <;> cases next
    exact Stocked.finish (h.same (by simp [State.stock])) s
  | fallTimeEnd =>
    simp only [Machine.exec, execFallTimeEnd] at next
    split at next <;> cases next
    exact Stocked.finish (h.same (by simp [State.stock])) s
  | intervalTimerExpiry => cases next; exact Stocked.finish (h.same (by simp [State.stock])) s
  | refreshRequest ready => cases next; exact Stocked.finish (h.same (by simp [State.stock])) s
  | refreshEnd ready =>
    simp only [Machine.exec, execRefreshEnd] at next
    split at next <;> cases next
    exact Stocked.finish (h.same (by simp [State.stock])) s
  | burstEnd units ready =>
    simp only [Machine.exec, execBurstEnd] at next
    split at next <;> cases next
    have ready' : Stocked k none (becomeReady ready s) := h.same (by simp [State.stock])
    rename_i who live _
    have served : Stocked k none (if live then Machine.finishBurst who units (becomeReady ready s) else becomeReady ready s) := by
      split
      · exact ready'.finishBurst _ units
      · exact ready'
    exact Stocked.finish (served.same (by simp [State.stock])) s
  | calibrationEnd =>
    simp only [Machine.exec, execCalibrationEnd] at next
    split at next <;> cases next
    exact Stocked.finish (h.same (by simp [State.stock])) s
  | resetRelease =>
    simp only [Machine.exec, execResetRelease] at next
    split at next <;> cases next
    exact h.same rfl

end

/-! ### Every step -/

/-- A step keeps the laws where the state before it has them, with the rectangles of its overlay entries in the pixel table. -/
theorem Stocked.step {k : Stocks} {s u : State} (h : Stocked k none s) (rects : k.jobs → rectLaw s)
    (next : step s = .next u) : Stocked k none u := by
  unfold Machine.step at next
  split at next
  · cases next
    exact h
  · rename_i c rest _
    exact Stocked.exec (s := s.withPending rest) (h.same rfl) rects next

theorem rectLaw_of_ownershipLaw {s : State} (own : ownershipLaw s) : rectLaw s := by
  obtain ⟨-, -, -, -, -, -, -, -, rects⟩ := own
  exact rects

/-- Settles O56: the stores step by step, the free page list, the jobs and the pages as one invariant over the state's stock, of
which each part says which laws it asks for. -/
theorem everyStepKeepsTheStores : Obligations.EveryStepKeepsTheStores := by
  refine ⟨fun s u ⟨stores, rising⟩ next => ⟨?_, ?_⟩, fun s u ⟨own, jobs⟩ next => ?_, fun s u ⟨own, rising, jobs, pages⟩ next => ?_⟩
  · exact step_keeps (law := storeLaw) (fun _ law => law) storeLaw_exec stores next
  · have before : Stocked ⟨True, False, False, id⟩ none s := ⟨fun _ => rising, False.elim, False.elim, False.elim⟩
    exact (before.step False.elim next).rising trivial
  · have before : Stocked ⟨False, True, False, False.elim⟩ none s :=
      ⟨False.elim, fun _ => tableFits_of_ownershipLaw own, fun _ => (jobLaw_iff s).mp jobs, False.elim⟩
    exact (jobLaw_iff u).mpr ((before.step (fun _ => rectLaw_of_ownershipLaw own) next).jobs trivial)
  · have before : Stocked ⟨True, True, True, id⟩ none s :=
      ⟨fun _ => rising, fun _ => tableFits_of_ownershipLaw own, fun _ => (jobLaw_iff s).mp jobs, fun _ => pages⟩
    exact (before.step (fun _ => rectLaw_of_ownershipLaw own) next).pages trivial

end Sys2Proof.Machine
end

section
/-!
PROOF. Settles O28: PIXELS accepted at the next expected row, and refused in the order of its checks (R63 to R66).
-/

namespace Sys2Proof.Machine

open Sys2Proof.Safety

/-! ### Refusals -/

/-- The row expected next, as replies carry it, is that of the request the tag names (R63, R65). -/
theorem nextRow_of_findTag {tag : Nat} {s : State} {r : Request} {tally : Tally} (found : findTag s tag = some r)
    (open' : r.tally = some tally) : nextRow tag s = leBytes 2 tally.rowsAccepted := by
  simp [nextRow, found, open']

/-- What PIXELS does where a check fails: it counts the refusal, and ROW_ORDER alone carries a row. -/
theorem takePixels_of_refusal {p : List Byte} {s : State} {r : Result} (refusal : pixelsCheck (pixelsFields p) p s = some r) :
    takePixels p s = (countRefusal s, r, if r = .rowOrder then nextRow (pixelsFields p).tag else noBody) := by
  unfold takePixels
  simp only [refusal]
  cases r <;> rfl

/-- What PIXELS does where every check passes. -/
theorem takePixels_of_passed {p : List Byte} {s : State} {r : Request} (passed : pixelsCheck (pixelsFields p) p s = none)
    (found : findTag s (pixelsFields p).tag = some r) :
    takePixels p s = (acceptPixels (pixelsFields p) r s, .ok,
      fun _ => leBytes 2 ((pixelsFields p).firstRow + (pixelsFields p).rowCount)) := by
  unfold takePixels
  simp only [passed, found]

/-- The checks of PIXELS read nothing of the link. -/
theorem pixelsCheck_atRisingEdge (f : PixelsFields) (p : List Byte) (t : Transfer) (s : State) :
    pixelsCheck f p (atRisingEdge t s) = pixelsCheck f p s := by
  rw [atRisingEdge_eq]
  rfl

/-- A PIXELS refused answers with the check that failed, counts in the inflow refusals, and changes nothing else but the link. -/
theorem pixels_refused {t : Transfer} {s : State} {seq : Byte} {p : List Byte} {r : Result} (live : linkTakes s)
    (rest : settled s) (arrives : arrivalOf t = .command .pixels seq p) (refusal : pixelsCheck (pixelsFields p) p s = some r) :
    ∃ u, exec (.pixels t) s = .next u
      ∧ answers u .pixels seq r (if r = .rowOrder then nextRow (pixelsFields p).tag s else [])
      ∧ u = { s with link := u.link, counters := { s.counters with inflowRefusals := bump s.counters.inflowRefusals } } := by
  have taken := takePixels_of_refusal (s := atRisingEdge t s) ((pixelsCheck_atRisingEdge _ _ t s).trans refusal)
  obtain ⟨u, next, reply, same⟩ := takeKind_untouched live arrives taken
    (finish_untouched (settled_atRisingEdge t rest) rfl rfl rfl rfl rfl rfl rfl rfl rfl rfl)
  rw [atRisingEdge_eq] at same reply
  refine ⟨u, next, ?_, same⟩
  split at reply
  · rename_i order
    rw [if_pos order]
    exact reply
  · rename_i other
    rw [if_neg other]
    exact reply

/-- The checks of link and tag never find a row out of order (R65). -/
theorem pixelsChecks_ne_rowOrder {p : List Byte} {s : State} {r : Result} (refusal : firstRefusal (pixelsChecks p s) = some r) :
    r ≠ .rowOrder := by
  simp only [pixelsChecks, firstRefusal_cons, firstRefusal_nil, failIf] at refusal
  rintro rfl
  split at refusal
  · cases refusal
  · split at refusal
    · cases refusal
    · split at refusal <;> cases refusal

/-- A row out of order is one of an INFLOW request (R65). -/
theorem rowsChecks_inflow {p : List Byte} {s : State} {q : Request} {tally : Tally}
    (refusal : firstRefusal (rowsChecks p q tally s) = some .rowOrder) : q.source = .inflow := by
  by_contra other
  simp [rowsChecks, firstRefusal_cons, failIf, other] at refusal

/-! ### Acceptance (R66, R68, R72) -/

/-- The request's record with the rows that a chunk brings counted (R66). -/
def Request.withRows (n : Nat) (r : Request) : Request :=
  { r with tally := r.tally.map fun t => { t with rowsAccepted := t.rowsAccepted + n } }

theorem acceptPixels_eq (f : PixelsFields) (r : Request) (s : State) :
    acceptPixels f r s = takeNextChunk (armLatch (updateRequest r.age (Request.withRows f.rowCount)
      { s with inflow := { s.inflow with buffer := s.inflow.buffer ++ [f.chunk r] } })) := rfl

/-- The record of the request counts the rows. -/
theorem findAge_acceptPixels {f : PixelsFields} {r : Request} {s : State} (found : findAge s r.age = some r) :
    findAge (acceptPixels f r s) r.age = some (r.withRows f.rowCount) := by
  have same : (acceptPixels f r s).req.table = (updateRequest r.age (Request.withRows f.rowCount) s).req.table := by
    rw [acceptPixels_eq]
    simp [updateRequest]
  rw [findAge_congr same, findAge_updateRequest (f := Request.withRows f.rowCount) fun _ => rfl]
  simp [found]

/-- A chunk at the tail fills the buffer by its bytes. -/
theorem fillLevel_append {s : State} {i : Inflow} {c : Chunk} (buffer : i.buffer = s.inflow.buffer ++ [c]) :
    fillLevel { s with inflow := i } = fillLevel s + c.data.length := by
  simp [fillLevel, buffer]

/-- The state in which the writer finds the buffer: the chunk at the tail, the latch judged, all else of the inflow as it was. -/
theorem armLatch_pushed (c : Chunk) (g : Request → Request) (s : State) :
    (armLatch (updateRequest c.age g { s with inflow := { s.inflow with buffer := s.inflow.buffer ++ [c] } })).inflow =
      { s.inflow with
        buffer := s.inflow.buffer ++ [c]
        latch := s.inflow.latch || decide (s.settings.highWatermark ≤ fillLevel s + c.data.length) } := by
  have fill : fillLevel (updateRequest c.age g { s with inflow := { s.inflow with buffer := s.inflow.buffer ++ [c] } })
      = fillLevel s + c.data.length := fillLevel_append rfl
  unfold armLatch
  rw [fill]
  split
  · rename_i high
    have high : s.settings.highWatermark ≤ fillLevel s + c.data.length := high
    simp [high, updateRequest]
  · rename_i low
    have low : ¬ s.settings.highWatermark ≤ fillLevel s + c.data.length := low
    simp [low, updateRequest]

/-- A writer that is busy takes nothing. -/
theorem takeNextChunk_busy {s : State} (busy : s.inflow.writing ≠ none) : takeNextChunk s = s := by
  simp [takeNextChunk, Option.isSome_iff_ne_none.mpr busy]

/-- An idle writer begins the write of the oldest chunk, if its request wants it. -/
theorem takeNextChunk_idle {s : State} {c : Chunk} {later : List Chunk} (free : s.inflow.writing = none)
    (buffer : s.inflow.buffer = c :: later) (wanted : chunkUnwanted s c = false) :
    takeNextChunk s = beginWait .inflow { s with inflow := { s.inflow with writing := some 0 } } := by
  simp [takeNextChunk, takeChunks, free, buffer, wanted]

theorem chunkUnwanted_of_open {s : State} {c : Chunk} {r : Request} {rows : Nat} (found : findAge s c.age = some r)
    (open' : r.tally = some { rowsAccepted := rows, closed := false }) : chunkUnwanted s c = false := by
  simp [chunkUnwanted, found, open']

/-- The inflow behind an acceptance, where the writer is busy, or the chunk is the only one (R66, R68, R72): the chunk at the
tail, written from now on where the writer is idle. -/
theorem acceptPixels_inflow {f : PixelsFields} {r : Request} {s : State} {rows : Nat} (found : findAge s r.age = some r)
    (open' : r.tally = some { rowsAccepted := rows, closed := false })
    (prompt : s.inflow.writing ≠ none ∨ s.inflow.buffer = []) :
    (acceptPixels f r s).inflow =
        { s.inflow with
          buffer := s.inflow.buffer ++ [f.chunk r]
          writing := s.inflow.writing <|> some 0
          latch := s.inflow.latch || decide (s.settings.highWatermark ≤ fillLevel s + f.data.length) }
      ∧ (acceptPixels f r s).notices = s.notices := by
  have pushed := armLatch_pushed (f.chunk r) (Request.withRows f.rowCount) s
  have accepted := findAge_acceptPixels (f := f) found
  rw [acceptPixels_eq] at accepted ⊢
  change (armLatch (updateRequest r.age _ _)).inflow = _ at pushed
  generalize shape : armLatch (updateRequest r.age _ _) = v at pushed accepted ⊢
  rw [findAge_congr (s := v) (by simp)] at accepted
  have notices : v.notices = s.notices := by simp [← shape, updateRequest]
  cases writing : s.inflow.writing with
  | some done =>
    rw [takeNextChunk_busy (by simp [pushed, writing]), pushed]
    exact ⟨by simp only [writing]; rfl, notices⟩
  | none =>
    have empty : s.inflow.buffer = [] := prompt.resolve_left (by simp [writing])
    have wanted : chunkUnwanted v (f.chunk r) = false :=
      chunkUnwanted_of_open (rows := rows + f.rowCount) accepted (by simp [Request.withRows, open'])
    rw [takeNextChunk_idle (later := []) (by simp [pushed, writing]) (by simp [pushed, empty]) wanted]
    simp only [beginWait_keeps, pushed]
    exact ⟨rfl, notices⟩

/-- An acceptance leaves holds and trigger, so that no pass starts behind it: requests and flags end as it leaves them. -/
theorem finish_acceptPixels {s : State} (rest : settled s) (f : PixelsFields) (r : Request) :
    (finish s (acceptPixels f r s)).req = (acceptPixels f r s).req
      ∧ (finish s (acceptPixels f r s)).notices.flags = (acceptPixels f r s).notices.flags := by
  obtain ⟨noPass, -⟩ := rest
  have same : held (acceptPixels f r s) = held s := held_congr (by simp) (by simp) (by simp) (by simp) (by simp)
  rw [finish_without_pass (by rw [same]; simpa using noPass) same]
  simp

/-- A PIXELS that passes every check answers OK with the row behind its rows, and leaves requests, inflow and flags as the
acceptance does. -/
theorem pixels_accepted {t : Transfer} {s : State} {seq : Byte} {p : List Byte} {r : Request} (live : linkTakes s)
    (rest : settled s) (arrives : arrivalOf t = .command .pixels seq p) (passed : pixelsCheck (pixelsFields p) p s = none)
    (found : findTag s (pixelsFields p).tag = some r) :
    ∃ u link, exec (.pixels t) s = .next u
      ∧ answers u .pixels seq .ok (leBytes 2 ((pixelsFields p).firstRow + (pixelsFields p).rowCount))
      ∧ u.req = (acceptPixels (pixelsFields p) r { s with link := link }).req
      ∧ u.inflow = (acceptPixels (pixelsFields p) r { s with link := link }).inflow
      ∧ u.notices.flags = (acceptPixels (pixelsFields p) r { s with link := link }).notices.flags := by
  have found' : findTag (atRisingEdge t s) (pixelsFields p).tag = some r := by
    rw [atRisingEdge_eq]
    exact found
  have taken := takePixels_of_passed ((pixelsCheck_atRisingEdge _ _ t s).trans passed) found'
  obtain ⟨u, next, reply, same⟩ := takeKind_answers live arrives taken
  obtain ⟨req, flags⟩ := finish_acceptPixels (settled_atRisingEdge t rest) (pixelsFields p) r
  have inflow := same.inflow.trans (by simp : _ = (acceptPixels (pixelsFields p) r (atRisingEdge t s)).inflow)
  rw [← same.req] at req
  rw [← same.notices] at flags
  rw [atRisingEdge_eq] at req flags inflow
  exact ⟨u, _, next, reply, req, inflow, flags⟩

/-! ### The checks of a request with an open tally -/

/-- What the checks of PIXELS find for a live INFLOW request with rows missing is found by the last four of them (R65). -/
theorem pixelsCheck_open {p : List Byte} {s : State} {r : Request} {rows : Nat} (header : 8 ≤ p.length)
    (length : (pixelsFields p).dataLength = (pixelsFields p).data.length) (calibrated : s.mem.calibrating = false)
    (found : findTag s (pixelsFields p).tag = some r) (stays : r.withdrawn = false) (inflow : r.source = .inflow)
    (open' : r.tally = some { rowsAccepted := rows, closed := false }) (missing : rows ≠ r.rect.height)
    (brings : (pixelsFields p).rowCount ≠ 0) :
    pixelsCheck (pixelsFields p) p s =
      ((failIf (decide ((pixelsFields p).firstRow ≠ rows)) .rowOrder).or <|
        (failIf (decide (r.rect.height < (pixelsFields p).firstRow + (pixelsFields p).rowCount)) .outOfPanel).or <|
        (failIf (decide ((pixelsFields p).dataLength ≠ (pixelsFields p).rowCount * (r.rect.width / 2))) .badLength).or <|
        failIf (decide (freeSpace s < (pixelsFields p).dataLength)) .inflowFull) := by
  have whole : ¬ p.length < 8 := by omega
  simp [pixelsCheck, pixelsLinkCheck, pixelsRequestCheck, failIf, whole, length, calibrated, found, stays, inflow, open', missing,
    brings]

/-- Settles O28: PIXELS is refused by `pixels_refused` and accepted by `pixels_accepted`, according to what the checks find. -/
theorem pixelsAreAcceptedInOrder : Obligations.PixelsAreAcceptedInOrder := by
  refine ⟨fun t s seq p r rows arrives live rest header length calibrated found age stays inflow open' missing brings => ?_,
    fun _ => rfl, fun _ => ⟨rfl, rfl⟩, fun t s seq p r arrives live rest =>
      ⟨fun refusal => ?_, fun q tally passed found of refusal => ?_⟩⟩
  · have check := pixelsCheck_open header length calibrated found stays inflow open' missing brings
    refine ⟨fun order => ?_, fun order room exact' fits => ?_⟩
    · obtain ⟨u, next, reply, same⟩ := pixels_refused live rest arrives (r := .rowOrder)
        (check.trans (by simp [failIf, order]))
      rw [if_pos rfl, nextRow_of_findTag found open'] at reply
      exact ⟨u, next, reply, by rw [same], by rw [same]⟩
    · have passed : pixelsCheck (pixelsFields p) p s = none := by
        rw [check]
        simp [failIf, order, room, exact', exact' ▸ fits]
      obtain ⟨u, link, next, reply, req, buffered, flags⟩ := pixels_accepted live rest arrives passed found
      have age' : findAge { s with link := link } r.age = some r := age
      have record := (findAge_congr (congrArg _ req) r.age).trans (findAge_acceptPixels age')
      rw [order] at reply
      have prompt := acceptPixels_inflow (f := pixelsFields p) age' open'
      refine ⟨u, next, reply, by rw [record]; simp [Request.withRows, open'],
        fun busy => ?_, fun idle empty => ?_, fun soon => ?_⟩
      · obtain ⟨inflow', -⟩ := prompt (.inl busy)
        obtain ⟨done, writing⟩ := Option.ne_none_iff_exists'.mp busy
        rw [buffered, inflow', writing, ← order]
        exact ⟨rfl, rfl⟩
      · obtain ⟨inflow', -⟩ := prompt (.inr empty)
        rw [buffered, inflow', idle, empty, ← order]
        exact ⟨rfl, rfl⟩
      · obtain ⟨inflow', notices⟩ := prompt soon
        refine ⟨?_, ?_, ?_, ?_, ?_⟩
        · rw [buffered, inflow', length]
          simp only [Bool.or_eq_true, decide_eq_true_eq]
          exact Iff.rfl
        · rw [buffered, inflow']
        · rw [length]
          simp [fillLevel, buffered, inflow', PixelsFields.chunk]
        · rw [flags, notices]
        · rw [flags, notices]
  · obtain ⟨u, next, reply, same⟩ := pixels_refused live rest arrives (pixelsCheck_of_pixelsChecks refusal)
    rw [if_neg (pixelsChecks_ne_rowOrder refusal)] at reply
    exact ⟨u, next, reply, same⟩
  · obtain ⟨u, next, reply, same⟩ := pixels_refused live rest arrives (pixelsCheck_of_rowsChecks passed found of refusal)
    refine ⟨u, next, ?_, same⟩
    by_cases order : r = .rowOrder
    · subst order
      have row := nextRow_of_findTag (tag := (pixelsFields p).tag) found (of (rowsChecks_inflow refusal))
      rwa [row] at reply
    · rwa [if_neg order] at reply ⊢

end Sys2Proof.Machine
end

section
/-!
PROOF. Requests that end, at the end of an event or of a chunk write: what is found of the others, the pages, and the notices
(R56, R57, R59, R62).
-/

namespace Sys2Proof.Machine

open Sys2Proof.Safety

/-- A notice raised is pending, and the others are as they were (R171). -/
theorem raise_getLsbD (src : NoticeSource) (s : State) (i : Nat) :
    (raise src s).notices.flags.getLsbD i = true ↔ s.notices.flags.getLsbD i = true ∨ i = src.number := by
  have own : src.mask.getLsbD i = true ↔ i = src.number := by
    have few : src.number < 12 := by cases src <;> decide
    simp only [NoticeSource.mask, BitVec.getLsbD_shiftLeft, BitVec.getLsbD_one, Bool.and_eq_true, Bool.not_eq_true',
      decide_eq_true_eq, decide_eq_false_iff_not]
    omega
  simp [raise, own]

/-- What may come of requests that end: a request found still is the one found before, with its rows; pages return, and none
is taken; no notice but QUEUE_ROOM, number 10, comes or goes. -/
structure Lightens (s u : State) : Prop where
  found : ∀ a q, findAge u a = some q → ∃ r, findAge s a = some r ∧ q.rowsWritten = r.rowsWritten
  free : ∀ page ∈ s.pool.free, page ∈ u.pool.free
  flags : ∀ i, i ≠ 10 → u.notices.flags.getLsbD i = s.notices.flags.getLsbD i

theorem Lightens.trans {a b c : State} (h : Lightens a b) (k : Lightens b c) : Lightens a c where
  found n q there := by
    obtain ⟨p, between, rows⟩ := k.found n q there
    obtain ⟨r, before, rows'⟩ := h.found n p between
    exact ⟨r, before, rows.trans rows'⟩
  free page there := k.free page (h.free page there)
  flags i other := (k.flags i other).trans (h.flags i other)

/-- Table, pages and flags as they were. -/
theorem Lightens.of_eq {s u : State} (table : u.req.table = s.req.table) (free : u.pool.free = s.pool.free)
    (flags : u.notices.flags = s.notices.flags) : Lightens s u where
  found a q there := ⟨q, by rwa [findAge_congr table] at there, rfl⟩
  free page there := by rwa [free]
  flags i _ := by rw [flags]

theorem Lightens.rfl {s : State} : Lightens s s := .of_eq (.refl _) (.refl _) (.refl _)

theorem Lightens.ite {c : Prop} [Decidable c] {s a b : State} (h : c → Lightens s a) (k : ¬ c → Lightens s b) :
    Lightens s (if c then a else b) := by
  split
  · exact h ‹_›
  · exact k ‹_›

/-- A record told something keeps its age and its rows. -/
theorem updateRequest_lightens {age : Nat} {f : Request → Request} (s : State)
    (keeps : ∀ r, (f r).age = r.age ∧ (f r).rowsWritten = r.rowsWritten) : Lightens s (updateRequest age f s) where
  found a q there := by
    rw [findAge_updateRequest fun r => (keeps r).1] at there
    obtain ⟨r, before, rfl⟩ := Option.map_eq_some_iff.mp there
    refine ⟨r, before, ?_⟩
    split
    · exact (keeps r).2
    · rfl
  free _ there := there
  flags _ _ := .refl _

theorem leaveTable_lightens (age : Nat) (s : State) : Lightens s (leaveTable age s) where
  found a q there := by
    by_cases here : a = age
    · rw [findAge_filter_none (leaveTable_table age s) fun r own => by simp [own, here]] at there
      cases there
    · rw [findAge_filter (leaveTable_table age s) fun r own => by simp [own, here]] at there
      exact ⟨q, there, rfl⟩
  free page there := by simpa using there
  flags i other := by
    unfold leaveTable
    dsimp only
    split
    · rw [Bool.eq_iff_iff, raise_getLsbD]
      exact or_iff_left other
    · rfl

theorem freeRequestPages_lightens (age : Nat) (s : State) : Lightens s (freeRequestPages age s) := by
  unfold freeRequestPages
  split
  · have returned : Lightens s (returnPages ((Request.pages ‹_›).getD []) s) :=
      ⟨fun a q there => ⟨q, there, rfl⟩, fun page there => (mem_returnPages _ s page).mpr (.inr there), fun _ _ => rfl⟩
    exact returned.trans (updateRequest_lightens _ fun _ => ⟨rfl, rfl⟩)
  · exact .rfl

theorem offerFrom_lightens (line : List Reporting) (s : State) : Lightens s (offerFrom line s) := by
  induction line generalizing s with
  | nil => exact .rfl
  | cons h rest ih =>
    have told : Lightens s (acceptRecord h s) := by
      unfold acceptRecord
      refine Lightens.trans ?_ (leaveTable_lightens h.age _)
      exact .of_eq rfl rfl rfl
    unfold offerFrom
    exact .ite (fun _ => told.trans (ih _)) fun _ => .rfl

theorem enterReporting_lightens (r : Request) (s : State) : Lightens s (enterReporting r s) := by
  have noted : Lightens s (updateRequest r.age (fun q => { q with state := .reporting }) s) :=
    updateRequest_lightens s fun _ => ⟨rfl, rfl⟩
  have tallied : ∀ t, Lightens t (closeTally r.age t) := fun t => updateRequest_lightens t fun _ => ⟨rfl, rfl⟩
  have dropped : ∀ t, Lightens t (dropJobs (Job.isCopyOf r.age) t) := fun _ => .of_eq (by simp) (by simp) (by simp)
  have closed : Lightens s (closedFor r s) := (noted.trans (tallied _)).trans (dropped _)
  have linedUp : Lightens s (linedUp r s) := by
    unfold Machine.linedUp
    split
    · exact closed.trans (.of_eq rfl rfl rfl)
    · exact (closed.trans (freeRequestPages_lightens r.age _)).trans (.of_eq rfl rfl rfl)
  exact linedUp.trans (offerFrom_lightens _ _)

theorem judgeFinish_lightens (age : Nat) (s : State) : Lightens s (judgeFinish age s) := by
  unfold judgeFinish
  split
  · exact .rfl
  · refine .ite (fun _ => ?_) fun _ => .ite (fun _ => enterReporting_lightens _ _) fun _ => .rfl
    unfold leaveIfDone
    exact .ite (fun _ => .rfl) fun _ => (freeRequestPages_lightens _ _).trans (leaveTable_lightens _ _)

theorem resolveUnsupported_lightens (age : Nat) (s : State) : Lightens s (resolveUnsupported age s) := by
  have left : Lightens s (removeEntry age s) := .of_eq rfl rfl rfl
  have told : Lightens s (resolveEntry age .unsupported s) := by
    unfold resolveEntry finishPart
    exact left.trans (updateRequest_lightens _ fun _ => ⟨rfl, rfl⟩)
  unfold resolveUnsupported
  exact (told.trans (judgeFinish_lightens age _)).trans (.of_eq (by simp) (by simp) (by simp))

theorem runPass_lightens (ages : List Nat) (s : State) : Lightens s (runPass ages s) := by
  have ended : ∀ t, Lightens t (endPass t) := fun _ => .of_eq rfl rfl rfl
  induction ages generalizing s with
  | nil => exact ended s
  | cons age rest ih =>
    unfold runPass
    split
    · refine .ite (fun _ => ih _) fun _ => .ite (fun _ => ih _) fun _ => ?_
      split
      · refine .ite (fun _ => (resolveUnsupported_lightens _ _).trans (ih _)) fun _ => ?_
        exact .of_eq (by simp) (by simp) (by simp)
      · exact ended s
    · exact ih _

/-- The end of every event. -/
theorem finish_lightens (b s : State) : Lightens s (finish b s) := by
  have noted : Lightens s (noteHolds b s) := .of_eq (by simp) (by simp) (by simp)
  have started : ∀ t, Lightens t (startPass t) := fun t => by
    unfold startPass
    refine Lightens.trans ?_ (runPass_lightens _ _)
    exact .of_eq rfl rfl rfl
  have passed : ∀ t, Lightens t (tryPass t) := fun t => .ite (fun _ => started t) fun _ => .rfl
  unfold finish
  exact (noted.trans (passed _)).trans (.of_eq (by simp) (by simp) (by simp))

end Sys2Proof.Machine
end

section
/-!
PROOF. The inflow writer takes its chunks: what it drops, what it begins, and REFILL (R68, R72, R73).
-/

namespace Sys2Proof.Machine

open Sys2Proof.Safety

/-! ### REFILL (R72) -/

/-- The refill latch and REFILL, number 5, where chunks have left the buffer, in however many steps: the latch stays armed, or the
notice is raised, according to the fill level in the end. -/
structure RefillJudged (s u : State) : Prop where
  settings : u.settings = s.settings
  fill : fillLevel u ≤ fillLevel s
  latch : u.inflow.latch = true ↔ s.inflow.latch = true ∧ s.settings.lowWatermark ≤ fillLevel u
  notice : u.notices.flags.getLsbD 5 = true ↔
    s.notices.flags.getLsbD 5 = true ∨ s.inflow.latch = true ∧ fillLevel u < s.settings.lowWatermark

theorem RefillJudged.trans {a b c : State} (h : RefillJudged a b) (k : RefillJudged b c) : RefillJudged a c where
  settings := k.settings.trans h.settings
  fill := k.fill.trans h.fill
  latch := by
    have := k.fill
    rw [k.latch, h.latch, h.settings]
    constructor
    · rintro ⟨⟨armed, -⟩, high⟩
      exact ⟨armed, high⟩
    · rintro ⟨armed, high⟩
      exact ⟨⟨armed, by omega⟩, high⟩
  notice := by
    have := k.fill
    rw [k.notice, h.notice, h.latch, h.settings, or_assoc]
    refine or_congr_right ⟨?_, fun ⟨armed, low⟩ => ?_⟩
    · rintro (⟨armed, low⟩ | ⟨⟨armed, -⟩, low⟩)
      · exact ⟨armed, by omega⟩
      · exact ⟨armed, low⟩
    · rcases Nat.lt_or_ge (fillLevel b) a.settings.lowWatermark with below | above
      · exact .inl ⟨armed, below⟩
      · exact .inr ⟨⟨armed, above⟩, low⟩

theorem fillLevel_congr {s u : State} (buffer : u.inflow.buffer = s.inflow.buffer) : fillLevel u = fillLevel s := by
  simp only [fillLevel, buffer]

/-- What comes behind a judgement and leaves buffer, latch and notice alone. -/
theorem RefillJudged.then {s t u : State} (h : RefillJudged s t) (settings : u.settings = t.settings)
    (buffer : u.inflow.buffer = t.inflow.buffer) (latch : u.inflow.latch = t.inflow.latch)
    (notice : u.notices.flags.getLsbD 5 = t.notices.flags.getLsbD 5) : RefillJudged s u where
  settings := settings.trans h.settings
  fill := (fillLevel_congr buffer).trans_le h.fill
  latch := by rw [latch, fillLevel_congr buffer, h.latch]
  notice := by rw [notice, fillLevel_congr buffer, h.notice]

/-- The judgement behind something that left latch and notice alone, and may have taken chunks. -/
theorem checkRefill_judged {s t : State} (settings : t.settings = s.settings) (fill : fillLevel t ≤ fillLevel s)
    (latch : t.inflow.latch = s.inflow.latch) (notice : t.notices.flags.getLsbD 5 = s.notices.flags.getLsbD 5) :
    RefillJudged s (checkRefill t) := by
  have same : fillLevel (checkRefill t) = fillLevel t := fillLevel_congr (by simp)
  refine ⟨by simpa using settings, by rwa [same], ?_, ?_⟩ <;> rw [same, ← latch, ← settings]
  · unfold checkRefill
    split
    · rename_i low
      exact iff_of_false (by simp) fun high => absurd low.2 (by omega)
    · rename_i high
      exact ⟨fun armed => ⟨armed, Nat.not_lt.mp fun low => high ⟨armed, low⟩⟩, And.left⟩
  · rw [← notice]
    unfold checkRefill
    split
    · rename_i low
      rw [raise_getLsbD]
      exact iff_of_true (.inr rfl) (.inr low)
    · rename_i high
      exact (or_iff_left high).symm

theorem dropChunk_judged (s : State) : RefillJudged s (dropChunk s) := by
  refine checkRefill_judged rfl (popChunk_fill s) rfl ?_
  rw [Bool.eq_iff_iff, raise_getLsbD]
  exact or_iff_left (by decide)

/-! ### The writer's next chunk (R68, R73) -/

/-- What an idle writer leaves of the buffer l: it drops chunks up to `next`, with discard flag and INFLOW_DISCARD, number 6, and
begins the write of the first that is left. -/
structure TakesFrom (l next : List Chunk) (s u : State) : Prop where
  buffer : u.inflow.buffer = next
  writing : u.inflow.writing = if next = [] then none else some 0
  discard : u.inflow.discard = true ↔ s.inflow.discard = true ∨ next ≠ l
  notice : u.notices.flags.getLsbD 6 = true ↔ s.notices.flags.getLsbD 6 = true ∨ next ≠ l

theorem chunkUnwanted_congr {s u : State} (table : u.req.table = s.req.table) : chunkUnwanted u = chunkUnwanted s := by
  funext c
  simp only [chunkUnwanted, findAge_congr table]

/-- A chunk is wanted while its request is live with an open tally (R68). -/
theorem chunkUnwanted_iff (s : State) (c : Chunk) : chunkUnwanted s c = false ↔
    ∃ r rows, findAge s c.age = some r ∧ r.tally = some { rowsAccepted := rows, closed := false } := by
  unfold chunkUnwanted
  cases findAge s c.age with
  | none => simp
  | some r =>
    cases tally : r.tally with
    | none => simp [tally]
    | some t =>
      obtain ⟨rows, closed⟩ := t
      simp [tally]

/-- A rule over the table that keeps ages and tallies. -/
theorem chunkUnwanted_map {s u : State} {g : Request → Request} (table : u.req.table = s.req.table.map g)
    (ages : ∀ r, (g r).age = r.age) (tallies : ∀ r, (g r).tally = r.tally) : chunkUnwanted u = chunkUnwanted s := by
  funext c
  simp only [chunkUnwanted, findAge_map table ages]
  cases findAge s c.age with
  | none => rfl
  | some r => simp only [Option.map_some, tallies]

/-- The judgement raises REFILL, number 5, and no other notice. -/
theorem checkRefill_others (s : State) {i : Nat} (other : i ≠ 5) :
    (checkRefill s).notices.flags.getLsbD i = s.notices.flags.getLsbD i := by
  unfold checkRefill
  split
  · rw [Bool.eq_iff_iff, raise_getLsbD]
    exact or_iff_left other
  · rfl

/-- A chunk dropped leaves discard flag and notice set (R73). -/
theorem dropChunk_discards (s : State) :
    (dropChunk s).inflow.discard = true ∧ (dropChunk s).notices.flags.getLsbD 6 = true := by
  refine ⟨by simp [dropChunk], ?_⟩
  rw [dropChunk, checkRefill_others _ (by decide), raise_getLsbD]
  exact .inr rfl

theorem takeChunks_takes (l : List Chunk) {s : State} (buffer : s.inflow.buffer = l) (idle : s.inflow.writing = none) :
    TakesFrom l (l.dropWhile (chunkUnwanted s)) s (takeChunks l s) := by
  induction l generalizing s with
  | nil => exact ⟨buffer, idle, by simp [takeChunks], by simp [takeChunks]⟩
  | cons c rest ih =>
    unfold takeChunks
    by_cases unwanted : chunkUnwanted s c = true
    · rw [if_pos unwanted, List.dropWhile_cons_of_pos unwanted]
      have dropped := ih (s := dropChunk s) (by simp [dropChunk, popChunk, buffer]) (by simpa using idle)
      rw [chunkUnwanted_congr (s := s) (by simp)] at dropped
      obtain ⟨discard, notice⟩ := dropChunk_discards s
      have fewer : rest.dropWhile (chunkUnwanted s) ≠ c :: rest := fun same => by
        have := (List.dropWhile_suffix (l := rest) (chunkUnwanted s)).length_le
        rw [same] at this
        simp at this
      exact ⟨dropped.buffer, dropped.writing, iff_of_true (dropped.discard.mpr (.inl discard)) (.inr fewer),
        iff_of_true (dropped.notice.mpr (.inl notice)) (.inr fewer)⟩
    · rw [if_neg unwanted, List.dropWhile_cons_of_neg unwanted]
      exact ⟨by simpa using buffer, by simp, by simp, by simp⟩

theorem takeChunks_judged (l : List Chunk) {a s : State} (h : RefillJudged a s) : RefillJudged a (takeChunks l s) := by
  induction l generalizing s with
  | nil => exact h
  | cons c rest ih =>
    unfold takeChunks
    split
    · exact ih (h.trans (dropChunk_judged s))
    · exact h.then (by simp) (by simp) (by simp) (by simp)

end Sys2Proof.Machine
end

section
/-!
PROOF. Settles O36: the end of a chunk write, in the order of R69 (R61, R62, R68 to R73).
-/

namespace Sys2Proof.Machine

open Sys2Proof.Safety

/-! ### Bytes (R61, R68) -/

theorem packLevels_toNat (left right : Level) : (packLevels left right).toNat = left.toNat + 16 * right.toNat := by
  have low : left.toNat < 2 ^ 4 := left.isLt
  have fits : right.toNat <<< 4 < 2 ^ 8 := by rw [Nat.shiftLeft_eq]; omega
  have apart : right.toNat <<< 4 ||| left.toNat = right.toNat <<< 4 + left.toNat := (Nat.shiftLeft_add_eq_or_of_lt low _).symm
  simp only [packLevels, BitVec.toNat_or, BitVec.toNat_shiftLeft, BitVec.toNat_setWidth]
  rw [Nat.mod_eq_of_lt (by omega), Nat.mod_eq_of_lt (a := right.toNat) (by omega), Nat.mod_eq_of_lt fits, Nat.or_comm, apart,
    Nat.shiftLeft_eq]
  omega

theorem quickLevel_toNat (l : Level) : (quickLevel l).toNat = if l.toNat < 8 then 0 else 15 := by
  unfold quickLevel
  by_cases low : l < 8#4
  · rw [if_pos low, if_pos (by simpa using BitVec.lt_def.mp low)]
    rfl
  · rw [if_neg low, if_neg (by simpa using mt BitVec.lt_def.mpr low)]
    rfl

theorem quickByte_toNat (b : Byte) : (quickByte b).toNat =
    (if b.toNat % 16 < 8 then 0 else 15) + 16 * (if b.toNat / 16 < 8 then 0 else 15) := by
  have high : b.toNat / 16 % 16 = b.toNat / 16 := by
    have := b.isLt
    omega
  simp [quickByte, packLevels_toNat, quickLevel_toNat, unpackLevel_toNat, high]

theorem imageAddress_iff (pages : List Nat) (b a : Nat) : imageAddress pages b = some a ↔
    ∃ page, pages[b / 4096]? = some page ∧ a = page * 4096 + b % 4096 := by
  simp only [imageAddress, Config.pageBytes, Option.map_eq_some_iff, eq_comm (a := a)]

/-! ### The stages of R69 -/

/-- The write has ended: its bytes stand, the chunk has left, its rows are counted. -/
def chunkCounted (c : Chunk) (s : State) : State :=
  countRows c (writeEnded (advanceChunk c.data.length (lastBursts .inflow s)))

/-- Pages held back have returned. -/
def chunkReturned (c : Chunk) (s : State) : State := returnHeldPages c.age (chunkCounted c s)

section
variable {s : State} {c : Chunk} {later : List Chunk} {done : Nat} {r : Request} {rows : Nat}

theorem exec_inflowChunkWriteEnd (writing : s.inflow.writing = some done) (buffer : s.inflow.buffer = c :: later) :
    exec .inflowChunkWriteEnd s = .next (finish s (takeNextChunk (chunkReturned c s))) := by
  simp only [exec, execInflowChunkWriteEnd, writing, buffer]
  rfl

theorem writeEnded_table (c : Chunk) (s : State) :
    (writeEnded (advanceChunk c.data.length (lastBursts .inflow s))).req.table = s.req.table := by simp [writeEnded]

/-- The bytes of the pages are those of the write; nothing behind it writes any. -/
theorem stagingByte_chunkWriteEnd (b : State) (c : Chunk) (s : State) (a : Nat) :
    stagingByte (finish b (takeNextChunk (chunkReturned c s))) a =
      stagingByte (advanceChunk c.data.length (lastBursts .inflow s)) a :=
  stagingByte_congr (by simp [chunkReturned, chunkCounted, writeEnded]) (by simp [chunkReturned, chunkCounted, writeEnded]) a

/-- The chunk's bytes stand in the pages from where the write stood, and no other staging byte changes (R61, R68). -/
theorem chunkWriteEnd_writes {pages : List Nat} (writing : s.inflow.writing = some done) (buffer : s.inflow.buffer = c :: later)
    (found : findAge s c.age = some r) (holds : r.pages = some pages) (b : State) :
    (pages.Nodup → ∀ i a v, done ≤ i → (writtenBytes r c)[i]? = some v →
        imageAddress pages (c.firstRow * (r.rect.width / 2) + i) = some a →
        stagingByte (finish b (takeNextChunk (chunkReturned c s))) a = v)
      ∧ ∀ a, (∀ i, done ≤ i → i < c.data.length → imageAddress pages (c.firstRow * (r.rect.width / 2) + i) ≠ some a) →
        stagingByte (finish b (takeNextChunk (chunkReturned c s))) a = stagingByte s a := by
  obtain ⟨-, stands, others⟩ := advanceChunk_writes (s := lastBursts .inflow s) (done := done) (later := later) c.data.length
    (by simpa using writing) (by simpa using buffer) ((findAge_congr (by simp) c.age).trans found) holds
  refine ⟨fun distinct i a v low value place => ?_, fun a off => ?_⟩ <;> rw [stagingByte_chunkWriteEnd]
  · have within : i < c.data.length := by
      rw [← writtenBytes_length r c]
      exact (List.getElem?_eq_some_iff.mp value).1
    exact stands distinct i a v low (by omega) value place
  · rw [others a fun i low _ high => off i low high]
    exact stagingByte_congr (by simp) (by simp) a

/-! ### Rows (R69, R70) -/

/-- Rows written of a record behind the count. -/
def rowsCounted (s : State) (c : Chunk) (r q : Request) : Nat :=
  if q.age = c.age ∧ chunkUnwanted s c = false then r.rowsWritten + c.rowCount else q.rowsWritten

theorem countRows_table_of_found (found : findAge s c.age = some r) :
    (countRows c s).req.table = s.req.table.map (Request.withCounts (rowsCounted s c r) Request.tally) := by
  simp only [countRows, found]
  by_cases unwanted : chunkUnwanted s c = true
  · rw [if_pos unwanted]
    refine (withCounts_id _).symm.trans (List.map_congr_left fun q _ => ?_)
    simp [Request.withCounts, rowsCounted, unwanted]
  · have wanted : chunkUnwanted s c = false := Bool.eq_false_iff.mpr unwanted
    have table : (updateRequest c.age (fun q => { q with rowsWritten := r.rowsWritten + c.rowCount }) s).req.table =
        s.req.table.map (Request.withCounts (rowsCounted s c r) Request.tally) := by
      refine List.map_congr_left fun q _ => ?_
      by_cases own : q.age = c.age <;> simp [Request.withCounts, rowsCounted, own, wanted]
    rw [if_neg unwanted]
    split
    · exact table
    · exact table

/-- The count of a chunk's rows reaches the height, or the early point of an early request of a clearing mode (R70). -/
def countReaches (s : State) (c : Chunk) (r : Request) : Prop :=
  r.rowsWritten + c.rowCount = r.rect.height
    ∨ r.early = true ∧ r.requestedMode.clearing = true ∧ 1 ≤ s.settings.earlyThreshold ∧ s.settings.earlyThreshold ≤ 15
      ∧ r.rowsWritten < earlyPoint s.settings.earlyThreshold r.rect.height
      ∧ earlyPoint s.settings.earlyThreshold r.rect.height ≤ r.rowsWritten + c.rowCount

/-- The trigger of R70. -/
theorem countRows_triggers (found : findAge s c.age = some r) (wanted : chunkUnwanted s c = false)
    (reached : countReaches s c r) :
    (countRows c s).adm.passWanted = true := by
  simp only [countRows, found, wanted, Bool.false_eq_true, if_false]
  exact if_pos (c := countReaches s c r) reached ▸ rfl

theorem chunkCounted_table (found : findAge s c.age = some r) :
    (chunkCounted c s).req.table = s.req.table.map (Request.withCounts (rowsCounted s c r) Request.tally) := by
  have table := writeEnded_table c s
  have same : rowsCounted (writeEnded (advanceChunk c.data.length (lastBursts .inflow s))) c r = rowsCounted s c r := by
    funext q
    simp only [rowsCounted, chunkUnwanted_congr table]
  rw [chunkCounted, countRows_table_of_found ((findAge_congr table c.age).trans found), table, same]

theorem findAge_chunkCounted (found : findAge s c.age = some r) (age : Nat) : findAge (chunkCounted c s) age =
    (findAge s age).map (Request.withCounts (rowsCounted s c r) Request.tally) :=
  findAge_map (chunkCounted_table found) (fun _ => rfl) age

theorem returnHeldPages_tidies (age : Nat) (s : State) : Tidies s (returnHeldPages age s) := by
  unfold returnHeldPages
  split
  · exact .ite (fun _ => (freeRequestPages_tidies _ _).trans (offerRecords_tidies _)) fun _ => .rfl
  · exact .rfl

theorem returnHeldPages_lightens (age : Nat) (s : State) : Lightens s (returnHeldPages age s) := by
  unfold returnHeldPages
  split
  · exact .ite (fun _ => (freeRequestPages_lightens _ _).trans (offerFrom_lightens _ _)) fun _ => .rfl
  · exact .rfl

/-- The rows of the chunk count while the tally is open (R69). -/
theorem chunkWriteEnd_rows (found : findAge s c.age = some r) (wanted : chunkUnwanted s c = false) {b : State} {q : Request}
    (live : q ∈ (finish b (takeNextChunk (chunkReturned c s))).req.table) (own : q.age = c.age) :
    q.rowsWritten = r.rowsWritten + c.rowCount := by
  obtain ⟨p, there, ends⟩ := (finish_tidies b _).table q live
  simp only [takeNextChunk_keeps] at there
  obtain ⟨o, there, returns⟩ := (returnHeldPages_tidies _ _).table p there
  rw [chunkCounted_table found] at there
  obtain ⟨r', -, rfl⟩ := List.mem_map.mp there
  have continues := returns.trans ends
  have same : r'.age = c.age := continues.age.symm.trans own
  rw [continues.rowsWritten]
  simp [Request.withCounts, rowsCounted, same, wanted]

/-- The rows of a request whose tally is closed, or that has none, stay as they are (R69). -/
theorem chunkWriteEnd_stays (found : findAge s c.age = some r) (unwanted : chunkUnwanted s c = true) {b : State} {q : Request}
    (there : findAge (finish b (takeNextChunk (chunkReturned c s))) c.age = some q) : q.rowsWritten = r.rowsWritten := by
  obtain ⟨p, there, rows⟩ := (finish_lightens b _).found c.age q there
  rw [findAge_congr (s := chunkReturned c s) (by simp)] at there
  obtain ⟨o, there, rows'⟩ := (returnHeldPages_lightens _ _).found c.age p there
  rw [findAge_chunkCounted found, found] at there
  cases there
  rw [rows, rows']
  simp [Request.withCounts, rowsCounted, unwanted]

/-- The trigger of R70 is given, and stays where admission is held. -/
theorem chunkWriteEnd_triggers (found : findAge s c.age = some r) (wanted : chunkUnwanted s c = false) (hold : held s = true)
    (reached : countReaches s c r) :
    (finish s (takeNextChunk (chunkReturned c s))).adm.passWanted = true := by
  have table := writeEnded_table c s
  have holds : held (takeNextChunk (chunkReturned c s)) = true := by
    rw [← hold]
    refine held_congr ?_ ?_ ?_ ?_ ?_ <;> simp [chunkReturned, chunkCounted, writeEnded]
  have given := countRows_triggers (s := writeEnded (advanceChunk c.data.length (lastBursts .inflow s)))
    ((findAge_congr table c.age).trans found) (by rw [chunkUnwanted_congr table]; exact wanted)
    (by simpa [countReaches, writeEnded] using reached)
  obtain ⟨-, adm, -⟩ := finish_of_held_keeps hold holds
  rw [adm]
  simpa [chunkReturned, chunkCounted] using given

/-! ### Pages held back (R62) -/

/-- The pages of a request that has entered REPORTING meanwhile are free. -/
theorem chunkWriteEnd_returns (found : findAge s c.age = some r) (reporting : r.state = .reporting) {b : State} {page : Nat}
    (held : page ∈ r.pages.getD []) : page ∈ (finish b (takeNextChunk (chunkReturned c s))).pool.free := by
  refine (finish_lightens b _).free page ?_
  have counted := findAge_chunkCounted found c.age
  rw [found] at counted
  have returned : chunkReturned c s = offerRecords (freeRequestPages c.age (chunkCounted c s)) := by
    simp only [chunkReturned, returnHeldPages, counted, Option.map_some, Request.withCounts, reporting, if_true]
  simpa [returned] using mem_freeRequestPages counted held

/-! ### The next chunk (R68, R72, R73) -/

/-- The write has ended, and its chunk has left, where the writer takes the next one. -/
theorem chunkReturned_inflow (c : Chunk) (s : State) : (chunkReturned c s).inflow.writing = none
    ∧ (chunkReturned c s).inflow.buffer = s.inflow.buffer.tail
    ∧ (chunkReturned c s).inflow.discard = s.inflow.discard := by
  simp [chunkReturned, chunkCounted, writeEnded, popChunk]

theorem takeNextChunk_chunkReturned (buffer : s.inflow.buffer = c :: later) :
    takeNextChunk (chunkReturned c s) = takeChunks later (chunkReturned c s) := by
  obtain ⟨idle, left, -⟩ := chunkReturned_inflow c s
  rw [takeNextChunk, idle, left, buffer]
  rfl

/-- REFILL is judged behind the chunk's leaving, and behind every chunk dropped. -/
theorem chunkWriteEnd_judged (buffer : s.inflow.buffer = c :: later) (b : State) :
    RefillJudged s (finish b (takeNextChunk (chunkReturned c s))) := by
  have left : RefillJudged s (writeEnded (advanceChunk c.data.length (lastBursts .inflow s))) := by
    refine checkRefill_judged (by simp) ?_ (by simp) (by simp)
    refine (popChunk_fill (advanceChunk c.data.length (lastBursts .inflow s))).trans_eq (fillLevel_congr (by simp))
  have counted : RefillJudged s (chunkCounted c s) :=
    left.then (by simp [chunkCounted]) (by simp [chunkCounted]) (by simp [chunkCounted]) (by simp [chunkCounted])
  have returned : RefillJudged s (chunkReturned c s) :=
    counted.then (by simp [chunkReturned]) (by simp [chunkReturned]) (by simp [chunkReturned])
      ((returnHeldPages_lightens _ _).flags 5 (by decide))
  have taken : RefillJudged s (takeNextChunk (chunkReturned c s)) := by
    rw [takeNextChunk_chunkReturned buffer]
    exact takeChunks_judged later returned
  exact taken.then (by simp) (by simp) (by simp) ((finish_lightens b _).flags 5 (by decide))

/-- Records offered are of requests whose chunks nobody wants. -/
theorem chunkUnwanted_offerFrom (line : List Reporting) {t : State}
    (gone : ∀ h ∈ line, ∀ k : Chunk, k.age = h.age → chunkUnwanted t k = true) :
    chunkUnwanted (offerFrom line t) = chunkUnwanted t := by
  induction line generalizing t with
  | nil => rfl
  | cons h rest ih =>
    have table : (acceptRecord h t).req.table = t.req.table.filter fun r => r.age ≠ h.age := leaveTable_table h.age _
    have same : chunkUnwanted (acceptRecord h t) = chunkUnwanted t := by
      funext k
      by_cases own : k.age = h.age
      · rw [gone h List.mem_cons_self k own, chunkUnwanted, findAge_filter_none table fun r here => by simp [here, own]]
      · simp only [chunkUnwanted, findAge_filter (age := k.age) table fun r here => by simp [here, own]]
    unfold offerFrom
    split
    · rw [ih fun g there k own => by rw [same]; exact gone g (List.mem_cons_of_mem _ there) k own, same]
    · rfl

/-- Nobody wants the chunks of a request in the line (R56, R64). -/
theorem chunkUnwanted_of_line (own : ownershipLaw s) (counts : rowsLaw s) {h : Reporting} (there : h ∈ s.req.line) {k : Chunk}
    (same : k.age = h.age) : chunkUnwanted s k = true := by
  obtain ⟨-, -, each⟩ := counts
  unfold chunkUnwanted
  cases found : findAge s k.age with
  | none => rfl
  | some r =>
    have live := mem_of_findAge found
    have reporting := (tableFits_of_ownershipLaw own).line h there r live ((age_of_findAge found).trans same)
    obtain ⟨-, -, tallies⟩ := each r live
    cases tally : r.tally with
    | none => simp [tally]
    | some t =>
      obtain ⟨-, closed, -⟩ := tallies t tally
      simpa [tally] using closed reporting

/-- What the writer finds wanted is what was wanted at the event. -/
theorem chunkUnwanted_chunkReturned (own : ownershipLaw s) (counts : rowsLaw s) (found : findAge s c.age = some r) :
    chunkUnwanted (chunkReturned c s) = chunkUnwanted s := by
  have counted : chunkUnwanted (chunkCounted c s) = chunkUnwanted s :=
    chunkUnwanted_map (chunkCounted_table found) (fun _ => rfl) fun _ => rfl
  have freed : chunkUnwanted (freeRequestPages c.age (chunkCounted c s)) = chunkUnwanted (chunkCounted c s) := by
    have here := findAge_chunkCounted found c.age
    rw [found] at here
    exact chunkUnwanted_map (freeRequestPages_table here) (fun _ => by split <;> rfl) fun _ => by split <;> rfl
  have line : (freeRequestPages c.age (chunkCounted c s)).req.line = s.req.line := by simp [chunkCounted, writeEnded]
  rw [← counted]
  unfold chunkReturned returnHeldPages
  split
  · split
    · rw [offerRecords, chunkUnwanted_offerFrom, freed]
      intro h there k same
      rw [freed, counted]
      exact chunkUnwanted_of_line own counts (line ▸ there) same
    · rfl
  · rfl

/-- The writer takes the next chunk (R68, R73). -/
theorem chunkWriteEnd_takes (own : ownershipLaw s) (counts : rowsLaw s) (found : findAge s c.age = some r)
    (buffer : s.inflow.buffer = c :: later) (b : State) :
    TakesFrom later (later.dropWhile (chunkUnwanted s)) s (finish b (takeNextChunk (chunkReturned c s))) := by
  obtain ⟨idle, left, discard⟩ := chunkReturned_inflow c s
  have takes := takeChunks_takes later (s := chunkReturned c s) (by rw [left, buffer]; rfl) idle
  rw [chunkUnwanted_chunkReturned own counts found, ← takeNextChunk_chunkReturned buffer] at takes
  have quiet : (chunkReturned c s).notices.flags.getLsbD 6 = s.notices.flags.getLsbD 6 := by
    have counted : (chunkCounted c s).notices = (writeEnded (advanceChunk c.data.length (lastBursts .inflow s))).notices := by
      simp [chunkCounted]
    rw [chunkReturned, (returnHeldPages_lightens _ _).flags 6 (by decide), counted, writeEnded, checkRefill_others _ (by decide)]
    simp
  refine ⟨by simpa using takes.buffer, by simpa using takes.writing, ?_, ?_⟩
  · rw [← discard, ← takes.discard]
    simp
  · rw [← quiet, ← takes.notice, (finish_lightens b _).flags 6 (by decide)]

end

/-- Settles O36: the stages of R69 one by one, over the state in which the writer takes the next chunk. -/
theorem inflowChunkWritesFillTheImage : Obligations.InflowChunkWritesFillTheImage := by
  refine ⟨fun r c b => ⟨fun exact' => ?_, fun quick => ?_, quickByte_toNat b⟩, imageAddress_iff,
    fun s c later done r pages writing buffer found holds distinct =>
      ⟨_, exec_inflowChunkWriteEnd writing buffer, (chunkWriteEnd_writes writing buffer found holds s).1 distinct,
        (chunkWriteEnd_writes writing buffer found holds s).2,
        fun ⟨rows, tally⟩ => ⟨fun q live own => ?_, fun hold reached => ?_⟩, fun closed q there => ?_,
        fun reporting page held => ?_, fun own counts wanted next means is => ?_⟩⟩
  · unfold writtenBytes
    split
    · exact absurd ‹_› exact'
    all_goals rfl
  · rw [writtenBytes, quick]
  · exact chunkWriteEnd_rows found (chunkUnwanted_of_open found tally) live own
  · exact chunkWriteEnd_triggers found (chunkUnwanted_of_open found tally) hold reached
  · refine chunkWriteEnd_stays found (by_contra fun wanted => ?_) there
    obtain ⟨q', rows, found', tally⟩ := (chunkUnwanted_iff s c).mp (Bool.eq_false_iff.mpr wanted)
    cases found.symm.trans found'
    exact closed rows tally
  · exact chunkWriteEnd_returns found reporting (by rw [holds]; exact held)
  · have same : (fun k => !wanted k) = chunkUnwanted s := by
      funext k
      have agree := (means k).trans (chunkUnwanted_iff s k).symm
      cases unwanted : chunkUnwanted s k <;> simpa [unwanted] using agree
    have takes := chunkWriteEnd_takes own counts found buffer s
    have judged := chunkWriteEnd_judged buffer s
    rw [← same, ← is] at takes
    exact ⟨takes.buffer, takes.writing, takes.discard, takes.notice, judged.latch, judged.notice⟩

end Sys2Proof.Machine
end

section
/-!
PROOF. Settles O51: every step leaves nothing to do (R80, R102, R137, R138, R151, R173).
-/

namespace Sys2Proof.Machine

open Sys2Proof.Safety

/-- A state at rest stays at rest where nothing changes of what the end of an event looks at. -/
theorem settled_congr {s t : State} (rest : settled s) (adm : t.adm = s.adm) (lib : t.lib = s.lib) (temp : t.temp = s.temp)
    (rails : t.rails = s.rails) (px : t.px = s.px) (lanes : t.lanes = s.lanes) (settings : t.settings = s.settings)
    (timer : t.scan.timer = s.scan.timer) (mem : t.mem = s.mem) (notices : t.notices = s.notices) : settled t := by
  obtain ⟨noPass, noPower, noGrant, attn⟩ := rest
  refine ⟨?_, syncPower_stays noPower rails lanes settings timer, by rw [mem]; exact noGrant, ?_⟩
  · rw [adm, held_congr lib temp rails px lanes]
    exact noPass
  · rw [attnLaw, notices]
    exact attn

/-- A reply placed leaves a state at rest at rest. -/
theorem settled_placeReply {s : State} (kind seq : Byte) (r : Result) (b : List Byte) (rest : settled s) :
    settled (placeReply kind seq r b s) := by
  apply settled_congr rest <;> simp

/-- A row that takes a command ends at rest: with its transaction over and nothing else done, or with the end of an event,
behind which only the link, and what the rule after the reply writes, are written. -/
theorem settled_takeCommand {k : Kind} {t : Transfer} {admits : List Byte → Bool} {effect : List Byte → State → Effect}
    {after : State → State} {s u : State} (rest : settled s) (later : ∀ v, settled v → settled (after v))
    (next : takeCommand k t admits effect after s = .next u) : settled u := by
  rcases takeCommand_next next with rfl | ⟨seq, p, -, rfl⟩
  · exact settled_atRisingEdge t rest
  · exact later _ (settled_placeReply _ _ _ _ (finish_settled _ _))

/-- An initial state is at rest: every lane is free, no pass is wanted, and the calibration keeps the memory from granting. -/
theorem settled_initial (link : LinkPort) (epoch : Nat) (pending : List Instr) :
    settled (State.initial link epoch pending) := by
  have noDemand : demand (State.initial link epoch pending) = false := by
    simp [demand, (Blank.initial link epoch pending).lanes]
  have attn : Notices.initial.attn = Notices.initial.attnLevel := rfl
  refine ⟨rfl, ?_, rfl, attnLaw_iff.mpr attn⟩
  rw [syncPower_eq, noDemand]
  rfl

/-- A link failure ends at rest, as a command does (R160). -/
theorem settled_failLink {s : State} (r : Result) (seq : Byte) (t : Transfer) (rest : settled s) :
    settled (failLink r seq t s) := by
  unfold failLink
  dsimp only
  split
  · exact settled_atRisingEdge t rest
  · exact settled_placeReply _ _ _ _ (finish_settled _ _)

/-- Every command leaves nothing to do. Those that are neither a host command nor an event of the link or of a reset end
with `finish` whatever they do. -/
theorem settled_exec {c : Instr} {s u : State} (rest : settled s) (next : exec c s = .next u) : settled u := by
  cases c with
  | powerOn | resetPin => cases next; exact settled_initial _ _ _
  | resetRelease =>
    simp only [exec, execResetRelease] at next
    split at next <;> cases next
    exact settled_congr rest rfl rfl rfl rfl rfl rfl rfl rfl rfl rfl
  | transactionStart =>
    simp only [exec, execTransactionStart] at next
    split at next <;> cases next
    apply settled_congr rest <;> simp
  | poll t =>
    simp only [exec, execPoll] at next
    split at next <;> cases next
    exact settled_atRisingEdge t rest
  | linkFailure t =>
    simp only [exec, execLinkFailure] at next
    split at next <;> cases next
    exact settled_failLink _ _ t rest
  | status t =>
    refine settled_takeCommand rest (fun v settledV => ?_) next
    apply settled_congr settledV <;> simp
  | countersReadAndClear t =>
    refine settled_takeCommand rest (fun v settledV => ?_) next
    apply settled_congr settledV <;> simp
  | ident t | countersRead t | configure t | restart t | noticeSet t | noticeTake t | readLog t | libBegin t | libData t
  | libCommit t | libAbandon t | temp t | railsOff t | railsClearFault t | postUpdate t | pixels t | cancel t | clearDiscard t
  | postCopy t | overlayPush t | overlayPop t | overlaySwap t | freeze t | thaw t | assume t =>
    exact settled_takeCommand rest (fun _ kept => kept) next
  | powerGoodSample | intervalTimerExpiry | refreshRequest => cases next; exact finish_settled _ _
  | initialisationWalkEnd | assumeWalkEnd | libChunkWriteEnd | commitWalkEnd | inflowChunkWriteEnd | admissionWalkEnd
  | frameStart | frameCompletion | retirementWalkEnd | copierJobEnd | riseTimeout | idleTimerExpiry | fallTimeEnd | refreshEnd
  | burstEnd | calibrationEnd =>
    simp only [exec, execInitialisationWalkEnd, execAssumeWalkEnd, execLibChunkWriteEnd, execCommitWalkEnd,
      execInflowChunkWriteEnd, execAdmissionWalkEnd, execFrameStart, execFrameCompletion, execRetirementWalkEnd,
      execCopierJobEnd, execRiseTimeout, execIdleTimerExpiry, execFallTimeEnd, execRefreshEnd, execBurstEnd,
      execCalibrationEnd] at next
    (repeat' split at next) <;> cases next
    all_goals exact finish_settled _ _

/-- Settles O51: the command a step takes leaves nothing to do (`settled_exec`), and the queue has no part in that. -/
theorem everyStepEndsSettled : Obligations.EveryStepEndsSettled := by
  intro s u rest next
  unfold step at next
  split at next
  · cases next
    exact rest
  · rename_i c waiting _
    have taken : settled (s.withPending waiting) := settled_congr rest rfl rfl rfl rfl rfl rfl rfl rfl rfl rfl
    exact settled_exec taken next

end Sys2Proof.Machine
end

section
/-!
PROOF. Settles O22: readings, expiries of the interval timer, and what changes of the temperature hold report (R19, R25, R79,
R80, R145 to R147).
-/

namespace Sys2Proof.Machine

open Sys2Proof.Safety

/-! ### Changes of the temperature hold (R79) -/

/-- What a change of the temperature state notes is read off state, flag and notice. -/
theorem holdNoted_congr {s u v : State} (noted : holdNoted s u) (state : v.temp.state = u.temp.state)
    (reported : v.adm.holdReported = u.adm.holdReported)
    (notice : v.notices.flags.getLsbD 3 = u.notices.flags.getLsbD 3) : holdNoted s v := by
  unfold holdNoted at noted ⊢
  rwa [state, reported, notice]

/-- A state that is as it was notes nothing. -/
theorem holdNoted_of_same {s u : State} (state : u.temp.state = s.temp.state)
    (reported : u.adm.holdReported = s.adm.holdReported) (flags : u.notices.flags = s.notices.flags) : holdNoted s u := by
  refine ⟨fun cold warm => absurd (state ▸ warm) cold, fun warm cold => absurd (state ▸ warm) cold, fun _ => ?_⟩
  rw [reported, flags]
  exact ⟨rfl, rfl⟩

/-- A change away from VALID is reported where the queue has entries, with TEMP_HOLD where it was not yet (R79). -/
theorem reportHold_notes {s u : State} (was : s.temp.state = .valid) (away : u.temp.state ≠ .valid)
    (queue : u.req.queue = s.req.queue) (reported : u.adm.holdReported = s.adm.holdReported)
    (flags : u.notices.flags = s.notices.flags) : holdNoted s (reportHold u) := by
  have now : (reportHold u).temp.state ≠ .valid := by simpa using away
  refine ⟨fun cold => absurd was cold, fun _ _ entries => ?_, fun change => ?_⟩
  · by_cases before : s.adm.holdReported = false
    · have raises : reportHold u = raise .tempHold { u with adm := { u.adm with holdReported := true } } :=
        if_pos ⟨by rw [reported, before], away, by rw [queue]; exact entries⟩
      rw [raises]
      exact ⟨rfl, fun _ => (raise_getLsbD _ _ _).mpr (.inr rfl)⟩
    · have still : reportHold u = u := if_neg fun raises => before (by rw [← reported]; exact raises.1)
      rw [still, reported]
      exact ⟨by simpa using before, fun no => absurd no before⟩
  · have empty : s.req.queue = [] := by
      rcases change with agree | ⟨empty, -⟩
      · exact absurd (agree.mp was) now
      · exact empty
    have still : reportHold u = u := if_neg fun raises => raises.2.2 (by rw [queue]; exact empty)
    rw [still, reported, flags]
    exact ⟨rfl, rfl⟩

/-- A change to VALID clears the flag, one away from VALID sets it where the queue has entries, and no other change of state
touches it. -/
theorem reportTempChange_notes {s u : State} (queue : u.req.queue = s.req.queue)
    (reported : u.adm.holdReported = s.adm.holdReported) (flags : u.notices.flags = s.notices.flags) :
    holdNoted s (reportTempChange s.temp.state u) := by
  by_cases same : u.temp.state = s.temp.state
  · have still : reportTempChange s.temp.state u = u := if_pos same
    rw [still]
    exact holdNoted_of_same same reported flags
  by_cases warm : u.temp.state = .valid
  · have cleared : reportTempChange s.temp.state u = { u with adm := { u.adm with holdReported := false } } := by
      rw [reportTempChange, if_neg same, if_pos warm]
    have cold : s.temp.state ≠ .valid := fun was => same (warm.trans was.symm)
    rw [cleared]
    refine ⟨fun _ _ => rfl, fun was => absurd was cold, fun change => ?_⟩
    rcases change with agree | ⟨-, away⟩
    · exact absurd (agree.mpr warm) cold
    · exact absurd warm away
  by_cases was : s.temp.state = .valid
  · have reports : reportTempChange s.temp.state u = reportHold u := by
      rw [reportTempChange, if_neg same, if_neg warm, if_pos was]
    rw [reports]
    exact reportHold_notes was warm queue reported flags
  · have still : reportTempChange s.temp.state u = u := by
      rw [reportTempChange, if_neg same, if_neg warm, if_neg was]
    rw [still]
    exact ⟨fun _ now => absurd now warm, fun now => absurd now was, fun _ => by rw [reported, flags]; exact ⟨rfl, rfl⟩⟩

/-! ### The end of the event (R80) -/

/-- The holds after the end of an event are those its effects left. -/
theorem held_finish (b s : State) : held (finish b s) = held s := by
  have sync : held (finish b s) = held (syncPower (tryPass (noteHolds b s))) :=
    held_congr (by simp [finish]) (by simp [finish]) (by simp [finish]) (by simp [finish]) (by simp [finish])
  rw [sync, held_syncPower]
  exact held_congr (by simp) (by simp) (by simp) (by simp) (by simp)

/-- A trigger stays where the end of the event starts no pass: admission is held, or a pass is running. -/
theorem finish_keeps_wanted {b s : State} (wanted : s.adm.passWanted = true)
    (barred : held s = true ∨ s.adm.passRunning = true) : (finish b s).adm.passWanted = true := by
  have noted : (noteHolds b s).adm.passWanted = true := by
    unfold noteHolds
    split
    · rfl
    · split <;> exact wanted
  have same : held (noteHolds b s) = held s := held_congr (by simp) (by simp) (by simp) (by simp) (by simp)
  have starts : tryPass (noteHolds b s) = noteHolds b s := by
    unfold tryPass
    rw [same]
    rcases barred with hold | running
    · simp [hold]
    · simp [running]
  simp [finish, starts, noted]

/-! ### Readings (R146) -/

/-- What a reading leaves of the temperature. -/
theorem takeReading_temp (v : Int) (s : State) : (takeReading v s).temp =
    { reading := some v, staleness := 0, band := s.lib.lookupBand v
      state := if (s.lib.lookupBand v).isSome then .valid else .outOfRange
      timer := s.settings.tempInterval } := by
  have kept : ∀ t : State, (bandTrigger s t).temp = t.temp := fun t => by unfold bandTrigger; split <;> rfl
  rw [takeReading, kept, recomputeTemp_temp]
  rfl

/-- A reading notes the change of state it makes (R79). -/
theorem takeReading_notes (v : Int) (s : State) : holdNoted s (takeReading v s) := by
  have kept : ∀ t : State, (bandTrigger s t).temp = t.temp ∧ (bandTrigger s t).adm.holdReported = t.adm.holdReported
      ∧ (bandTrigger s t).notices = t.notices := fun t => by
    unfold bandTrigger; split <;> exact ⟨rfl, rfl, rfl⟩
  obtain ⟨temp, reported, notices⟩ := kept (recomputeTemp
    { s with temp := { s.temp with reading := some v, staleness := 0, timer := s.settings.tempInterval } })
  refine holdNoted_congr ?_ (congrArg _ temp) reported (congrArg (fun n => n.flags.getLsbD 3) notices)
  exact reportTempChange_notes rfl rfl rfl

/-- A reading that changes the band while the state stays VALID gives a trigger (R80). -/
theorem takeReading_wants {v : Int} {s : State} (before : s.temp.state = .valid)
    (after : (takeReading v s).temp.state = .valid) (band : (takeReading v s).temp.band ≠ s.temp.band) :
    (takeReading v s).adm.passWanted = true := by
  have kept : ∀ t : State, (bandTrigger s t).temp = t.temp := fun t => by unfold bandTrigger; split <;> rfl
  rw [takeReading, kept] at after band
  rw [takeReading, bandTrigger, if_pos ⟨before, after, band⟩]
  rfl

/-- A reading with the end of its event: what it leaves of the temperature, what it notes, and the trigger, which stays where
no pass starts (R80, R146). -/
theorem finish_takeReading (v : Int) (b s : State) :
    (finish b (takeReading v s)).temp = (takeReading v s).temp ∧ holdNoted s (finish b (takeReading v s))
      ∧ (s.temp.state = .valid → (takeReading v s).temp.state = .valid → (takeReading v s).temp.band ≠ s.temp.band →
          held (finish b (takeReading v s)) = true ∨ s.adm.passRunning = true →
          (finish b (takeReading v s)).adm.passWanted = true) := by
  have running : (takeReading v s).adm.passRunning = s.adm.passRunning := by simp
  have noted := takeReading_notes v s
  have wants := takeReading_wants (v := v) (s := s)
  generalize takeReading v s = u at running noted wants ⊢
  have temp : (finish b u).temp = u.temp := by simp
  have reported : (finish b u).adm.holdReported = u.adm.holdReported := by simp
  refine ⟨temp, holdNoted_congr noted (congrArg _ temp) reported ((finish_lightens b u).flags 3 (by decide)),
    fun before after band barred => ?_⟩
  rw [held_finish, ← running] at barred
  exact finish_keeps_wanted (wants before after band) barred

/-- What a reading notes, and what it leaves, is read off the state at the transaction's end, which is the one before it but
for the link. -/
theorem holdNoted_atRisingEdge {t : Transfer} {s u : State} (noted : holdNoted (atRisingEdge t s) u) : holdNoted s u := by
  rw [atRisingEdge_eq] at noted
  exact noted

/-- A TEMP accepted: the reading is taken, and the reply shows state and band (R146). -/
theorem exec_temp {t : Transfer} {s : State} {seq : Byte} {p : List Byte} (arrives : arrivalOf t = .command .temp seq p)
    (live : linkTakes s) (length : p.length = 2) (low : -400 ≤ fieldSigned p 0) (high : fieldSigned p 0 ≤ 1000) :
    ∃ u, exec (.temp t) s = .next u ∧ answers u .temp seq .ok (tempBody u)
      ∧ u.temp = (takeReading (fieldSigned p 0) s).temp ∧ holdNoted s u
      ∧ (s.temp.state = .valid → u.temp.state = .valid → u.temp.band ≠ s.temp.band →
          held u = true ∨ s.adm.passRunning = true → u.adm.passWanted = true) := by
  have passed : tempCheck p = none := by
    simp [tempCheck, failIf, length, Int.not_lt.mpr low, Int.not_lt.mpr high]
  have taken : takeTemp p (atRisingEdge t s)
      = (takeReading (fieldSigned p 0) (atRisingEdge t s), .ok, tempBody) := by
    rw [takeTemp, passed]
  have next := takeKind_takes (effect := takeTemp) live arrives
  rw [taken] at next
  have same : (takeReading (fieldSigned p 0) (atRisingEdge t s)).temp = (takeReading (fieldSigned p 0) s).temp := by
    simp [takeReading_temp]
  have edge : (atRisingEdge t s).temp = s.temp ∧ (atRisingEdge t s).adm = s.adm := by simp
  obtain ⟨temp, noted, wants⟩ := finish_takeReading (fieldSigned p 0) (atRisingEdge t s) (atRisingEdge t s)
  rw [same] at temp wants
  rw [edge.1, edge.2, ← temp] at wants
  replace noted := holdNoted_atRisingEdge noted
  generalize finish (atRisingEdge t s) (takeReading (fieldSigned p 0) (atRisingEdge t s)) = f at next temp noted wants
  exact ⟨_, next, answers_placeReply _ _ _ _ _, temp, noted, wants⟩

/-! ### Expiries of the interval timer (R147) -/

/-- What an expiry leaves of the temperature: without a reading, or with the counter at 3, the timer alone is reloaded; else
the counter goes up, and the state is recomputed. -/
theorem expireInterval_temp (s : State) : (expireInterval s).temp =
    if s.temp.reading = none ∨ 3 ≤ s.temp.staleness then { s.temp with timer := s.settings.tempInterval }
    else { reading := s.temp.reading, staleness := s.temp.staleness + 1, band := s.temp.reading.bind s.lib.lookupBand
           state := tempStateOf s.temp.reading (s.temp.staleness + 1) (s.temp.reading.bind s.lib.lookupBand)
           timer := s.settings.tempInterval } := by
  unfold expireInterval
  simp only [Option.isNone_iff_eq_none]
  split
  · rfl
  · split <;> simp [recomputeTemp_temp]

/-- An expiry notes the change of state it makes: TEMP_STALE, which it may raise, is another notice (R79). -/
theorem expireInterval_notes (s : State) : holdNoted s (expireInterval s) := by
  unfold expireInterval
  dsimp only
  split
  · exact holdNoted_of_same rfl rfl rfl
  · have counted : holdNoted s (recomputeTemp { s with temp := { s.temp with
        timer := s.settings.tempInterval, staleness := s.temp.staleness + 1 } }) := reportTempChange_notes rfl rfl rfl
    split
    · refine holdNoted_congr counted rfl rfl ?_
      rw [Bool.eq_iff_iff, raise_getLsbD]
      exact or_iff_left (by decide)
    · exact counted

/-- The expiry that moves the counter to 3 raises TEMP_STALE. -/
theorem expireInterval_raises {s : State} (reading : s.temp.reading ≠ none) (last : s.temp.staleness = 2) :
    (expireInterval s).notices.flags.getLsbD 4 = true := by
  unfold expireInterval
  simp only [Option.isNone_iff_eq_none, reading, last]
  exact (raise_getLsbD _ _ _).mpr (.inr rfl)

/-- An expiry of the interval timer, with the end of the event. -/
theorem exec_intervalTimerExpiry (s : State) :
    ∃ u, exec .intervalTimerExpiry s = .next u ∧ u.temp.timer = s.settings.tempInterval
      ∧ holdNoted s u
      ∧ u.temp.reading = s.temp.reading
      ∧ (s.temp.reading = none ∨ 3 ≤ s.temp.staleness →
          u.temp.staleness = s.temp.staleness ∧ u.temp.state = s.temp.state)
      ∧ (s.temp.reading ≠ none → s.temp.staleness < 3 → u.temp.staleness = s.temp.staleness + 1)
      ∧ (s.temp.reading ≠ none → s.temp.staleness = 2 →
          u.temp.state = .stale ∧ u.notices.flags.getLsbD 4 = true) := by
  have next : exec .intervalTimerExpiry s = .next (finish s (expireInterval s)) := rfl
  have temp : (finish s (expireInterval s)).temp = (expireInterval s).temp := by simp
  have reported : (finish s (expireInterval s)).adm.holdReported = (expireInterval s).adm.holdReported := by simp
  have flags := (finish_lightens s (expireInterval s)).flags
  generalize finish s (expireInterval s) = u at next temp reported flags
  refine ⟨u, next, ?_, holdNoted_congr (expireInterval_notes s) (congrArg _ temp) reported (flags 3 (by decide)), ?_,
    fun still => ?_, fun reading counts => ?_, fun reading last => ⟨?_, ?_⟩⟩
  · rw [temp, expireInterval_temp]
    split <;> simp
  · rw [temp, expireInterval_temp]
    split <;> simp
  · simp [temp, expireInterval_temp, still]
  · simp [temp, expireInterval_temp, reading, Nat.not_le.mpr counts]
  · obtain ⟨v, own⟩ := Option.ne_none_iff_exists'.mp reading
    simp [temp, expireInterval_temp, own, last, tempStateOf]
  · rw [flags 4 (by decide)]
    exact expireInterval_raises reading last

/-! ### The band of a reading (R19, R25) -/

/-- The band is looked up in a VALID library alone, and is that between whose bounds the reading lies. -/
theorem lookupBand_iff {lib : Library} (t : Int) (k : Nat) (ascending : lib.bounds.Pairwise fun a b => a < b) :
    lib.lookupBand t = some k ↔ lib.state = .valid
      ∧ ∃ lo hi, lib.bounds[k]? = some lo ∧ lib.bounds[k + 1]? = some hi ∧ lo ≤ t ∧ t < hi := by
  unfold Library.lookupBand
  by_cases valid : lib.state = .valid
  · simp [valid, bandAmong_spec 0 _ _ ascending]
  · simp [valid]

/-- Settles O22: a reading and an expiry each by what they leave of the temperature, what they note of the hold, and the end
of the event; a refused TEMP by its checks. -/
theorem readingsAndExpiriesMoveTheTemperature : Obligations.ReadingsAndExpiriesMoveTheTemperature := by
  refine ⟨fun t s seq p arrives live length low high => ?_, fun s => ?_, fun lib t k => lookupBand_iff t k,
    fun _ _ _ => ⟨rfl, rfl, rfl, fun fresh => ⟨if_neg fresh, if_neg fresh⟩⟩, ⟨rfl, rfl, fun _ => rfl⟩,
    fun t s seq p r arrives live rest refusal => ?_⟩
  · obtain ⟨u, next, reply, temp, noted, wants⟩ := exec_temp arrives live length low high
    exact ⟨u, next, reply, temp.trans (takeReading_temp _ s), noted, wants⟩
  · exact exec_intervalTimerExpiry s
  · refine refuses_of_refused live rest arrives rfl ?_
    rw [firstRefusal_tempChecks] at refusal
    rw [takeTemp, refusal]

end Sys2Proof.Machine
end

section
/-!
PROOF. Passes, holds, lanes and early data, and what an admission walk reads and an admission writes (chapter 05).
-/

namespace Sys2Proof.Machine

open Sys2Proof.Safety

/-! ### Passes (R80 to R84) -/

/-- A pass starts when it is wanted, admission is not held and none is running (R80). -/
theorem tryPass_eq (s : State) : tryPass s =
    if s.adm.passWanted = true ∧ held s = false ∧ s.adm.passRunning = false then
      runPass (s.req.queue.map fun e => e.age)
        { s with adm := { s.adm with passRunning := true, passWanted := false, passCut := false } }
    else s := by
  simp only [tryPass, startPass, Bool.and_eq_true, Bool.not_eq_true', and_assoc]

section
variable {s : State} {rest : List Nat} {e : QueueEntry} {r : Request}

/-- An entry whose data is neither ready nor early-eligible is skipped (R81). -/
theorem runPass_of_no_data (entry : entryOf s r.age = some e) (found : findAge s r.age = some r) (ready : r.dataReady = false)
    (early : earlyEligible s r = false) : runPass (r.age :: rest) s = runPass rest s := by
  rw [runPass]
  simp [entry, found, ready, early]

/-- An entry whose rectangle an older one intersects is skipped (R82). -/
theorem runPass_of_older (entry : entryOf s r.age = some e) (found : findAge s r.age = some r)
    (older : olderIntersects s r = true) : runPass (r.age :: rest) s = runPass rest s := by
  rw [runPass]
  simp [entry, found, older]

/-- The pass ends at an entry that could begin its walk where no lane is FREE (R81). -/
theorem runPass_of_no_lane (entry : entryOf s r.age = some e) (found : findAge s r.age = some r)
    (data : r.dataReady = true ∨ earlyEligible s r = true) (clear : olderIntersects s r = false) (full : freeLane s = none) :
    runPass (r.age :: rest) s = endPass s := by
  have goes : (!r.dataReady && !earlyEligible s r) = false := by rcases data with h | h <;> simp [h]
  rw [runPass]
  simp [entry, found, goes, clear, full]

/-- Else the entry's walk begins, where its set is present; where it is absent the entry is resolved at once (R84, log 12). -/
theorem runPass_of_lane (entry : entryOf s r.age = some e) (found : findAge s r.age = some r)
    (data : r.dataReady = true ∨ earlyEligible s r = true) (clear : olderIntersects s r = false) {l : LaneId} {band : Nat}
    (lane : freeLane s = some l) (known : s.temp.band = some band) :
    runPass (r.age :: rest) s =
      if (s.lib.setOf r.startingMode band).frames = 0 then runPass rest (resolveUnsupported r.age s)
      else beginWalk r band s := by
  have goes : (!r.dataReady && !earlyEligible s r) = false := by rcases data with h | h <;> simp [h]
  rw [runPass]
  simp [entry, found, goes, clear, lane, known]

end

/-- What the beginning of a walk writes of the Admission Unit and of the requests (R84). -/
theorem beginWalk_writes (r : Request) (band : Nat) (s : State) :
    (beginWalk r band s).adm = { s.adm with
        walk := some { age := r.age, band := band, mode := r.startingMode, dataReady := r.dataReady,
                       pages := r.pages, readings := [] } }
      ∧ (beginWalk r band s).req = { s.req with
          queue := s.req.queue.map fun o => if o.age = r.age then { o with admitting := true } else o } := by
  unfold beginWalk beginWait
  split <;> exact ⟨rfl, rfl⟩

/-- An older entry intersects a request's rectangle (R82). -/
theorem olderIntersects_iff (s : State) (r : Request) : olderIntersects s r = true ↔
    ∃ o ∈ s.req.queue, o.age < r.age ∧ ∃ q, findAge s o.age = some q ∧ q.rect.intersects r.rect = true := by
  simp only [olderIntersects, List.any_eq_true, Bool.and_eq_true, decide_eq_true_eq]
  refine exists_congr fun o => and_congr_right fun _ => and_congr_right fun _ => ?_
  cases findAge s o.age <;> simp

/-- A pass over an entry of a live request (R81 to R84), in the order of `Obligations.AdmissionArmsALane`. -/
theorem runPass_entry (s : State) (rest : List Nat) (e : QueueEntry) (r : Request) (entry : entryOf s r.age = some e)
    (found : findAge s r.age = some r) :
    (r.dataReady = false → earlyEligible s r = false → runPass (r.age :: rest) s = runPass rest s)
      ∧ (∀ o q, o ∈ s.req.queue → o.age < r.age → findAge s o.age = some q → q.rect.intersects r.rect = true →
          runPass (r.age :: rest) s = runPass rest s)
      ∧ (r.dataReady = true ∨ earlyEligible s r = true → olderIntersects s r = false →
          (freeLane s = none →
              runPass (r.age :: rest) s = { s with adm := { s.adm with passRunning := false, passCut := false } })
            ∧ ∀ l band, freeLane s = some l → s.temp.band = some band →
              ((s.lib.setOf r.startingMode band).frames ≠ 0 →
                  (runPass (r.age :: rest) s).adm = { s.adm with
                      walk := some { age := r.age, band := band, mode := r.startingMode, dataReady := r.dataReady,
                                     pages := r.pages, readings := [] } }
                    ∧ (runPass (r.age :: rest) s).req = { s.req with
                        queue := s.req.queue.map fun o => if o.age = r.age then { o with admitting := true } else o })
              ∧ ((s.lib.setOf r.startingMode band).frames = 0 →
                  runPass (r.age :: rest) s =
                    runPass rest (judgeJobs (judgeFinish r.age
                      (finishPart r.age .unsupported (removeEntry r.age s)))))) := by
  refine ⟨runPass_of_no_data entry found, fun o q listed older live meets => ?_, fun data clear =>
    ⟨runPass_of_no_lane entry found data clear, fun l band lane known => ⟨fun present => ?_, fun absent => ?_⟩⟩⟩
  · exact runPass_of_older entry found ((olderIntersects_iff s r).mpr ⟨o, listed, older, q, live, meets⟩)
  · rw [runPass_of_lane entry found data clear lane known, if_neg present]
    exact beginWalk_writes r band s
  · rw [runPass_of_lane entry found data clear lane known, if_pos absent]
    rfl

/-! ### Holds and lanes (R78, R94) -/

/-- The restart condition: an abort walk that a RESTART started is running (R78). -/
theorem restartWalks_iff (s : State) : restartWalks s = true ↔
    ∃ l ln done, laneAt s l = some ln ∧ ln.state = .retiring (.abort .restarted) done := by
  have restarted : ∀ st : LaneState, st.restarted = true ↔ ∃ done, st = .retiring (.abort .restarted) done := fun st => by
    unfold LaneState.restarted
    split <;> simp_all
  simp only [restartWalks, List.any_eq_true]
  constructor
  · rintro ⟨l, -, walks⟩
    cases lane : laneAt s l with
    | none => simp [lane] at walks
    | some ln =>
      obtain ⟨done, state⟩ := (restarted ln.state).mp (by simpa [lane] using walks)
      exact ⟨l, ln, done, lane, state⟩
  · rintro ⟨l, ln, done, lane, state⟩
    refine ⟨l, mem_allLanes l, ?_⟩
    rw [lane]
    exact (restarted ln.state).mpr ⟨done, state⟩

/-- Admission is held while one of the conditions of R78 is in force. -/
theorem held_iff (s : State) : held s = true ↔
    s.lib.state ≠ .valid ∨ s.temp.state ≠ .valid ∨ s.rails.state = .fault ∨ s.px.walk ≠ none
      ∨ ∃ l ln done, laneAt s l = some ln ∧ ln.state = .retiring (.abort .restarted) done := by
  simp only [held, Bool.or_eq_true, decide_eq_true_eq, restartWalks_iff, or_assoc, initialising, Option.isSome_iff_ne_none]

/-- The first of the sixteen lanes with a property is the lowest-numbered one. -/
theorem find_allLanes_iff (p : LaneId → Bool) (l : LaneId) :
    allLanes.find? p = some l ↔ p l = true ∧ ∀ m : LaneId, m.val < l.val → p m = false := by
  rw [List.find?_eq_some_iff_getElem]
  refine and_congr_right fun _ => ⟨?_, fun lower => ?_⟩
  · rintro ⟨i, bound, here, lower⟩ m below
    have own : i = l.val := by rw [← here]; simp [allLanes]
    have first := lower m.val (own ▸ below)
    simpa [allLanes] using first
  · refine ⟨l.val, by simp [allLanes], by simp [allLanes], fun j below => ?_⟩
    have first := lower ⟨j, by omega⟩ below
    simpa [allLanes] using first

/-- The lane an admission takes is the lowest-numbered FREE one (R94). -/
theorem freeLane_iff (s : State) (l : LaneId) :
    (freeLane s = some l ↔ laneAt s l = none ∧ ∀ m : LaneId, m.val < l.val → laneAt s m ≠ none)
      ∧ (freeLane s = none ↔ ∀ m, laneAt s m ≠ none) := by
  constructor
  · simp [freeLane, find_allLanes_iff, Option.isSome_iff_ne_none]
  · simp [freeLane, List.find?_eq_none, mem_allLanes]

/-! ### Data (R40, R70, R84) -/

/-- BLANK and CLEAR are the clearing modes (R18). -/
theorem Mode.clearing_iff (m : Mode) : m.clearing = true ↔ m = .blank ∨ m = .clear := by
  cases m <;> decide

/-- The early point is ⌈h × t / 16⌉ (R70). -/
theorem earlyPoint_bounds (t h : Nat) : h * t ≤ 16 * earlyPoint t h ∧ 16 * earlyPoint t h < h * t + 16 := by
  unfold earlyPoint
  omega

/-- The early point is reached with that many rows. -/
theorem earlyPoint_le_iff (t h n : Nat) : earlyPoint t h ≤ n ↔ h * t ≤ 16 * n := by
  have := earlyPoint_bounds t h
  omega

/-- Early-eligible: a clearing mode, the early flag, a threshold of 1 to 15, its rows written, and leads in the current band
(R70, R81). -/
theorem earlyEligible_iff (s : State) (r : Request) : earlyEligible s r = true ↔
    (r.requestedMode = .blank ∨ r.requestedMode = .clear) ∧ r.early = true
      ∧ 1 ≤ s.settings.earlyThreshold ∧ s.settings.earlyThreshold ≤ 15
      ∧ r.rect.height * s.settings.earlyThreshold ≤ 16 * r.rowsWritten
      ∧ ∃ band, s.temp.band = some band ∧ 0 < (s.lib.setOf r.startingMode band).leads := by
  simp only [earlyEligible, Bool.and_eq_true, decide_eq_true_eq, Mode.clearing_iff, earlyPoint_le_iff, and_assoc]
  cases s.temp.band <;> simp

/-- The data of a request, and the mode its walks start from. -/
theorem requestData (s : State) (r : Request) :
    (r.dataReady = true ↔ r.rowsWritten = r.rect.height)
      ∧ (r.startingMode = match r.modeUsed with | some m => m | none => r.requestedMode)
      ∧ (earlyEligible s r = true ↔
          (r.requestedMode = .blank ∨ r.requestedMode = .clear) ∧ r.early = true
            ∧ 1 ≤ s.settings.earlyThreshold ∧ s.settings.earlyThreshold ≤ 15
            ∧ r.rect.height * s.settings.earlyThreshold ≤ 16 * r.rowsWritten
            ∧ ∃ band, s.temp.band = some band ∧ 0 < (s.lib.setOf r.startingMode band).leads)
      ∧ (olderIntersects s r = true ↔
          ∃ o ∈ s.req.queue, o.age < r.age ∧ ∃ q, findAge s o.age = some q ∧ q.rect.intersects r.rect = true) := by
  refine ⟨by simp [Request.dataReady], ?_, earlyEligible_iff s r, olderIntersects_iff s r⟩
  unfold Request.startingMode
  cases r.modeUsed <;> rfl

/-! ### Readings (R11, R12, R85, R86) -/

/-- The lanes in a tile entry (R11). -/
theorem mem_tileLanes_iff {s : State} {tile : Nat} {l : LaneId} : l ∈ tileLanes s tile ↔ (tile, l) ∈ s.px.tiles := by
  simp [tileLanes]

/-- A lane is foreign to a request by its tag (R12). -/
theorem foreignLane_iff {s : State} {tag : Nat} {l : LaneId} :
    foreignLane s tag l = true ↔ ∃ ln, laneAt s l = some ln ∧ ln.tag ≠ tag := by
  unfold foreignLane
  cases laneAt s l <;> simp

/-- The owner is read only where the tile entry holds a lane (R85). -/
theorem ownerRead_eq_some_iff {s : State} {x y : Nat} {l : LaneId} : ownerRead s x y = some l ↔
    (∃ m, (tileOf s x y, m) ∈ s.px.tiles) ∧ (pixelAt s x y).owner = some l := by
  have entered : (tileLanes s (tileOf s x y)).isEmpty = false ↔ ∃ m, (tileOf s x y, m) ∈ s.px.tiles := by
    simp only [List.isEmpty_eq_false_iff_exists_mem, mem_tileLanes_iff]
  unfold ownerRead
  rw [← entered]
  cases (tileLanes s (tileOf s x y)).isEmpty <;> simp

/-- A pixel is read free where it has no owner or its tile entry no lane, and foreign where its owner is of another request
(R85). -/
theorem ownershipRead_iff (s : State) (tag x y : Nat) :
    (ownershipRead s tag x y = .free ↔ (pixelAt s x y).owner = none ∨ ∀ l, (tileOf s x y, l) ∉ s.px.tiles)
      ∧ (ownershipRead s tag x y = .foreign ↔ (∃ l, (tileOf s x y, l) ∈ s.px.tiles)
          ∧ ∃ l ln, (pixelAt s x y).owner = some l ∧ laneAt s l = some ln ∧ ln.tag ≠ tag) := by
  unfold ownershipRead
  cases read : ownerRead s x y with
  | none =>
    have free : (pixelAt s x y).owner = none ∨ ∀ l, (tileOf s x y, l) ∉ s.px.tiles := by
      by_contra owned
      obtain ⟨some, entered⟩ := not_or.mp owned
      obtain ⟨l, own⟩ := Option.ne_none_iff_exists'.mp some
      simp only [not_forall, not_not] at entered
      rw [ownerRead_eq_some_iff.mpr ⟨entered, own⟩] at read
      cases read
    refine ⟨iff_of_true rfl free, iff_of_false (by simp) ?_⟩
    rintro ⟨⟨m, entered⟩, l, ln, own, -⟩
    rcases free with none | empty
    · rw [none] at own; cases own
    · exact empty m entered
  | some l =>
    obtain ⟨⟨m, entered⟩, own⟩ := ownerRead_eq_some_iff.mp read
    have owned : ¬((pixelAt s x y).owner = none ∨ ∀ l, (tileOf s x y, l) ∉ s.px.tiles) := by
      rintro (none | empty)
      · rw [none] at own; cases own
      · exact empty m entered
    have others : (∃ l ln, (pixelAt s x y).owner = some l ∧ laneAt s l = some ln ∧ ln.tag ≠ tag)
        ↔ foreignLane s tag l = true := by
      rw [foreignLane_iff, own]
      constructor
      · rintro ⟨k, ln, same, lane, other⟩
        cases same
        exact ⟨ln, lane, other⟩
      · rintro ⟨ln, lane, other⟩
        exact ⟨l, ln, rfl, lane, other⟩
    rw [others]
    refine ⟨iff_of_false ?_ owned, ?_⟩
    · dsimp only
      split <;> simp
    · dsimp only
      split
      · rename_i foreign
        exact iff_of_true rfl ⟨⟨m, entered⟩, foreign⟩
      · rename_i sibling
        simp [sibling]

/-- What a walk reads at a position (R84 to R86). -/
theorem readPixel_reads (s : State) (w : AdmissionWalk) (r : Request) (i x y tile : Nat) (z : Reading)
    (column : x = r.rect.col + i % r.rect.width) (row : y = r.rect.row + i / r.rect.width)
    (inTile : tile = y / 32 * ((panelWidth s + 31) / 32) + x / 32) (read : z = readPixel s w r i) :
    z.shown = (pixelAt s x y).shown ∧ z.residue = (pixelAt s x y).residue ∧ z.balance = (pixelAt s x y).balance
      ∧ z.indeterminate = (pixelAt s x y).indeterminate ∧ z.tile = tile
      ∧ (z.tileForeign = true ↔ ∃ l ln, (tile, l) ∈ s.px.tiles ∧ laneAt s l = some ln ∧ ln.tag ≠ r.tag)
      ∧ (z.ownership = .free ↔ (pixelAt s x y).owner = none ∨ ∀ l, (tile, l) ∉ s.px.tiles)
      ∧ (z.ownership = .foreign ↔ (∃ l, (tile, l) ∈ s.px.tiles)
          ∧ ∃ l ln, (pixelAt s x y).owner = some l ∧ laneAt s l = some ln ∧ ln.tag ≠ r.tag)
      ∧ (w.mode = .blank ∨ w.mode = .clear → z.target = none)
      ∧ (w.mode ≠ .blank → w.mode ≠ .clear →
          z.target = some (targetLevel s r.source (w.pages.getD []) r.rect x y)) := by
  have here : r.rect.position i = (x, y) := by rw [column, row]; rfl
  have inTile : tile = tileOf s x y := inTile
  obtain ⟨free, foreign⟩ := ownershipRead_iff s r.tag x y
  subst read inTile
  unfold readPixel
  dsimp only
  rw [here]
  refine ⟨rfl, rfl, rfl, rfl, rfl, ?_, free, foreign, fun clears => ?_, fun blank clear => ?_⟩
  · simp only [List.any_eq_true, mem_tileLanes_iff, foreignLane_iff]
    exact exists_congr fun l => exists_and_left.symm
  · rw [if_pos ((Mode.clearing_iff _).mpr clears)]
  · rw [if_neg fun clears => ((Mode.clearing_iff _).mp clears).elim blank clear]

/-! ### What an admission writes (R11, R95) -/

/-- The pixels at the positions of a drive set take the lane as their owner, every other stays. -/
theorem pixelAt_ownPixels (l : LaneId) (rect : Rect) (drive : List Nat) {s : State} (wide : 0 < rect.width)
    (fits : rect.col + rect.width ≤ panelWidth s) {x y : Nat} (hx : x < panelWidth s) :
    pixelAt (ownPixels l rect drive s) x y =
      if ∃ i ∈ drive, x = rect.col + i % rect.width ∧ y = rect.row + i / rect.width then
        { pixelAt s x y with owner := some l }
      else pixelAt s x y := by
  unfold ownPixels
  induction drive generalizing s with
  | nil => simp
  | cons i drive ih =>
    have column : (rect.position i).1 < panelWidth s := by
      have := Nat.mod_lt i wide
      simp only [Rect.position]
      omega
    have step := pixelAt_updatePixel (s := s) (y := (rect.position i).2) (f := fun p => { p with owner := some l }) column
      (.inr (by simp [PixelRecord.initial])) (x' := x) (y' := y) hx
    rw [List.foldl_cons, ih (s := updatePixel (rect.position i).1 (rect.position i).2 (fun p => { p with owner := some l }) s)
      fits hx, step]
    by_cases hit : x = (rect.position i).1 ∧ y = (rect.position i).2
    · have first : ∃ j ∈ i :: drive, x = rect.col + j % rect.width ∧ y = rect.row + j / rect.width :=
        ⟨i, List.mem_cons_self, hit⟩
      rw [if_pos hit, if_pos first, ← hit.1, ← hit.2, ite_self]
    · have same : (∃ j ∈ i :: drive, x = rect.col + j % rect.width ∧ y = rect.row + j / rect.width)
          ↔ ∃ j ∈ drive, x = rect.col + j % rect.width ∧ y = rect.row + j / rect.width := by
        rw [List.exists_mem_cons_iff]
        exact or_iff_right hit
      simp only [if_neg hit, same]

/-- A rectangle touches the tiles of its pixels (R11). -/
theorem mem_touchedTiles_iff {rect : Rect} (some : 0 < rect.area) (s : State) (tile : Nat) :
    tile ∈ touchedTiles s rect ↔ ∃ x y, rect.contains x y = true ∧ tile = tileOf s x y := by
  constructor
  · intro touched
    have wide : 0 < rect.width := Nat.pos_of_mul_pos_right some
    have high : 0 < rect.height := Nat.pos_of_mul_pos_left some
    obtain ⟨j, inRows, touched⟩ := List.mem_flatMap.mp touched
    obtain ⟨i, inColumns, rfl⟩ := List.mem_map.mp touched
    rw [List.mem_range] at inRows inColumns
    refine ⟨max rect.col (32 * (rect.col / 32 + i)), max rect.row (32 * (rect.row / 32 + j)), ?_, ?_⟩
    · rw [Rect.contains_iff]
      omega
    · have row : max rect.row (32 * (rect.row / 32 + j)) / 32 = rect.row / 32 + j := by omega
      have column : max rect.col (32 * (rect.col / 32 + i)) / 32 = rect.col / 32 + i := by omega
      rw [tileOf, row, column]
  · rintro ⟨x, y, there, rfl⟩
    exact tileOf_mem_touchedTiles there

/-- Owners and tile entries behind an admission (R95): the pixels of the drive set, and the tiles the rectangle touches. -/
theorem pixelAt_admission (s : State) (l : LaneId) (rect : Rect) (drive : List Nat) (x y : Nat) (area : 0 < rect.area)
    (fits : rect.col + rect.width ≤ panelWidth s) (hx : x < panelWidth s) :
    pixelAt (addToTiles l rect (ownPixels l rect drive s)) x y =
      if ∃ i ∈ drive, x = rect.col + i % rect.width ∧ y = rect.row + i / rect.width then
        { pixelAt s x y with owner := some l }
      else pixelAt s x y := by
  rw [pixelAt_congr (s := ownPixels l rect drive s) (by simp) (by simp)]
  exact pixelAt_ownPixels l rect drive (Nat.pos_of_mul_pos_right area) fits hx

theorem tiles_admission (s : State) (l : LaneId) (rect : Rect) (drive : List Nat) (e : Nat × LaneId) (area : 0 < rect.area) :
    e ∈ (addToTiles l rect (ownPixels l rect drive s)).px.tiles ↔ e ∈ s.px.tiles
      ∨ e.2 = l ∧ ∃ x y, rect.contains x y = true ∧ e.1 = y / 32 * ((panelWidth s + 31) / 32) + x / 32 := by
  have tiles : ∀ x y, tileOf (ownPixels l rect drive s) x y = y / 32 * ((panelWidth s + 31) / 32) + x / 32 := fun x y => by
    simp [tileOf, tileColumns, panelWidth]
  obtain ⟨tile, m⟩ := e
  simp only [addToTiles, ownPixels_keeps, List.mem_append, List.mem_map, Prod.mk.injEq, mem_touchedTiles_iff area, tiles]
  constructor
  · rintro (was | ⟨t, touched, rfl, rfl⟩)
    · exact .inl was
    · exact .inr ⟨rfl, touched⟩
  · rintro (was | ⟨rfl, touched⟩)
    · exact .inl was
    · exact .inr ⟨tile, touched, rfl, rfl⟩

end Sys2Proof.Machine
end

section
/-!
PROOF. The judgement of an admission walk: natural drive set, collisions, ghost check, result (chapter 05).
-/

namespace Sys2Proof.Machine

open Sys2Proof.Safety

/-! ### The natural drive set and collisions (R85 to R87, R92) -/

/-- What a mode would drive of a pixel read free, foreign or a sibling's (R85). -/
theorem natural_reads (x : Reading) (m : Mode) :
    (x.ownership = .sibling → x.natural m = false) ∧ (x.ownership = .foreign → x.natural m = true)
      ∧ (x.ownership = .free →
          (m = .blank ∨ m = .clear → x.natural m = true)
            ∧ (m = .settle ∨ m = .quick →
                (x.natural m = true ↔ x.indeterminate = true ∨ x.target ≠ some x.shown))
            ∧ (m = .stroke →
                (x.natural m = true ↔ x.indeterminate = true ∨ ∃ t, x.target = some t ∧ t < x.shown))) := by
  refine ⟨fun own => by simp [Reading.natural, own], fun own => by simp [Reading.natural, own], fun own => ⟨?_, ?_, ?_⟩⟩
  · rintro (rfl | rfl) <;> simp [Reading.natural, own]
  · rintro (rfl | rfl) <;> simp [Reading.natural, own]
  · rintro rfl
    cases target : x.target <;> simp [Reading.natural, own, target]

/-- The tiles found blocked are those of readings with a foreign lane in their tile entry (R86). -/
theorem mem_blockedTiles_iff (xs : List Reading) (tile : Nat) :
    tile ∈ blockedTiles xs ↔ ∃ z ∈ xs, z.tileForeign = true ∧ z.tile = tile := by
  simp [blockedTiles, and_assoc]

/-- Collisions and blocked pixels, by PIXEL and by TILE (R12, R86, R92). -/
theorem collision_reads (m : Mode) (xs : List Reading) (x : Reading) :
    (collision .pixel m xs = true ↔ ∃ z ∈ xs, z.ownership = .foreign)
      ∧ (collision .tile m xs = true ↔ ∃ z ∈ xs, z.tileForeign = true)
      ∧ (x.collides .pixel (blockedTiles xs) = true ↔ x.ownership = .foreign)
      ∧ (x.collides .tile (blockedTiles xs) = true ↔ ∃ z ∈ xs, z.tileForeign = true ∧ z.tile = x.tile)
      ∧ (rectBlocked .pixel xs = true ↔ ∃ z ∈ xs, z.ownership ≠ .free)
      ∧ (rectBlocked .tile xs = true ↔ ∃ z ∈ xs, z.ownership ≠ .free ∨ z.tileForeign = true) := by
  have foreign : ∀ z : Reading, z.natural m = true ∧ z.ownership = .foreign ↔ z.ownership = .foreign := fun z =>
    and_iff_right_of_imp (natural_reads z m).2.1
  refine ⟨?_, ?_, by simp [Reading.collides], ?_, by simp [rectBlocked], by simp [rectBlocked]⟩
  · simp only [collision, List.any_eq_true, Bool.and_eq_true, decide_eq_true_eq, foreign]
  · simp only [collision, Bool.not_eq_true', List.isEmpty_eq_false_iff_exists_mem, mem_blockedTiles_iff]
    exact ⟨fun ⟨_, z, mem, blocked, _⟩ => ⟨z, mem, blocked⟩, fun ⟨z, mem, blocked⟩ => ⟨_, z, mem, blocked, rfl⟩⟩
  · simp only [Reading.collides, List.contains_iff_mem, mem_blockedTiles_iff]

/-- A reading with its position is in the numbered list where the list of readings has it. -/
theorem mem_numbered_iff (xs : List Reading) (keep : Nat × Reading → Bool) (i : Nat) (x : Reading) :
    (i, x) ∈ (xs.zipIdx.map fun p => (p.2, p.1)).filter keep ↔ xs[i]? = some x ∧ keep (i, x) = true := by
  rw [List.mem_filter]
  refine and_congr_left fun _ => ?_
  rw [← List.mk_mem_zipIdx_iff_getElem?]
  simp

/-- An upgraded part waits while anything of its rectangle is blocked (R92). -/
theorem collisionStage_upgraded {g : Granularity} {r : Request} {e : QueueEntry} {m : Mode} {xs : List Reading}
    (upgraded : e.upgradePending = true) (blocked : rectBlocked g xs = true) : collisionStage g r e m xs = none := by
  simp [collisionStage, upgraded, blocked]

/-- A collision keeps a part waiting, or splits it; without one the natural drive set is driven (R86, R87). -/
theorem collisionStage_judges (g : Granularity) (r : Request) (e : QueueEntry) (m : Mode) (xs : List Reading) :
    (e.upgradePending = true → rectBlocked g xs = true → collisionStage g r e m xs = none)
      ∧ (e.upgradePending = false ∨ rectBlocked g xs = false →
          (collision g m xs = true →
              (m = .blank ∨ m = .clear ∨ r.collision = .wait ∨ 8 ≤ r.partsUsed → collisionStage g r e m xs = none)
                ∧ (m ≠ .blank → m ≠ .clear → r.collision = .split → r.partsUsed < 8 →
                    ∃ drive, collisionStage g r e m xs = some (drive, true)
                      ∧ ∀ i x, (i, x) ∈ drive ↔
                          xs[i]? = some x ∧ x.natural m = true ∧ x.collides g (blockedTiles xs) = false))
            ∧ (collision g m xs = false →
                ∃ drive, collisionStage g r e m xs = some (drive, false)
                  ∧ ∀ i x, (i, x) ∈ drive ↔ xs[i]? = some x ∧ x.natural m = true)) := by
  refine ⟨collisionStage_upgraded, fun goes => ?_⟩
  have goes : (e.upgradePending && rectBlocked g xs) = false := by rcases goes with h | h <;> simp [h]
  refine ⟨fun collides => ⟨fun stays => ?_, fun blank clear splits room => ?_⟩, fun apart => ?_⟩
  · by_cases clears : m.clearing = true
    · simp [collisionStage, goes, collides, clears]
    · cases policy : r.collision with
      | wait => simp [collisionStage, goes, collides, policy]
      | split =>
        have full : 8 ≤ r.partsUsed := by
          rw [Mode.clearing_iff] at clears
          simpa [← or_assoc, clears, policy] using stays
        simp [collisionStage, goes, collides, policy, Config.partsPerRequest, full]
  · have drives : m.clearing = false := by
      rw [Bool.eq_false_iff, ne_eq, Mode.clearing_iff]
      exact fun either => either.elim blank clear
    have stage : collisionStage g r e m xs = some ((xs.zipIdx.map fun p => (p.2, p.1)).filter
        (fun p => p.2.natural m && !p.2.collides g (blockedTiles xs)), true) := by
      simp [collisionStage, goes, collides, drives, splits, Config.partsPerRequest, Nat.not_le.mpr room]
    exact ⟨_, stage, fun i x => (mem_numbered_iff xs _ i x).trans (by simp)⟩
  · have stage : collisionStage g r e m xs = some ((xs.zipIdx.map fun p => (p.2, p.1)).filter
        (fun p => p.2.natural m), false) := by
      simp [collisionStage, goes, apart]
    exact ⟨_, stage, fun i x => mem_numbered_iff xs _ i x⟩

/-! ### The ghost check (R89, R90) -/

/-- The ghost check's verdict: indeterminate pixels first, then, of a mode that is not a clearing one, residue, then
balance. -/
theorem ghostFailure_judges (residue balance : Nat) (m : Mode) (xs : List Reading) :
    ((∃ x ∈ xs, x.indeterminate = true) → m ≠ .blank →
        ghostFailure residue balance m xs = some (.indeterminate, .blank))
      ∧ ((∀ x ∈ xs, x.indeterminate = false) ∨ m = .blank →
          (m = .blank ∨ m = .clear → ghostFailure residue balance m xs = none)
            ∧ (m ≠ .blank → m ≠ .clear →
                ((∃ x ∈ xs, residue < x.residue + if m = .quick then 2 else 1) →
                    ghostFailure residue balance m xs = some (.residue, .clear))
                  ∧ ((∀ x ∈ xs, x.residue + (if m = .quick then 2 else 1) ≤ residue) →
                      ((∃ x ∈ xs, balance ≤ x.balance.natAbs) →
                          ghostFailure residue balance m xs = some (.balance, .clear))
                        ∧ ((∀ x ∈ xs, x.balance.natAbs < balance) →
                            ghostFailure residue balance m xs = none)))) := by
  have set : (xs.any fun x => x.indeterminate) = true ↔ ∃ x ∈ xs, x.indeterminate = true := List.any_eq_true
  refine ⟨fun some other => ?_, fun clean => ?_⟩
  · simp [ghostFailure, set.mpr some, other]
  · have passes : (decide (m ≠ .blank) && xs.any fun x => x.indeterminate) = false := by
      rcases clean with none | blank
      · have no : (xs.any fun x => x.indeterminate) = false := List.any_eq_false.mpr fun x mem => by simp [none x mem]
        simp [no]
      · simp [blank]
    refine ⟨fun clears => ?_, fun blank clear => ?_⟩
    · unfold ghostFailure
      rw [passes, (Mode.clearing_iff m).mpr clears]
      rfl
    have drives : m.clearing = false := by
      rw [Bool.eq_false_iff, ne_eq, Mode.clearing_iff]
      exact fun either => either.elim blank clear
    have weight := Mode.weight_eq drives
    have judged : ghostFailure residue balance m xs =
        if xs.any (Reading.residueFails residue m.weight) then some (.residue, .clear)
        else if xs.any (Reading.balanceFails balance) then some (.balance, .clear)
        else none := by
      unfold ghostFailure
      rw [passes, drives]
      rfl
    rw [judged, ← weight]
    refine ⟨fun ⟨x, mem, fails⟩ => if_pos (List.any_eq_true.mpr ⟨x, mem, by simpa [Reading.residueFails] using fails⟩),
      fun light => ?_⟩
    have noResidue : ¬ xs.any (Reading.residueFails residue m.weight) = true := by
      rw [List.any_eq_true]
      rintro ⟨x, mem, fails⟩
      have := light x mem
      simp only [Reading.residueFails, decide_eq_true_eq] at fails
      omega
    rw [if_neg noResidue]
    refine ⟨fun ⟨x, mem, fails⟩ => if_pos (List.any_eq_true.mpr ⟨x, mem, by simpa [Reading.balanceFails] using fails⟩),
      fun even => if_neg ?_⟩
    rw [List.any_eq_true]
    rintro ⟨x, mem, fails⟩
    have := even x mem
    simp only [Reading.balanceFails, decide_eq_true_eq] at fails
    omega

/-! ### The result (R42, R85 to R93) -/

section
variable {st : Settings} {lib : Library} {r : Request} {e : QueueEntry} {w : AdmissionWalk} {drive : List (Nat × Reading)}
  {remainder : Bool} {failure : Option (UpgradeReason × Mode)}

/-- A drive set that is not empty is judged by the ghost policy (R89, R90). -/
theorem judgeWalk_passes (stage : collisionStage st.granularity r e w.mode w.readings = some (drive, remainder))
    (some : drive ≠ []) (failed : ghostFailure st.residueLimit st.balanceLimit w.mode (drive.map fun p => p.2) = failure)
    (passes : failure = none ∨ r.ghost = .force ∧ (∀ mode, failure ≠ Option.some (.indeterminate, mode))) :
    judgeWalk st lib r e w =
      if earlyDataPasses lib w.band w.dataReady w.mode = true then .admits w.mode none (drive.map fun p => p.1) remainder
      else .stays := by
  have verdict : ghostVerdict r.ghost failure = .passes := by
    rcases passes with none | ⟨force, may⟩
    · rw [none]; rfl
    · cases failure with
      | none => rfl
      | some f =>
        obtain ⟨reason, mode⟩ := f
        have other : reason ≠ .indeterminate := fun same => may mode (by rw [same])
        simp [ghostVerdict, force, other]
  simp [judgeWalk, stage, some, failed, verdict]

theorem judgeWalk_refuses {reason : UpgradeReason} {mode : Mode}
    (stage : collisionStage st.granularity r e w.mode w.readings = some (drive, remainder)) (some : drive ≠ [])
    (failed : ghostFailure st.residueLimit st.balanceLimit w.mode (drive.map fun p => p.2) = Option.some (reason, mode))
    (refuse : r.ghost = .refuse) : judgeWalk st lib r e w = .resolves .ghostRefused (Option.some reason) := by
  simp [judgeWalk, stage, some, failed, ghostVerdict, refuse]

/-- A walk that upgrades drives the whole rectangle, where nothing of it is blocked and the data is there (R91 to R93). -/
theorem judgeWalk_upgrades {reason : UpgradeReason} {mode : Mode}
    (stage : collisionStage st.granularity r e w.mode w.readings = some (drive, remainder)) (some : drive ≠ [])
    (failed : ghostFailure st.residueLimit st.balanceLimit w.mode (drive.map fun p => p.2) = Option.some (reason, mode))
    (upgrades : r.ghost = .upgrade ∨ r.ghost = .force ∧ reason = .indeterminate) :
    judgeWalk st lib r e w =
      if rectBlocked st.granularity w.readings = true ∨ earlyDataPasses lib w.band w.dataReady mode = false then
        .staysUpgraded reason mode
      else .admits mode (Option.some reason) (List.range w.readings.length) false := by
  have verdict : ghostVerdict r.ghost (Option.some (reason, mode)) = .upgrades reason mode := by
    rcases upgrades with upgrade | ⟨force, set⟩
    · simp [ghostVerdict, upgrade]
    · simp [ghostVerdict, force, set]
  simp [judgeWalk, stage, some, failed, verdict]

end

/-- The early-data test (R93). -/
theorem earlyDataPasses_iff (lib : Library) (band : Nat) (ready : Bool) (m : Mode) :
    earlyDataPasses lib band ready m = true ↔ ready = true
      ∨ 0 < (lib.setOf m band).leads ∧ (lib.setOf m band).leads < (lib.setOf m band).frames := by
  simp [earlyDataPasses]

/-- The result of a walk (R86 to R93), in the order of `Obligations.AdmissionArmsALane`. -/
theorem judgeWalk_judges (st : Settings) (lib : Library) (r : Request) (e : QueueEntry) (w : AdmissionWalk) :
    (collisionStage st.granularity r e w.mode w.readings = none → judgeWalk st lib r e w = .stays)
      ∧ (collisionStage st.granularity r e w.mode w.readings = some ([], true) → judgeWalk st lib r e w = .stays)
      ∧ (collisionStage st.granularity r e w.mode w.readings = some ([], false) →
          judgeWalk st lib r e w = .resolves .noChange none)
      ∧ (∀ m, earlyDataPasses lib w.band w.dataReady m = true ↔ w.dataReady = true
          ∨ 0 < (lib.setOf m w.band).leads ∧ (lib.setOf m w.band).leads < (lib.setOf m w.band).frames)
      ∧ ∀ drive remainder failure,
          collisionStage st.granularity r e w.mode w.readings = some (drive, remainder) → drive ≠ [] →
          ghostFailure st.residueLimit st.balanceLimit w.mode (drive.map fun p => p.2) = failure →
          (failure = none ∨ r.ghost = .force ∧ (∀ mode, failure ≠ some (.indeterminate, mode)) →
              judgeWalk st lib r e w =
                if earlyDataPasses lib w.band w.dataReady w.mode = true then
                  .admits w.mode none (drive.map fun p => p.1) remainder
                else .stays)
            ∧ ∀ reason mode, failure = some (reason, mode) →
                (r.ghost = .refuse → judgeWalk st lib r e w = .resolves .ghostRefused (some reason))
                  ∧ (r.ghost = .upgrade ∨ r.ghost = .force ∧ reason = .indeterminate →
                      judgeWalk st lib r e w =
                        if rectBlocked st.granularity w.readings = true
                            ∨ earlyDataPasses lib w.band w.dataReady mode = false then
                          .staysUpgraded reason mode
                        else .admits mode (some reason) (List.range w.readings.length) false) := by
  refine ⟨fun stage => by simp [judgeWalk, stage], fun stage => by simp [judgeWalk, stage],
    fun stage => by simp [judgeWalk, stage], earlyDataPasses_iff lib w.band w.dataReady,
    fun drive remainder failure stage some failed => ⟨judgeWalk_passes stage some failed, fun reason mode fails => ?_⟩⟩
  rw [fails] at failed
  exact ⟨judgeWalk_refuses stage some failed, judgeWalk_upgrades stage some failed⟩

end Sys2Proof.Machine
end

section
/-!
PROOF. What follows the result of an admission walk: pending withdrawal and cancel taken, and the request judged (chapters 03
and 05).
-/

namespace Sys2Proof.Machine

open Sys2Proof.Safety

/-! ### The pending withdrawal and cancel (R52, R54, R59) -/

/-- The outcome with which a walk's end releases the ARMED lanes of a request, if it does: that of its withdrawal, else that of
the cancel pending. -/
def Request.release (q : Request) : Option ReqOutcome :=
  if q.withdrawn = true then some .aborted
  else match q.withdrawalPending, q.cancelPending with
    | some o, _ => some o
    | none, .plain => some .cancelled
    | none, .forced => some .aborted
    | none, .none => none

/-- A lane behind the end of a walk of a request. -/
def Lane.behindAdmission (q : Request) (ln : Lane) : Lane :=
  if ln.tag ≠ q.tag then ln
  else match ln.state, q.release with
    | .armed, some o => { ln with state := .retiring (.release o) 0 }
    | .active, _ =>
      if q.withdrawn = false ∧ q.cancelPending = .forced then { ln with state := .retiring (.abort .cancelled) 0 } else ln
    | _, _ => ln

/-- The record of a request behind what was pending, its entry dropped or not: an entry's part finishes with the outcome of
the withdrawal, or else of the cancel; a cancel brings in its own. -/
def Request.behindAdmission (dropped : Bool) (q : Request) : Request :=
  { q with
    partsFinished := if dropped = true then q.partsFinished + 1 else q.partsFinished
    outcome :=
      if q.withdrawn = false ∧ q.cancelPending ≠ .none then
        some (bringIn
          (if dropped = true ∧ q.withdrawalPending.isSome = true then
            q.withdrawalPending.map (bringIn q.outcome) else q.outcome)
          (if q.cancelPending = .forced then .aborted else .cancelled))
      else if dropped = true then q.release.map (bringIn q.outcome)
      else q.outcome
    withdrawalPending := if q.withdrawn = true then q.withdrawalPending else none
    cancelPending := if q.withdrawn = true then q.cancelPending else .none }

/-- What an operation on a request found as q does: its record becomes z, the others stay, its entry goes or stays, and every
lane is turned. -/
structure Settles (q z : Request) (g : Lane → Lane) (gone : Bool) (s u : State) : Prop where
  record : findAge s q.age = some q → findAge u q.age = some z
  others : ∀ a, a ≠ q.age → findAge u a = findAge s a
  queue : u.req.queue = if gone = true then s.req.queue.filter (fun e => e.age ≠ q.age) else s.req.queue
  lanes : ∀ l, laneAt u l = (laneAt s l).map g

section
variable {q z z' : Request} {g g' : Lane → Lane} {gone gone' : Bool} {s t u : State}

theorem Settles.rfl : Settles q q id false s s :=
  ⟨id, fun _ _ => .refl _, .refl _, fun _ => Option.map_id'.symm⟩

/-- One operation after the other. -/
theorem Settles.trans (h : Settles q z g gone s t) (k : Settles z z' g' gone' t u) (age : z.age = q.age) :
    Settles q z' (g' ∘ g) (gone || gone') s u where
  record found := by rw [← age]; exact k.record (by rw [age]; exact h.record found)
  others a other := (k.others a (by rwa [age])).trans (h.others a other)
  queue := by
    rw [k.queue, h.queue, age]
    cases gone <;> cases gone' <;> simp
  lanes l := by rw [k.lanes, h.lanes, Option.map_map]

/-- The record is told something more. -/
theorem Settles.told (h : Settles q z g gone s u) (age : z.age = q.age) {f : Request → Request}
    (ages : ∀ r, (f r).age = r.age) : Settles q (f z) g gone s (updateRequest q.age f u) where
  record found := by rw [findAge_updateRequest ages, h.record found]; simp [age]
  others a other := by rw [findAge_updateRequest_of_ne ages _ other, h.others a other]
  queue := by simpa using h.queue
  lanes l := by rw [laneAt_congr (s := u) (by simp), h.lanes]

/-- Requests and lanes alone count. -/
theorem Settles.congr (h : Settles q z g gone s u) {s' u' : State} (req : s'.req = s.req) (lanes : s'.lanes = s.lanes)
    (req' : u'.req = u.req) (lanes' : u'.lanes = u.lanes) : Settles q z g gone s' u' where
  record found := by
    rw [findAge_congr (s := s) (by rw [req])] at found
    rw [findAge_congr (s := u) (by rw [req']), h.record found]
  others a other :=
    (findAge_congr (by rw [req']) a).trans ((h.others a other).trans (findAge_congr (by rw [req]) a).symm)
  queue := by rw [req', req, h.queue]
  lanes l := by rw [laneAt_congr lanes', laneAt_congr lanes, h.lanes]

/-- A record whose entry, if there is one, has been dropped with an outcome. -/
def Request.entryDropped (entry : Option QueueEntry) (o : ReqOutcome) (q : Request) : Request :=
  if entry = none then q else q.withPartFinished o

@[simp] theorem Request.entryDropped_keeps (entry : Option QueueEntry) (o : ReqOutcome) (q : Request) :
    (q.entryDropped entry o).age = q.age ∧ (q.entryDropped entry o).tag = q.tag
      ∧ (q.entryDropped entry o).cancelPending = q.cancelPending := by
  unfold entryDropped
  split <;> exact ⟨.refl _, .refl _, .refl _⟩

/-- An entry dropped and the ARMED lanes released (R50, R54). -/
theorem settles_drop (q : Request) (o release : ReqOutcome) (s : State) :
    Settles q (q.entryDropped (entryOf s q.age) o) (Lane.cleared q.tag release) true s
      (releaseArmed q.tag release (dropEntryTriggering q.age o s)) where
  record found := by
    rw [findAge_congr (s := dropEntryTriggering q.age o s) (by simp), findAge_dropEntryTriggering, found]
    simp [Request.entryDropped]
  others a other := by
    rw [findAge_congr (s := dropEntryTriggering q.age o s) (by simp), findAge_dropEntryTriggering]
    cases found : findAge s a with
    | none => simp
    | some r => simp [age_of_findAge found, other]
  queue := by simp [dropEntryTriggering_queue]
  lanes l := by
    rw [laneAt_releaseArmed, laneAt_congr (s := s) (by simp)]
    congr 1

/-- Every ACTIVE lane of a request aborted (R51). -/
theorem settles_abort (q : Request) (s : State) :
    Settles q q (fun ln => if ln.tag = q.tag then ln.aborted .cancelled else ln) false s
      (abortActive q.tag .cancelled s) where
  record found := by rw [findAge_congr (s := s) (by simp), found]
  others a _ := findAge_congr (by simp) a
  queue := by simp
  lanes := laneAt_abortActive q.tag .cancelled s

/-- The record behind a cancel taken with an outcome. -/
def Request.cancelTaken (entry : Option QueueEntry) (o : ReqOutcome) (q : Request) : Request :=
  { q.entryDropped entry o with
    outcome := some (bringIn (q.entryDropped entry o).outcome o), cancelPending := .none }

/-- A plain cancel that was pending is taken (R52). -/
theorem takePendingCancel_plain (found : findAge s q.age = some q) (plain : q.cancelPending = .plain) :
    Settles q (q.cancelTaken (entryOf s q.age) .cancelled) (Lane.cleared q.tag .cancelled) true s
      (takePendingCancel q.age s) := by
  have taken : takePendingCancel q.age s = updateRequest q.age (fun r => { r with cancelPending := .none })
      (plainCancel q s) := by
    simp only [takePendingCancel, found, plain]
  rw [taken]
  have brought := (settles_drop q .cancelled .cancelled s).told (by simp)
    (f := fun r => { r with outcome := some (bringIn r.outcome .cancelled) }) fun _ => .refl _
  exact brought.told (f := fun r => { r with cancelPending := .none }) (by simp) fun _ => .refl _

/-- A forced cancel that was pending is taken (R52). -/
theorem takePendingCancel_forced (found : findAge s q.age = some q) (forced : q.cancelPending = .forced) :
    Settles q (q.cancelTaken (entryOf s q.age) .aborted) (Lane.forced q.tag) true s (takePendingCancel q.age s) := by
  have taken : takePendingCancel q.age s = updateRequest q.age (fun r => { r with cancelPending := .none })
      (forcedCancel q s) := by
    simp only [takePendingCancel, found, forced]
  have entry : entryOf (abortActive q.tag .cancelled s) q.age = entryOf s q.age := entryOf_congr (by simp) _
  have lane : Lane.forced q.tag =
      Lane.cleared q.tag .aborted ∘ fun ln => if ln.tag = q.tag then ln.aborted .cancelled else ln := by
    funext ln
    by_cases own : ln.tag = q.tag <;> simp [Lane.forced, Lane.cleared, own, Lane.aborted_tag]
  have dropped := (settles_abort q s).trans (settles_drop q .aborted .aborted (abortActive q.tag .cancelled s)) (.refl _)
  rw [entry, ← lane] at dropped
  have brought := dropped.told (by simp)
    (f := fun r => { r with outcome := some (bringIn r.outcome .aborted) }) fun _ => .refl _
  rw [taken]
  exact brought.told (f := fun r => { r with cancelPending := .none }) (by simp) fun _ => .refl _

/-- Without a cancel pending none is taken. -/
theorem takePendingCancel_none (found : findAge s q.age = some q) (none : q.cancelPending = .none) :
    takePendingCancel q.age s = s := by
  simp only [takePendingCancel, found, none]

/-- A withdrawal that was pending is taken (R54). -/
theorem takePendingWithdrawal_some {o : ReqOutcome} (found : findAge s q.age = some q)
    (pending : q.withdrawalPending = some o) :
    Settles q { q.entryDropped (entryOf s q.age) o with withdrawalPending := none } (Lane.cleared q.tag o) true s
      (takePendingWithdrawal q.age s) := by
  have taken : takePendingWithdrawal q.age s = updateRequest q.age (fun r => { r with withdrawalPending := none })
      (releaseArmed q.tag o (dropEntryTriggering q.age o s)) := by
    simp only [takePendingWithdrawal, found, pending]
  rw [taken]
  exact (settles_drop q o o s).told (f := fun r => { r with withdrawalPending := none }) (by simp) fun _ => .refl _

/-- A withdrawn request loses entry and ARMED lanes (R59, R116, log 14). -/
theorem afterWalk_withdrawn (found : findAge s q.age = some q) (gone : q.withdrawn = true) :
    Settles q (q.entryDropped (entryOf s q.age) .aborted) (Lane.cleared q.tag .aborted) true s (afterWalk q.age s) := by
  have taken : afterWalk q.age s = releaseArmed q.tag .aborted (dropEntry q.age .aborted s) := by
    simp only [afterWalk, found, gone, if_true]
  have same : (dropEntryTriggering q.age .aborted s).req = (dropEntry q.age .aborted s).req := by
    unfold dropEntryTriggering dropEntry
    cases entryOf s q.age <;> simp
  rw [taken]
  have drop := settles_drop q .aborted .aborted s
  refine ⟨fun there => ?_, fun a other => ?_, ?_, fun l => ?_⟩
  · rw [← drop.record there]
    exact findAge_congr (by simp [same]) _
  · rw [← drop.others a other]
    exact findAge_congr (by simp [same]) _
  · rw [← drop.queue]
    simp [same]
  · rw [← drop.lanes, laneAt_releaseArmed, laneAt_releaseArmed, laneAt_congr (s := s) (by simp),
      laneAt_congr (s := s) (t := dropEntryTriggering q.age .aborted s) (by simp)]

/-- Record, lanes and loss of the entry, told in other words. -/
theorem Settles.of_eq (h : Settles q z g gone s u) (record : z = z') (lanes : ∀ ln, g ln = g' ln) (goes : gone = gone') :
    Settles q z' g' gone' s u := by
  obtain rfl := record
  obtain rfl := goes
  obtain rfl : g = g' := funext lanes
  exact h

/-- Where nothing is pending, nothing is taken. -/
theorem afterWalk_plain (found : findAge s q.age = some q) (live : q.withdrawn = false) :
    afterWalk q.age s = takePendingCancel q.age (takePendingWithdrawal q.age s) := by
  simp only [afterWalk, found, live, Bool.false_eq_true, if_false]

/-- The record of a request told what was pending, the withdrawal alone. -/
def Request.withdrawalTaken (entry : Option QueueEntry) (o : ReqOutcome) (q : Request) : Request :=
  { q.entryDropped entry o with withdrawalPending := none }

/-- A withdrawal taken leaves no entry, and the record under its age. -/
theorem takePendingWithdrawal_leaves {o : ReqOutcome} (found : findAge s q.age = some q)
    (pending : q.withdrawalPending = some o) :
    findAge (takePendingWithdrawal q.age s) q.age = some (q.withdrawalTaken (entryOf s q.age) o)
      ∧ entryOf (takePendingWithdrawal q.age s) q.age = none := by
  have taken := takePendingWithdrawal_some found pending
  refine ⟨taken.record found, entryOf_eq_none_iff.mpr fun e mem => ?_⟩
  rw [taken.queue, if_pos (Eq.refl true)] at mem
  simpa using (List.mem_filter.mp mem).2

/-- A withdrawal and a cancel taken, one after the other: the cancel finds no entry and no ARMED lane. -/
theorem afterWalk_both {o : ReqOutcome} (found : findAge s q.age = some q) (live : q.withdrawn = false)
    (withdrawal : q.withdrawalPending = some o) {c : ReqOutcome} {turn : Lane → Lane}
    (cancel : ∀ {t : State} {p : Request}, findAge t p.age = some p → p.cancelPending = q.cancelPending → p.tag = q.tag →
      Settles p (p.cancelTaken (entryOf t p.age) c) turn true t (takePendingCancel p.age t)) :
    Settles q ((q.withdrawalTaken (entryOf s q.age) o).cancelTaken none c) (turn ∘ Lane.cleared q.tag o) true s
      (afterWalk q.age s) := by
  have first := takePendingWithdrawal_some found withdrawal
  obtain ⟨record, entry⟩ := takePendingWithdrawal_leaves found withdrawal
  have age : (q.withdrawalTaken (entryOf s q.age) o).age = q.age := by simp [Request.withdrawalTaken]
  have second := cancel (t := takePendingWithdrawal q.age s) (p := q.withdrawalTaken (entryOf s q.age) o)
    (by rw [age, record]) (by simp [Request.withdrawalTaken]) (by simp [Request.withdrawalTaken])
  rw [age, entry] at second
  rw [afterWalk_plain found live]
  exact first.trans second age

/-- A cancel taken alone. -/
theorem afterWalk_cancel (found : findAge s q.age = some q) (live : q.withdrawn = false)
    (withdrawal : q.withdrawalPending = none) : afterWalk q.age s = takePendingCancel q.age s := by
  have none : takePendingWithdrawal q.age s = s := by simp only [takePendingWithdrawal, found, withdrawal]
  rw [afterWalk_plain found live, none]

/-- What the end of a walk takes (R52, R54, R59): withdrawn requests first, then the withdrawal pending, then the cancel. -/
theorem afterWalk_settles (found : findAge s q.age = some q) :
    Settles q (q.behindAdmission (q.release.isSome && (entryOf s q.age).isSome)) (Lane.behindAdmission q)
      q.release.isSome s (afterWalk q.age s) := by
  cases live : q.withdrawn with
  | true =>
    have released : q.release = some .aborted := by simp [Request.release, live]
    refine (afterWalk_withdrawn found live).of_eq ?_ (fun ln => ?_) (by simp [released])
    · cases entry : entryOf s q.age with
      | none =>
        have same : { q with withdrawn := true } = q := by rw [← live]
        simpa [Request.entryDropped, Request.behindAdmission, released, live] using same.symm
      | some e => simp [Request.entryDropped, Request.behindAdmission, Request.withPartFinished, released, live]
    · rw [Lane.cleared_eq]
      cases state : ln.state <;> simp [Lane.behindAdmission, state, released, live]
  | false =>
    cases withdrawal : q.withdrawalPending with
    | none =>
      rw [afterWalk_cancel found live withdrawal]
      cases cancel : q.cancelPending with
      | none =>
        have released : q.release = none := by simp [Request.release, live, withdrawal, cancel]
        rw [takePendingCancel_none found cancel]
        refine Settles.rfl.of_eq ?_ (fun ln => ?_) (by simp [released])
        · obtain ⟨⟩ := q
          simp_all [Request.behindAdmission]
        · cases state : ln.state <;> simp [Lane.behindAdmission, state, released, cancel]
      | plain =>
        have released : q.release = some .cancelled := by simp [Request.release, live, withdrawal, cancel]
        refine (takePendingCancel_plain found cancel).of_eq ?_ (fun ln => ?_) (by simp [released])
        · cases entry : entryOf s q.age <;>
            simp [Request.cancelTaken, Request.entryDropped, Request.behindAdmission, Request.withPartFinished, released, live,
              cancel, withdrawal, bringIn_same]
        · rw [Lane.cleared_eq]
          cases state : ln.state <;> simp [Lane.behindAdmission, state, released, cancel]
      | forced =>
        have released : q.release = some .aborted := by simp [Request.release, live, withdrawal, cancel]
        refine (takePendingCancel_forced found cancel).of_eq ?_ (fun ln => ?_) (by simp [released])
        · cases entry : entryOf s q.age <;>
            simp [Request.cancelTaken, Request.entryDropped, Request.behindAdmission, Request.withPartFinished, released, live,
              cancel, withdrawal, bringIn_same]
        · rw [Lane.forced_eq]
          cases state : ln.state <;> simp [Lane.behindAdmission, state, released, cancel, live]
    | some o =>
      have released : q.release = some o := by simp [Request.release, live, withdrawal]
      cases cancel : q.cancelPending with
      | none =>
        obtain ⟨record, -⟩ := takePendingWithdrawal_leaves found withdrawal
        have same := takePendingCancel_none (q := q.withdrawalTaken (entryOf s q.age) o)
          (s := takePendingWithdrawal q.age s) (by simpa [Request.withdrawalTaken] using record)
          (by simpa [Request.withdrawalTaken] using cancel)
        have alone : afterWalk q.age s = takePendingWithdrawal q.age s := by
          rw [afterWalk_plain found live]
          simpa [Request.withdrawalTaken] using same
        rw [alone]
        refine (takePendingWithdrawal_some found withdrawal).of_eq ?_ (fun ln => ?_) (by simp [released])
        · cases entry : entryOf s q.age <;>
            simp [Request.entryDropped, Request.behindAdmission, Request.withPartFinished, released, live, cancel]
        · rw [Lane.cleared_eq]
          cases state : ln.state <;> simp [Lane.behindAdmission, state, released, cancel]
      | plain =>
        refine (afterWalk_both found live withdrawal (c := .cancelled) (turn := Lane.cleared q.tag .cancelled)
          fun there pending tag => ?_).of_eq ?_ (fun ln => ?_) (by simp [released])
        · rw [← tag]
          exact takePendingCancel_plain there (pending.trans cancel)
        · cases entry : entryOf s q.age <;>
            simp [Request.withdrawalTaken, Request.cancelTaken, Request.entryDropped, Request.behindAdmission,
              Request.withPartFinished, released, live, cancel, withdrawal]
        · by_cases own : ln.tag = q.tag <;> cases state : ln.state <;>
            simp [Lane.behindAdmission, Lane.cleared_eq, own, state, released, cancel]
      | forced =>
        refine (afterWalk_both found live withdrawal (c := .aborted) (turn := Lane.forced q.tag)
          fun there pending tag => ?_).of_eq ?_ (fun ln => ?_) (by simp [released])
        · rw [← tag]
          exact takePendingCancel_forced there (pending.trans cancel)
        · cases entry : entryOf s q.age <;>
            simp [Request.withdrawalTaken, Request.cancelTaken, Request.entryDropped, Request.behindAdmission,
              Request.withPartFinished, released, live, cancel, withdrawal]
        · by_cases own : ln.tag = q.tag <;> cases state : ln.state <;>
            simp [Lane.behindAdmission, Lane.cleared_eq, Lane.forced_eq, own, state, released, cancel, live]

end

end Sys2Proof.Machine
end

section
/-!
PROOF. What the result of an admission walk leaves of requests, entries, lanes, pixels and counters (chapters 03 and 05).
-/

namespace Sys2Proof.Machine

open Sys2Proof.Safety

/-! ### Readings and the frame memory -/

/-- A target is read off staging bytes and the frame memory's epoch. -/
theorem targetLevel_lastBursts (who : Requester) (s : State) : targetLevel (lastBursts who s) = targetLevel s := by
  have bytes : stagingByte (lastBursts who s) = stagingByte s := funext (stagingByte_congr (by simp) (by simp))
  funext source pages rect x y
  cases source <;> simp only [targetLevel, imageLevel, bytes, lastBursts_keeps]

/-- A walk reads nothing that the bursts it waits for write. -/
theorem readPixel_lastBursts (who : Requester) (s : State) : readPixel (lastBursts who s) = readPixel s := by
  funext w r i
  simp only [readPixel, targetLevel_lastBursts]
  rw [lastBursts_mem]
  rfl

/-- The walk goes forward alike behind the bursts it waits for. -/
theorem advanceWalk_lastBursts (who : Requester) (s : State) (r : Request) (n : Nat) (w : AdmissionWalk) :
    advanceWalk (lastBursts who s) r n w = advanceWalk s r n w := by
  simp only [advanceWalk, readPixel_lastBursts]

/-! ### The record behind the result (R39, R42, R44, R91, R94) -/

/-- A record that notes a new mode and the reason of the upgrade (R91). -/
def Request.upgraded (reason : UpgradeReason) (mode : Mode) (q : Request) : Request :=
  { q with modeUsed := some mode, upgradeReason := some reason }

/-- The record of a walked request behind the result, which finds a FREE lane or none. -/
def WalkResult.tells (result : WalkResult) (band : Nat) (lane : Option LaneId) (q : Request) : Request :=
  match result, lane with
  | .stays, _ | .admits _ _ _ _, none => q
  | .staysUpgraded reason mode, _ => q.upgraded reason mode
  | .admits mode reason _ remainder, some _ =>
    { q.admitted mode band remainder with upgradeReason := reason.or q.upgradeReason }
  | .resolves outcome reason, _ => { q.withPartFinished outcome with upgradeReason := reason.or q.upgradeReason }

/-- Whichever the result, the record keeps age and tag, its pages, what is pending, and whether it is REPORTING. -/
structure Request.SameTerms (q p : Request) : Prop where
  age : p.age = q.age
  tag : p.tag = q.tag
  pages : p.pages = q.pages
  withdrawn : p.withdrawn = q.withdrawn
  withdrawal : p.withdrawalPending = q.withdrawalPending
  cancel : p.cancelPending = q.cancelPending
  reporting : p.state = .reporting ↔ q.state = .reporting

theorem WalkResult.tells_sameTerms (result : WalkResult) (band : Nat) (lane : Option LaneId) (q : Request) :
    q.SameTerms (result.tells band lane q) := by
  cases result with
  | stays => constructor <;> rfl
  | staysUpgraded reason mode => constructor <;> rfl
  | resolves outcome reason => constructor <;> rfl
  | admits mode reason drive remainder =>
    cases lane with
    | none => constructor <;> rfl
    | some l => exact ⟨rfl, rfl, rfl, rfl, rfl, rfl, Request.admitted_state (mode := mode) (band := band) (remainder := remainder)⟩

section
variable {r : Request} {e : QueueEntry} {w : AdmissionWalk} {s t : State}

theorem noteUpgrade_table (age : Nat) (reason : UpgradeReason) (mode : Mode) (s : State) :
    (noteUpgrade age reason mode s).req.table = s.req.table.map fun q => if q.age = age then q.upgraded reason mode else q :=
  rfl

theorem noteRefusal_table (age : Nat) (reason : UpgradeReason) (s : State) : (noteRefusal age reason s).req.table =
    s.req.table.map fun q => if q.age = age then { q with upgradeReason := some reason } else q :=
  rfl

theorem resolveEntry_table (age : Nat) (o : ReqOutcome) (s : State) : (resolveEntry age o s).req.table =
    s.req.table.map fun q => if q.age = age then q.withPartFinished o else q :=
  rfl

/-- The table behind the result: one record told. -/
theorem applyResult_table (r : Request) (e : QueueEntry) (w : AdmissionWalk) (result : WalkResult) (s : State) :
    (applyResult r e w result s).req.table = s.req.table.map fun q =>
      if q.age = r.age then result.tells w.band (freeLane s) q else q := by
  have same : ∀ f : Request → Request, (∀ q, f q = q) → s.req.table = s.req.table.map f := fun f id =>
    (List.map_id s.req.table).symm.trans (List.map_congr_left fun q _ => (id q).symm)
  cases result with
  | stays => exact same _ fun q => by simp [WalkResult.tells]
  | staysUpgraded reason mode => rfl
  | resolves outcome reason =>
    cases reason with
    | none => exact resolveEntry_table _ _ _
    | some why =>
      simp only [applyResult, noteRefusal_table, resolveEntry_table, List.map_map]
      refine List.map_congr_left fun q _ => ?_
      by_cases own : q.age = r.age <;> simp [own, WalkResult.tells, Request.withPartFinished]
  | admits mode reason drive remainder =>
    cases free : freeLane s with
    | none =>
      simp only [applyResult, free]
      exact same _ fun q => by simp [WalkResult.tells]
    | some l =>
      cases reason with
      | none =>
        simp only [applyResult, free, admitWalk_table]
        rfl
      | some why =>
        simp only [applyResult, free, noteUpgrade_table, admitWalk_table, List.map_map]
        refine List.map_congr_left fun q _ => ?_
        by_cases own : q.age = r.age <;> simp [own, WalkResult.tells, Request.admitted, Request.upgraded]

/-- What is found behind the result. -/
theorem findAge_applyResult (r : Request) (e : QueueEntry) (w : AdmissionWalk) (result : WalkResult) (s : State) (age : Nat) :
    findAge (applyResult r e w result s) age = (findAge s age).map fun q =>
      if q.age = r.age then result.tells w.band (freeLane s) q else q :=
  findAge_map (applyResult_table r e w result s)
    (fun q => by split <;> [exact (result.tells_sameTerms w.band (freeLane s) q).age; rfl]) age

/-- The walked request's record is told the result. -/
theorem findAge_applyResult_self (found : findAge s r.age = some r) (result : WalkResult) :
    findAge (applyResult r e w result s) r.age = some (result.tells w.band (freeLane s) r) := by
  simp [findAge_applyResult, found]

/-- The other records are told nothing. -/
theorem findAge_applyResult_of_ne (result : WalkResult) {age : Nat} (other : age ≠ r.age) :
    findAge (applyResult r e w result s) age = findAge s age := by
  rw [findAge_applyResult]
  cases found : findAge s age with
  | none => rfl
  | some q => simp [age_of_findAge found, other]

/-! ### Entries (R42, R44, R91) -/

/-- The queue behind an entry resolved without a lane. -/
theorem applyResult_resolves_queue (outcome : ReqOutcome) (reason : Option UpgradeReason) :
    (applyResult r e w (.resolves outcome reason) s).req.queue = s.req.queue.filter fun o => o.age ≠ r.age := by
  cases reason <;> rfl

/-- The queue behind an admission: the remainder in the entry's place, or nothing. -/
theorem applyResult_admits_queue (mode : Mode) (reason : Option UpgradeReason) (drive : List Nat) (remainder : Bool) {l : LaneId}
    (free : freeLane s = some l) : (applyResult r e w (.admits mode reason drive remainder) s).req.queue =
      if remainder = true then
        s.req.queue.map fun o =>
          if o.age = r.age then { age := r.age, part := r.partsUsed + 1, upgradePending := false, admitting := false } else o
      else s.req.queue.filter fun o => o.age ≠ r.age := by
  rw [← admitWalk_queue l r e w mode drive remainder s]
  cases reason <;> simp [applyResult, free]

/-! ### Lanes, pixels and counters (R94, R95, R168) -/

/-- Without an admission no lane and no pixel changes. -/
theorem applyResult_of_not_admits {result : WalkResult}
    (not : ∀ mode reason drive remainder, result ≠ .admits mode reason drive remainder) :
    (applyResult r e w result s).lanes = s.lanes ∧ (applyResult r e w result s).px = s.px := by
  cases result with
  | stays => exact ⟨rfl, rfl⟩
  | staysUpgraded reason mode => exact ⟨rfl, rfl⟩
  | resolves outcome reason => cases reason <;> exact ⟨rfl, rfl⟩
  | admits mode reason drive remainder => exact absurd rfl (not mode reason drive remainder)

/-- An admission arms the lane found FREE, and no other. -/
theorem laneAt_applyResult_admits (mode : Mode) (reason : Option UpgradeReason) (drive : List Nat) (remainder : Bool)
    {l : LaneId} (free : freeLane s = some l) (m : LaneId) :
    laneAt (applyResult r e w (.admits mode reason drive remainder) s) m =
      if m = l then some (armedLane s.lib r e w mode drive.length) else laneAt s m := by
  rw [← admitWalk_lanes l r e w mode drive remainder s m]
  cases reason with
  | none => simp only [applyResult, free]
  | some why =>
    simp only [applyResult, free]
    exact laneAt_congr (by simp) m

/-- A lane in use stays as it is, whichever the result. -/
theorem laneAt_applyResult_of_used (result : WalkResult) {l : LaneId} {ln : Lane} (used : laneAt s l = some ln) :
    laneAt (applyResult r e w result s) l = some ln := by
  cases result with
  | stays => exact used
  | staysUpgraded reason mode => exact used
  | resolves outcome reason => cases reason <;> exact used
  | admits mode reason drive remainder =>
    cases free : freeLane s with
    | none =>
      simp only [applyResult, free]
      exact used
    | some m =>
      rw [laneAt_applyResult_admits mode reason drive remainder free, if_neg, used]
      rintro rfl
      rw [((freeLane_iff s l).1.mp free).1] at used
      cases used

theorem updatePixel_px (x y : Nat) (f : PixelRecord → PixelRecord) (same : t.px = s.px) :
    (updatePixel x y f t).px = (updatePixel x y f s).px := by
  obtain ⟨⟩ := s
  obtain ⟨⟩ := t
  obtain rfl := same
  rfl

/-- Owning pixels and entering tiles sees the Pixel Store alone. -/
theorem addToTiles_ownPixels_px (l : LaneId) (rect : Rect) (drive : List Nat) (same : t.px = s.px) :
    (addToTiles l rect (ownPixels l rect drive t)).px = (addToTiles l rect (ownPixels l rect drive s)).px := by
  have owned : (ownPixels l rect drive t).px = (ownPixels l rect drive s).px := by
    unfold ownPixels
    induction drive generalizing s t with
    | nil => exact same
    | cons i drive ih => exact ih (updatePixel_px _ _ _ same)
  simp only [addToTiles, touchedTiles, tileColumns, panelWidth, owned]

theorem applyResult_admits_px (mode : Mode) (reason : Option UpgradeReason) (drive : List Nat) (remainder : Bool) {l : LaneId}
    (free : freeLane s = some l) : (applyResult r e w (.admits mode reason drive remainder) s).px =
      (addToTiles l r.rect (ownPixels l r.rect drive s)).px := by
  have admitted : (admitWalk l r e w mode drive remainder s).px = (addToTiles l r.rect (ownPixels l r.rect drive s)).px := by
    simp only [admitWalk, settleEntry_keeps, updateRequest_keeps]
    exact addToTiles_ownPixels_px l r.rect drive (t := setLane l _ s) (by simp)
  rw [← admitted]
  cases reason <;> simp [applyResult, free]

theorem applyResult_admits_armed (mode : Mode) (reason : Option UpgradeReason) (drive : List Nat) (remainder : Bool)
    {l : LaneId} (free : freeLane s = some l) :
    (applyResult r e w (.admits mode reason drive remainder) s).counters.lanesArmed = bump s.counters.lanesArmed := by
  cases reason <;> simp [applyResult, free, admitWalk]

/-- An upgrade noted counts and raises GHOST (R91). -/
theorem noteUpgrade_counts (age : Nat) (reason : UpgradeReason) (mode : Mode) (s : State) :
    (noteUpgrade age reason mode s).counters.upgrades = bump s.counters.upgrades
      ∧ (noteUpgrade age reason mode s).notices.flags.getLsbD 9 = true :=
  ⟨rfl, (raise_getLsbD .ghost _ 9).mpr (.inr rfl)⟩

theorem applyResult_admits_upgrade (mode : Mode) {reason : Option UpgradeReason} (drive : List Nat) (remainder : Bool)
    {l : LaneId} (free : freeLane s = some l) (upgrade : reason.isSome = true) :
    (applyResult r e w (.admits mode reason drive remainder) s).counters.upgrades = bump s.counters.upgrades
      ∧ (applyResult r e w (.admits mode reason drive remainder) s).notices.flags.getLsbD 9 = true := by
  obtain ⟨why, rfl⟩ := Option.isSome_iff_exists.mp upgrade
  have noted := noteUpgrade_counts r.age why mode (admitWalk l r e w mode drive remainder s)
  simpa only [applyResult, free, admit_keeps] using noted

/-- A refusal counts and raises GHOST (R91). -/
theorem applyResult_resolves_refusal (outcome : ReqOutcome) {reason : Option UpgradeReason} (refusal : reason.isSome = true) :
    (applyResult r e w (.resolves outcome reason) s).counters.ghostRefusals = bump s.counters.ghostRefusals
      ∧ (applyResult r e w (.resolves outcome reason) s).notices.flags.getLsbD 9 = true := by
  obtain ⟨why, rfl⟩ := Option.isSome_iff_exists.mp refusal
  exact ⟨rfl, (raise_getLsbD .ghost _ 9).mpr (.inr rfl)⟩

end

end Sys2Proof.Machine
end

section
/-!
PROOF. What follows the result of an admission walk up to the end of its event: the request judged, and the pass (chapters 03
and 05).
-/

namespace Sys2Proof.Machine

open Sys2Proof.Safety

/-! ### The request judged (R56, R57, R59) -/

section
variable {t : State} {z : Request}

/-- A request with no part left has its record at the end of the line, from which the log takes what it has room for. -/
theorem judgeFinish_reports (told : findAge t z.age = some z) (live : z.withdrawn = false)
    (parts : z.partsFinished = z.partsUsed) (cancel : z.cancelPending = .none) (withdrawal : z.withdrawalPending = none)
    (first : z.state ≠ .reporting) (distinct : (z.age :: t.req.line.map fun h => h.age).Nodup) :
    (judgeFinish z.age t).notices.log ++ ((judgeFinish z.age t).req.line.map fun h => h.record) =
        t.notices.log ++ (t.req.line.map fun h => h.record) ++ [composeRecord z]
      ∧ (findAge (judgeFinish z.age t) z.age = none
          ∨ ∃ y, findAge (judgeFinish z.age t) z.age = some y ∧ y.state = .reporting) := by
  rw [judgeFinish_enters told live parts cancel withdrawal first, enterReporting_eq]
  have line : (linedUp z t).req.line = t.req.line ++ [{ age := z.age, record := composeRecord z }] := by rw [linedUp_req told]
  have apart : ((linedUp z t).req.line.map fun h => h.age).Nodup := by
    rw [line, List.map_append]
    exact (List.perm_append_comm.nodup_iff).mpr distinct
  obtain ⟨n, offers⟩ := offerRecords_offersFirst _ apart
  constructor
  · rw [offers.log, offers.line, linedUp_log, line, List.append_assoc, ← List.map_append, List.take_append_drop]
    simp
  · by_cases left : ∃ h ∈ (linedUp z t).req.line.take n, h.age = z.age
    · obtain ⟨h, mem, own⟩ := left
      exact .inl (own ▸ offers.gone h mem)
    · rw [offers.stays z.age fun h mem own => left ⟨h, mem, own⟩, findAge_linedUp told, if_pos rfl]
      exact .inr ⟨_, rfl, rfl⟩

/-- A withdrawn request judged touches neither line nor log. -/
theorem judgeFinish_withdrawn_log (told : findAge t z.age = some z) (gone : z.withdrawn = true) :
    (judgeFinish z.age t).req.line = t.req.line ∧ (judgeFinish z.age t).notices.log = t.notices.log := by
  simp [judgeFinish, told, gone]

/-- A withdrawn request judged leaves the others. -/
theorem judgeFinish_withdrawn_others (told : findAge t z.age = some z) (gone : z.withdrawn = true) {a : Nat}
    (other : a ≠ z.age) : findAge (judgeFinish z.age t) a = findAge t a := by
  simp only [judgeFinish, told, gone, if_true, leaveIfDone]
  split
  · rfl
  · rw [findAge_filter (leaveTable_table _ _) fun r same => by simpa [same] using other,
      findAge_map (freeRequestPages_table told) fun q => by split <;> rfl]
    cases there : findAge t a with
    | none => rfl
    | some p => simp [age_of_findAge there, other]

/-- A withdrawn request with neither entry nor lane is gone, and its pages are free. -/
theorem judgeFinish_withdrawn_gone (told : findAge t z.age = some z) (gone : z.withdrawn = true)
    (noEntry : isAdmitting t z.age = false) (noLane : anyLane t z.tag (fun _ => true) = false) :
    findAge (judgeFinish z.age t) z.age = none ∧ ∀ page ∈ z.pages.getD [], page ∈ (judgeFinish z.age t).pool.free := by
  rw [judgeFinish_withdrawn_leaves told gone noEntry noLane]
  refine ⟨findAge_filter_none (leaveTable_table _ _) fun r own => by simp [own], fun page mem => ?_⟩
  simpa using mem_freeRequestPages told mem

end

/-! ### What the result leaves, settled (R52, R54, R56, R59) -/

theorem Lane.behindAdmission_tag (q : Request) (ln : Lane) : (ln.behindAdmission q).tag = ln.tag := by
  unfold Lane.behindAdmission
  (repeat' split) <;> rfl

/-- A walk's end neither starts nor ends the abort walk of a RESTART. -/
theorem Lane.behindAdmission_restarted (q : Request) (ln : Lane) :
    (ln.behindAdmission q).state.restarted = ln.state.restarted := by
  unfold Lane.behindAdmission
  split
  · rfl
  · cases state : ln.state with
    | retiring kind done => simp [state]
    | armed => cases q.release <;> simp [state, LaneState.restarted]
    | active =>
      dsimp only
      split <;> simp [state, LaneState.restarted]

/-- The record of a walked request at the end of its walk, what was pending taken. -/
def Request.settledIn (a : State) (q : Request) : Request :=
  q.behindAdmission (q.release.isSome && (entryOf a q.age).isSome)

/-- The record behind what was pending keeps what names it. -/
@[simp] theorem Request.settledIn_keeps (a : State) (q : Request) :
    (q.settledIn a).age = q.age ∧ (q.settledIn a).tag = q.tag ∧ (q.settledIn a).pages = q.pages
      ∧ (q.settledIn a).withdrawn = q.withdrawn ∧ (q.settledIn a).state = q.state :=
  ⟨rfl, rfl, rfl, rfl, rfl⟩

section
variable {a b s : State} {q : Request}

/-- What was pending, taken from the result's state with its rails set. -/
theorem afterWalk_syncPower_settles (found : findAge a q.age = some q) :
    Settles q (q.settledIn a) (Lane.behindAdmission q) q.release.isSome a (afterWalk q.age (syncPower a)) := by
  have settles := afterWalk_settles (s := syncPower a) (by rwa [findAge_congr (s := a) (by simp)])
  rw [entryOf_congr (s := a) (by simp)] at settles
  exact settles.congr (by simp) (by simp) (.refl _) (.refl _)

/-- The request judged is all that touches table and line then. -/
theorem settleWalk_req (b : State) (age : Nat) (a : State) :
    (settleWalk b age a).req = (judgeFinish age (afterWalk age (syncPower a))).req := by
  simp [settleWalk]

theorem findAge_settleWalk (b : State) (age : Nat) (a : State) (n : Nat) :
    findAge (settleWalk b age a) n = findAge (judgeFinish age (afterWalk age (syncPower a))) n :=
  findAge_congr (by rw [settleWalk_req]) n

theorem laneAt_settleWalk (b : State) (found : findAge a q.age = some q) (l : LaneId) :
    laneAt (settleWalk b q.age a) l = (laneAt a l).map (Lane.behindAdmission q) := by
  rw [← (afterWalk_syncPower_settles found).lanes]
  exact laneAt_congr (by simp [settleWalk]) l

theorem settleWalk_queue (b : State) (found : findAge a q.age = some q) : (settleWalk b q.age a).req.queue =
    if q.release = none then a.req.queue else a.req.queue.filter fun e => e.age ≠ q.age := by
  have taken := (afterWalk_syncPower_settles found).queue
  rw [settleWalk_req]
  cases released : q.release <;> simpa [released] using taken

theorem settleWalk_adm (b : State) (age : Nat) (a : State) :
    (settleWalk b age a).adm.walk = a.adm.walk ∧ (settleWalk b age a).adm.passCut = a.adm.passCut := by
  simp

/-- The flags but QUEUE_ROOM's are the result's. -/
theorem settleWalk_flag (b : State) (age : Nat) (a : State) {i : Nat} (other : i ≠ 10) :
    (settleWalk b age a).notices.flags.getLsbD i = a.notices.flags.getLsbD i := by
  have judged := (judgeFinish_lightens age (afterWalk age (syncPower a))).flags i other
  simpa [settleWalk] using judged

theorem settleWalk_stays (b : State) (found : findAge a q.age = some q) (live : q.withdrawn = false)
    (parts : (q.settledIn a).partsFinished < (q.settledIn a).partsUsed) :
    findAge (settleWalk b q.age a) q.age = some (q.settledIn a) := by
  have told := (afterWalk_syncPower_settles found).record found
  rw [findAge_settleWalk, judgeFinish_stays told live (.inl (Nat.ne_of_lt parts)), told]

theorem settleWalk_reports (b : State) (found : findAge a q.age = some q) (live : q.withdrawn = false)
    (parts : (q.settledIn a).partsFinished = (q.settledIn a).partsUsed) (first : q.state ≠ .reporting)
    (distinct : (q.age :: a.req.line.map fun h => h.age).Nodup) :
    (settleWalk b q.age a).notices.log ++ ((settleWalk b q.age a).req.line.map fun h => h.record) =
        a.notices.log ++ (a.req.line.map fun h => h.record) ++ [composeRecord (q.settledIn a)]
      ∧ (findAge (settleWalk b q.age a) q.age = none
          ∨ ∃ y, findAge (settleWalk b q.age a) q.age = some y ∧ y.state = .reporting) := by
  have told := (afterWalk_syncPower_settles found).record found
  have reports := judgeFinish_reports (z := q.settledIn a) told live parts
    (by simp [Request.settledIn, Request.behindAdmission, live]) (by simp [Request.settledIn, Request.behindAdmission, live])
    first (by simpa using distinct)
  rw [findAge_settleWalk, settleWalk_req]
  simpa [settleWalk] using reports

theorem settleWalk_withdrawn (b : State) (found : findAge a q.age = some q) (gone : q.withdrawn = true) :
    (settleWalk b q.age a).req.line = a.req.line ∧ (settleWalk b q.age a).notices.log = a.notices.log
      ∧ ((∃ l ln, laneAt a l = some ln ∧ ln.tag = q.tag) → findAge (settleWalk b q.age a) q.age = some (q.settledIn a))
      ∧ ((∀ l ln, laneAt a l = some ln → ln.tag ≠ q.tag) → findAge (settleWalk b q.age a) q.age = none
          ∧ ∀ page ∈ q.pages.getD [], page ∈ (settleWalk b q.age a).pool.free) := by
  have settles := afterWalk_syncPower_settles found
  have told : findAge (afterWalk q.age (syncPower a)) (q.settledIn a).age = some (q.settledIn a) := settles.record found
  obtain ⟨line, log⟩ := judgeFinish_withdrawn_log told gone
  have carries : anyLane (afterWalk q.age (syncPower a)) (q.settledIn a).tag (fun _ => true) = true ↔
      ∃ l ln, laneAt a l = some ln ∧ ln.tag = q.tag := by
    rw [anyLane_true_iff]
    refine exists_congr fun l => ?_
    rw [settles.lanes]
    cases laneAt a l with
    | none => simp
    | some ln => simp [Lane.behindAdmission_tag]
  have noEntry : isAdmitting (afterWalk q.age (syncPower a)) q.age = false := by
    have released : q.release.isSome = true := by simp [Request.release, gone]
    have none : entryOf (afterWalk q.age (syncPower a)) q.age = none := by
      refine entryOf_eq_none_iff.mpr fun e mem => ?_
      rw [settles.queue, if_pos released] at mem
      simpa using (List.mem_filter.mp mem).2
    simp [isAdmitting, none]
  refine ⟨?_, ?_, fun lane => ?_, fun noLane => ?_⟩
  · rw [settleWalk_req]
    simpa  using line
  · simpa [settleWalk] using log
  · rw [findAge_settleWalk]
    exact (congrArg (findAge · q.age) (judgeFinish_withdrawn_stays told gone (.inr (carries.mpr lane)))).trans told
  · have none : anyLane (afterWalk q.age (syncPower a)) (q.settledIn a).tag (fun _ => true) = false :=
      Bool.eq_false_iff.mpr fun some => by
        obtain ⟨l, ln, lane, own⟩ := carries.mp some
        exact noLane l ln lane own
    obtain ⟨left, free⟩ := judgeFinish_withdrawn_gone told gone noEntry none
    rw [findAge_settleWalk]
    exact ⟨left, fun page mem => by simpa [settleWalk] using free page mem⟩

/-- The others stay where the request only stays, or leaves withdrawn. -/
theorem settleWalk_others (b : State) (found : findAge a q.age = some q)
    (quiet : q.withdrawn = true ∨ (q.settledIn a).partsFinished < (q.settledIn a).partsUsed) {age : Nat} (other : age ≠ q.age) :
    findAge (settleWalk b q.age a) age = findAge a age := by
  have settles := afterWalk_syncPower_settles found
  have told := settles.record found
  rw [findAge_settleWalk, ← settles.others age other]
  cases live : q.withdrawn with
  | true => exact judgeFinish_withdrawn_others (z := q.settledIn a) told live other
  | false =>
    have parts := quiet.resolve_left (by simp [live])
    rw [judgeFinish_stays told live (.inl (Nat.ne_of_lt parts))]

/-- A request that is in no place of the line stays whatever becomes of the walked one. -/
theorem settleWalk_outside (b : State) (found : findAge a q.age = some q) {age : Nat} (other : age ≠ q.age)
    (notInLine : ∀ h ∈ a.req.line, h.age ≠ age) : findAge (settleWalk b q.age a) age = findAge a age := by
  rw [findAge_settleWalk, findAge_judgeFinish_of_ne _ other (by simpa using notInLine)]
  exact (afterWalk_syncPower_settles found).others age other

/-! ### Holds and the pass (R78, R82) -/

/-- A hold stays while the lanes in use do. -/
theorem held_of_lanes_kept (lib : a.lib = s.lib) (temp : a.temp = s.temp) (rails : a.rails = s.rails)
    (walk : a.px.walk = s.px.walk) (used : ∀ l ln, laneAt s l = some ln → laneAt a l = some ln) (hold : held s = true) :
    held a = true := by
  rw [held_iff] at hold ⊢
  rw [lib, temp, rails, walk]
  rcases hold with invalid | cold | fault | walking | ⟨l, ln, done, lane, aborts⟩
  · exact .inl invalid
  · exact .inr (.inl cold)
  · exact .inr (.inr (.inl fault))
  · exact .inr (.inr (.inr (.inl walking)))
  · exact .inr (.inr (.inr (.inr ⟨l, ln, done, used l ln lane, aborts⟩)))

/-- Settling a walk changes no hold. -/
theorem held_settleWalk (b : State) (found : findAge a q.age = some q) : held (settleWalk b q.age a) = held a := by
  have settles := afterWalk_syncPower_settles found
  have walks : restartWalks (afterWalk q.age (syncPower a)) = restartWalks (syncPower a) :=
    (restartWalks_of_map settles.lanes (Lane.behindAdmission_restarted q)).trans
      (restartWalks_congr (s := a) (by simp)).symm
  have taken : held (afterWalk q.age (syncPower a)) = held (syncPower a) := by simp [held, initialising, walks]
  have judged : held (settleWalk b q.age a) = held (afterWalk q.age (syncPower a)) :=
    held_congr (by simp [settleWalk]) (by simp [settleWalk]) (by simp [settleWalk]) (by simp [settleWalk])
      (by simp [settleWalk])
  rw [judged, taken, held_syncPower]

theorem resumePass_lightens (age : Nat) (s : State) : Lightens s (resumePass age s) := by
  unfold resumePass
  exact .ite (fun _ => .of_eq (.refl _) (.refl _) (.refl _)) fun _ => runPass_lightens _ _

/-- A pass cut ends, and while admission is held none follows it (R82). -/
theorem finish_endPass_of_held (before : held b = true) (now : held a = true) :
    (finish b (endPass a)).adm.passRunning = false ∧ (finish b (endPass a)).req = a.req := by
  have still : held (endPass a) = true := by
    rwa [held_congr (s := a) (by simp) (by simp) (by simp) (by simp) (by simp)]
  obtain ⟨req, adm, -⟩ := finish_of_held_keeps before still
  rw [req, adm]
  exact ⟨rfl, rfl⟩

end

/-! ### The event (R42, R82) -/

/-- The walk's result, applied to the state in which the walk is over. -/
def walkApplied (s : State) (r : Request) (e : QueueEntry) (w : AdmissionWalk) (result : WalkResult) : State :=
  applyResult r e (advanceWalk s r r.rect.area w) result (dropWalk (lastBursts .admission s))

section
variable {s : State} {w : AdmissionWalk} {r : Request} {e : QueueEntry}

/-- The event of a walk's end, told by its three steps: the result, what follows it for the request, and the pass. -/
theorem exec_admissionWalkEnd (walk : s.adm.walk = some w) (found : findAge s w.age = some r) (entry : entryOf s w.age = some e) :
    exec .admissionWalkEnd s = .next (finish s (resumePass r.age (settleWalk (lastBursts .admission s) r.age
      (walkApplied s r e w (judgeWalk s.settings s.lib r e (advanceWalk s r r.rect.area w)))))) := by
  have ends : exec .admissionWalkEnd s = execAdmissionWalkEnd s := rfl
  have found' : findAge (lastBursts .admission s) w.age = some r := by rw [findAge_congr (s := s) (by simp), found]
  have entry' : entryOf (lastBursts .admission s) w.age = some e := by rw [entryOf_congr (s := s) (by simp), entry]
  rw [ends]
  simp only [execAdmissionWalkEnd, walk, endWalk, found', entry', endAdmission, advanceWalk_lastBursts, lastBursts_keeps,
    walkApplied, age_of_findAge found]

end

end Sys2Proof.Machine
end

section
/-!
PROOF. Admission walks from their passes to their results, as one statement (chapter 05).
-/

namespace Sys2Proof.Machine

open Sys2Proof.Safety

/-! ### Records alike in what the end of a walk goes by -/

theorem Request.SameTerms.release_eq {r q : Request} (same : r.SameTerms q) : q.release = r.release := by
  simp only [Request.release, same.withdrawn, same.withdrawal, same.cancel]

theorem Request.SameTerms.lane_eq {r q : Request} (same : r.SameTerms q) : Lane.behindAdmission q = Lane.behindAdmission r := by
  funext ln
  simp only [Lane.behindAdmission, same.tag, same.withdrawn, same.cancel, same.release_eq]

/-! ### The result, seen from the state before the event -/

section
variable {s : State} {w : AdmissionWalk} {r : Request} {e : QueueEntry} {result : WalkResult}

/-- The state in which the walk is over differs from the one before in memory and walk alone. -/
theorem findAge_walkOver (s : State) (age : Nat) : findAge (dropWalk (lastBursts .admission s)) age = findAge s age :=
  findAge_congr (by simp) age

theorem laneAt_walkOver (s : State) (l : LaneId) : laneAt (dropWalk (lastBursts .admission s)) l = laneAt s l :=
  laneAt_congr (by simp) l

theorem freeLane_walkOver (s : State) : freeLane (dropWalk (lastBursts .admission s)) = freeLane s := by
  simp only [freeLane, laneAt_walkOver]

/-- The walked request's record behind the result. -/
theorem findAge_walkApplied (found : findAge s r.age = some r) (result : WalkResult) :
    findAge (walkApplied s r e w result) r.age = some (result.tells w.band (freeLane s) r) := by
  rw [← freeLane_walkOver]
  exact findAge_applyResult_self ((findAge_walkOver s r.age).trans found) result

theorem findAge_walkApplied_of_ne (result : WalkResult) {age : Nat} (other : age ≠ r.age) :
    findAge (walkApplied s r e w result) age = findAge s age :=
  (findAge_applyResult_of_ne result other).trans (findAge_walkOver s age)

theorem walkApplied_keeps (s : State) (r : Request) (e : QueueEntry) (w : AdmissionWalk) (result : WalkResult) :
    (walkApplied s r e w result).lib = s.lib ∧ (walkApplied s r e w result).temp = s.temp
      ∧ (walkApplied s r e w result).rails = s.rails ∧ (walkApplied s r e w result).px.walk = s.px.walk
      ∧ (walkApplied s r e w result).req.line = s.req.line ∧ (walkApplied s r e w result).notices.log = s.notices.log
      ∧ (walkApplied s r e w result).adm.walk = none ∧ (walkApplied s r e w result).adm.passCut = s.adm.passCut := by
  simp only [walkApplied, applyResult_keeps, dropWalk_keeps, lastBursts_keeps, true_and, and_true]
  rfl

/-- A hold outlasts the result and what follows it: the lanes in use stay. -/
theorem held_walkApplied (result : WalkResult) (hold : held s = true) : held (walkApplied s r e w result) = true := by
  obtain ⟨lib, temp, rails, walk, -⟩ := walkApplied_keeps s r e w result
  exact held_of_lanes_kept lib temp rails walk
    (fun l ln used => laneAt_applyResult_of_used result ((laneAt_walkOver s l).trans used)) hold

/-- Pixels, lanes, counters and the GHOST notice at the event's end are the result's, but for the lanes that what was pending
turns. -/
theorem walkEnd_shows (b s : State) (age : Nat) (a : State) :
    (finish s (resumePass age (settleWalk b age a))).px = a.px
      ∧ (finish s (resumePass age (settleWalk b age a))).lanes = (settleWalk b age a).lanes
      ∧ (finish s (resumePass age (settleWalk b age a))).counters.lanesArmed = a.counters.lanesArmed
      ∧ (finish s (resumePass age (settleWalk b age a))).counters.upgrades = a.counters.upgrades
      ∧ (finish s (resumePass age (settleWalk b age a))).counters.ghostRefusals = a.counters.ghostRefusals
      ∧ (finish s (resumePass age (settleWalk b age a))).notices.flags.getLsbD 9 = a.notices.flags.getLsbD 9 := by
  refine ⟨by simp, by simp, by simp, by simp, by simp, ?_⟩
  calc (finish s (resumePass age (settleWalk b age a))).notices.flags.getLsbD 9
      = (resumePass age (settleWalk b age a)).notices.flags.getLsbD 9 := (finish_lightens _ _).flags 9 (by decide)
    _ = (settleWalk b age a).notices.flags.getLsbD 9 := (resumePass_lightens _ _).flags 9 (by decide)
    _ = a.notices.flags.getLsbD 9 := settleWalk_flag b age a (by decide)

/-- An admission: the lane armed, and no other; its pixels, tiles and counts. -/
theorem walkApplied_admits (mode : Mode) (reason : Option UpgradeReason) (drive : List Nat) (remainder : Bool) {l : LaneId}
    (free : freeLane s = some l) :
    laneAt (walkApplied s r e w (.admits mode reason drive remainder)) l =
        some (armedLane s.lib r e w mode drive.length)
      ∧ (∀ m, m ≠ l → laneAt (walkApplied s r e w (.admits mode reason drive remainder)) m = laneAt s m)
      ∧ (walkApplied s r e w (.admits mode reason drive remainder)).px =
          (addToTiles l r.rect (ownPixels l r.rect drive s)).px
      ∧ (walkApplied s r e w (.admits mode reason drive remainder)).counters.lanesArmed = bump s.counters.lanesArmed
      ∧ (reason.isSome = true →
          (walkApplied s r e w (.admits mode reason drive remainder)).counters.upgrades = bump s.counters.upgrades
            ∧ (walkApplied s r e w (.admits mode reason drive remainder)).notices.flags.getLsbD 9 = true) := by
  have free' : freeLane (dropWalk (lastBursts .admission s)) = some l := (freeLane_walkOver s).trans free
  have lanes := laneAt_applyResult_admits (r := r) (e := e) (w := advanceWalk s r r.rect.area w) mode reason drive remainder free'
  refine ⟨?_, fun m other => ?_, ?_, ?_, fun upgrade => ?_⟩
  · rw [walkApplied, lanes, if_pos rfl]
    simp only [dropWalk_keeps, lastBursts_keeps]
    rfl
  · rw [walkApplied, lanes, if_neg other, laneAt_walkOver]
  · rw [walkApplied, applyResult_admits_px mode reason drive remainder free']
    exact addToTiles_ownPixels_px l r.rect drive (by simp)
  · simpa [walkApplied] using applyResult_admits_armed (r := r) (e := e) (w := advanceWalk s r r.rect.area w) mode reason drive
      remainder free'
  · simpa [walkApplied] using applyResult_admits_upgrade (r := r) (e := e) (w := advanceWalk s r r.rect.area w) mode drive
      remainder free' upgrade

end

/-- Settles O37: passes, readings and judgement by their definitions' cases; the walk's end by its three steps, the result
applied (`walkApplied`), what was pending with the request judged (`settleWalk`), and the pass behind it (`resumePass`). -/
theorem admissionArmsALane : Obligations.AdmissionArmsALane := by
  unfold Obligations.AdmissionArmsALane
  refine ⟨tryPass_eq, fun _ => rfl, runPass_entry, held_iff, freeLane_iff, requestData, earlyPoint_bounds, fun _ _ _ => rfl,
    readPixel_reads, fun s l rect drive x y _ => pixelAt_admission s l rect drive x y, tiles_admission, natural_reads,
    collision_reads, collisionStage_judges, ghostFailure_judges, judgeWalk_judges,
    fun s w r e result walk found entry judged => ?_⟩
  have own : r.age = w.age := age_of_findAge found
  have found' : findAge s r.age = some r := own ▸ found
  have told := findAge_walkApplied (e := e) (w := w) found' result
  obtain ⟨q, behind, same⟩ : ∃ q, findAge (walkApplied s r e w result) r.age = some q ∧ r.SameTerms q :=
    ⟨_, told, result.tells_sameTerms w.band (freeLane s) r⟩
  have behind' : findAge (walkApplied s r e w result) q.age = some q := by rw [same.age, behind]
  obtain ⟨px, lanes, armed, upgrades, refusals, ghost⟩ :=
    walkEnd_shows (lastBursts .admission s) s r.age (walkApplied s r e w result)
  obtain ⟨-, -, -, -, line, log, ended, cut⟩ := walkApplied_keeps s r e w result
  obtain ⟨walk', cut'⟩ := settleWalk_adm (lastBursts .admission s) r.age (walkApplied s r e w result)
  refine ⟨walkApplied s r e w result, _, _, judged ▸ exec_admissionWalkEnd walk found entry, rfl, ?admits, ?armsNone,
    ?upgrades, ?refuses, fun age other => findAge_walkApplied_of_ne result other, ?stays, ?staysUpgraded, ?admitted, ?resolved,
    walk'.trans ended, cut'.trans cut, ?settled, ?passGoesOn, ?passEnds⟩
  case admits =>
    rintro mode reason drive remainder l rfl free
    rw [px, armed, upgrades, ghost]
    exact walkApplied_admits mode reason drive remainder free
  case armsNone =>
    intro not
    obtain ⟨lanes, px'⟩ := applyResult_of_not_admits (r := r) (e := e) (w := advanceWalk s r r.rect.area w)
      (s := dropWalk (lastBursts .admission s)) not
    exact ⟨lanes.trans (by simp), px.trans (px'.trans (by simp))⟩
  case upgrades =>
    rintro reason mode rfl
    rw [upgrades, ghost]
    simpa [walkApplied, applyResult] using noteUpgrade_counts r.age reason mode
      (updateEntry r.age (fun q => { q with admitting := false, upgradePending := true }) (dropWalk (lastBursts .admission s)))
  case refuses =>
    rintro outcome reason rfl refusal
    rw [refusals, ghost]
    simpa [walkApplied] using applyResult_resolves_refusal (r := r) (e := e) (w := advanceWalk s r r.rect.area w)
      (s := dropWalk (lastBursts .admission s)) outcome refusal
  case stays =>
    rintro rfl
    exact ⟨told, by simp [walkApplied, applyResult, updateEntry]⟩
  case staysUpgraded =>
    rintro reason mode rfl
    exact ⟨told, by simp [walkApplied, applyResult, updateEntry]⟩
  case admitted =>
    rintro mode reason drive remainder l rfl free
    have free' : freeLane (dropWalk (lastBursts .admission s)) = some l := (freeLane_walkOver s).trans free
    rw [free] at told
    refine ⟨?_, ?_⟩
    · rw [told]
      cases remainder <;> rfl
    · rw [walkApplied, applyResult_admits_queue mode reason drive remainder free']
      simp
  case resolved =>
    rintro outcome reason rfl
    exact ⟨told, (applyResult_resolves_queue outcome reason).trans (by simp)⟩
  case settled =>
    rintro release rfl
    refine ⟨fun l => ?_, ?_, fun p z dropped found dropped_as z_as => ?_⟩
    · rw [laneAt_congr lanes, ← same.age, laneAt_settleWalk _ behind', same.lane_eq]
      rfl
    · rw [← same.age, settleWalk_queue _ behind', same.release_eq]
      rfl
    · obtain rfl : q = p := Option.some.inj (behind.symm.trans found)
      have settled : z = q.settledIn (walkApplied s r e w result) := by
        rw [z_as, dropped_as]
        simp only [Request.settledIn, Request.behindAdmission, same.age, same.withdrawn, same.cancel, same.withdrawal,
          same.release_eq]
        rfl
      rw [← same.age, ← same.withdrawn, ← same.pages, ← same.tag, settled, ← line, ← log]
      refine ⟨settleWalk_stays _ behind', fun live parts first => ?_, settleWalk_withdrawn _ behind',
        fun quiet age other => ?_, fun age other outside => ?_⟩
      · exact settleWalk_reports _ behind' live parts (mt same.reporting.mp first)
      · rw [settleWalk_others _ behind' quiet other]
        exact findAge_walkApplied_of_ne result (same.age ▸ other)
      · rw [settleWalk_outside _ behind' other outside]
        exact findAge_walkApplied_of_ne result (same.age ▸ other)
  case passGoesOn =>
    intro through
    exact if_neg (by rw [cut'.trans (cut.trans through)]; decide)
  case passEnds =>
    intro stopped
    have ends : resumePass r.age (settleWalk (lastBursts .admission s) r.age (walkApplied s r e w result)) =
        endPass (settleWalk (lastBursts .admission s) r.age (walkApplied s r e w result)) :=
      if_pos (cut'.trans (cut.trans stopped))
    refine ⟨ends, fun hold => ?_⟩
    rw [ends]
    refine finish_endPass_of_held hold ?_
    rw [← same.age, held_settleWalk _ behind']
    exact held_walkApplied result hold

end Sys2Proof.Machine
end
